-- ==== Sys2Proof/Word.lean ====
section
/-! DEFINITION. The word types of the model and their plainest arithmetic. -/
namespace Sys2Proof

/-- A byte of memory or of an encoding. -/
abbrev Byte := BitVec 8
/-- The 64-bit cell in which a lane's value is held; a narrower value stands in its low bits. -/
abbrev Word := BitVec 64

end Sys2Proof
end

