-- ==== Sys2Proof/Machine/IntOps.lean ====
section
/-! DEFINITION. The arithmetic of the integer engine (spec/05_integer_engine.md) on plain numbers: a `w`-bit
operand is a `Nat` below `2^w`, and so is every result. The meanings in `Machine/Integer.lean` apply these
functions lane by lane. -/
namespace Sys2Proof.Machine.IntOps

/-- The signed value of the low `w` bits of `x` (R10 `sext`). -/
def sext (w x : Nat) : Int :=
  let y := x % 2 ^ w
  if w = 0 then 0 else if y < 2 ^ (w - 1) then (y : Int) else (y : Int) - (2 ^ w : Nat)

/-- The value `val(x)` of a `w`-bit operand under the signedness bit (R139). -/
def val (sx : Bool) (w x : Nat) : Int := if sx then sext w x else ((x % 2 ^ w : Nat) : Int)

/-- `wrap(v) = v mod 2^W` (R139). -/
def wrap (w : Nat) (v : Int) : Nat := (v % (2 ^ w : Nat)).toNat

/-- `satv(v)`: the clamp to the range that the signedness names (R139). -/
def satv (sx : Bool) (w : Nat) (v : Int) : Int :=
  if sx then min (max v (-(2 ^ (w - 1) : Nat))) ((2 ^ (w - 1) : Nat) - 1)
  else min (max v 0) ((2 ^ w : Nat) - 1)

/-- `fin(v)`: saturated when the saturate bit is set, wrapped otherwise (R139). -/
def fin (sat sx : Bool) (w : Nat) (v : Int) : Nat :=
  if sat then wrap w (satv sx w v) else wrap w v

/-- add (R140). -/
def add (sat sx : Bool) (w a b : Nat) : Nat := fin sat sx w (val sx w a + val sx w b)
/-- sub (R140). -/
def sub (sat sx : Bool) (w a b : Nat) : Nat := fin sat sx w (val sx w a - val sx w b)
/-- mul (R140). -/
def mul (sat sx : Bool) (w a b : Nat) : Nat := fin sat sx w (val sx w a * val sx w b)
/-- mad (R140). -/
def mad (sat sx : Bool) (w a b c : Nat) : Nat :=
  fin sat sx w (val sx w a * val sx w b + val sx w c)
/-- madhi (R140); `Int.fdiv` is the floor. -/
def madhi (sat sx : Bool) (w a b c : Nat) : Nat :=
  fin sat sx w (Int.fdiv (val sx w a * val sx w b) (2 ^ w : Nat) + val sx w c)
/-- mulhi (R140). -/
def mulhi (sx : Bool) (w a b : Nat) : Nat :=
  wrap w (Int.fdiv (val sx w a * val sx w b) (2 ^ w : Nat))
/-- mulw: the operands are `w/2` bits wide (R140). -/
def mulw (sx : Bool) (w a b : Nat) : Nat := wrap w (val sx (w / 2) a * val sx (w / 2) b)

/-- `v` lies outside the signed `w`-bit range. -/
def sOverflows (w : Nat) (v : Int) : Bool :=
  decide (v < -(2 ^ (w - 1) : Nat)) || decide (v > (2 ^ (w - 1) : Nat) - 1)

/-- addc: the sum and its carry or overflow out (R141). -/
def addc (sx : Bool) (w a b ci : Nat) : Nat × Nat :=
  let t := a % 2 ^ w + b % 2 ^ w + ci % 2
  (t % 2 ^ w,
    if sx then (if sOverflows w (sext w a + sext w b + (ci % 2 : Nat)) then 1 else 0)
    else if t ≥ 2 ^ w then 1 else 0)
/-- subb: the difference and its borrow or overflow out (R141). -/
def subb (sx : Bool) (w a b bi : Nat) : Nat × Nat :=
  let t : Int := ((a % 2 ^ w : Nat) : Int) - (b % 2 ^ w : Nat) - (bi % 2 : Nat)
  (wrap w t,
    if sx then (if sOverflows w (sext w a - sext w b - (bi % 2 : Nat)) then 1 else 0)
    else if t < 0 then 1 else 0)

/-- div: truncates toward zero; all ones for a zero divisor; `.sat` clamps the one overflow
(R142, Table 5.2). -/
def div (sat sx : Bool) (w a b : Nat) : Nat :=
  if b % 2 ^ w = 0 then 2 ^ w - 1
  else fin sat sx w (Int.tdiv (val sx w a) (val sx w b))
/-- rem: takes the sign of the dividend; the dividend itself for a zero divisor (R142). -/
def rem (sx : Bool) (w a b : Nat) : Nat :=
  if b % 2 ^ w = 0 then a % 2 ^ w else wrap w (Int.tmod (val sx w a) (val sx w b))

/-- neg (R143). -/
def neg (sat sx : Bool) (w a : Nat) : Nat := fin sat sx w (-(val sx w a))
/-- abs, `.sx` only (R143). -/
def abs (sat : Bool) (w a : Nat) : Nat := fin sat true w ((sext w a).natAbs : Int)
/-- min picks one operand unchanged (R143). -/
def min (sx : Bool) (w a b : Nat) : Nat := if val sx w a ≤ val sx w b then a % 2 ^ w else b % 2 ^ w
/-- max picks one operand unchanged (R143). -/
def max (sx : Bool) (w a b : Nat) : Nat := if val sx w a ≥ val sx w b then a % 2 ^ w else b % 2 ^ w

/-- sad accumulates an unsigned absolute difference (R144). -/
def sad (sat sx : Bool) (w a b c : Nat) : Nat :=
  let v := c % 2 ^ w + (val sx w a - val sx w b).natAbs
  if sat then Nat.min v (2 ^ w - 1) else v % 2 ^ w

/-- One element product of idot: `q`-bit element `k` of each operand (R145). -/
def idotTerm (sa sb : Bool) (q a b k : Nat) : Int :=
  val sa q (a / 2 ^ (q * k)) * val sb q (b / 2 ^ (q * k))
/-- idot: exact dot product of bytes or halves into a 32-bit accumulator (R145). -/
def idot (sat sx sa sb half : Bool) (a b c : Nat) : Nat :=
  let q := if half then 16 else 8
  fin sat sx 32
    ((List.range (32 / q)).foldl (fun s k => s + idotTerm sa sb q a b k) (val sx 32 c))

/-- Bitwise and (R146). -/
def and (a b : Nat) : Nat := a &&& b
/-- Bitwise or (R146). -/
def or (a b : Nat) : Nat := a ||| b
/-- Bitwise exclusive or (R146). -/
def xor (a b : Nat) : Nat := a ^^^ b
/-- Bitwise not of the low `w` bits (R146). -/
def not (w a : Nat) : Nat := 2 ^ w - 1 - a % 2 ^ w

/-- Bit `i` of `x`, as 0 or 1. -/
def bit (x i : Nat) : Nat := x / 2 ^ i % 2

/-- The number with bit `i` equal to `f i`, for `i` below `w`. -/
def fromBits : Nat → (Nat → Nat) → Nat
  | 0, _ => 0
  | w + 1, f => fromBits w f + (f w % 2) * 2 ^ w

/-- tlut: each bit position looks its three bits up in the truth table (R146). -/
def tlut (w a b c tab : Nat) : Nat :=
  fromBits w fun i => bit tab (bit a i + 2 * bit b i + 4 * bit c i)

/-- shl: 0 for amounts of the width or more (R147). -/
def shl (w a n : Nat) : Nat := if n ≥ w then 0 else a % 2 ^ w * 2 ^ n % 2 ^ w
/-- shr: the floor of the value over `2^n`; amounts beyond the width give 0 or copies of the sign (R147). -/
def shr (sx : Bool) (w a n : Nat) : Nat :=
  wrap w (Int.fdiv (val sx w a) (2 ^ (Nat.min n w) : Nat))
/-- rotl by `n mod W` (R147). -/
def rotl (w a n : Nat) : Nat :=
  let m := n % w
  (a % 2 ^ w * 2 ^ m) % 2 ^ w + a % 2 ^ w / 2 ^ (w - m)
/-- rotr by `n mod W` (R147). -/
def rotr (w a n : Nat) : Nat :=
  let m := n % w
  a % 2 ^ w / 2 ^ m + (a % 2 ^ w * 2 ^ (w - m)) % 2 ^ w

/-- The funnel amount: clamped at the width, or taken modulo it under `.wrap` (R148). -/
def funnelAmount (wrp : Bool) (w n : Nat) : Nat := if wrp then n % w else Nat.min n w
/-- fshl: the high half of the shifted pair (R148). -/
def fshl (wrp : Bool) (w hi lo n : Nat) : Nat :=
  (hi % 2 ^ w * 2 ^ w + lo % 2 ^ w) * 2 ^ funnelAmount wrp w n / 2 ^ w % 2 ^ w
/-- fshr: the low half of the shifted pair (R148). -/
def fshr (wrp : Bool) (w hi lo n : Nat) : Nat :=
  (hi % 2 ^ w * 2 ^ w + lo % 2 ^ w) / 2 ^ funnelAmount wrp w n % 2 ^ w

/-- clz: zero bits above the highest one bit; `w` for 0 (R149). -/
def clz (w a : Nat) : Nat := if a % 2 ^ w = 0 then w else w - 1 - Nat.log2 (a % 2 ^ w)
/-- The zero bits below the lowest one bit among the low `w` bits. -/
def ctzAux : Nat → Nat → Nat
  | 0, _ => 0
  | w + 1, a => if a % 2 = 1 then 0 else 1 + ctzAux w (a / 2)
/-- ctz: `w` for 0 (R149). -/
def ctz (w a : Nat) : Nat := ctzAux w a
/-- popc: the one bits (R149). -/
def popc (w a : Nat) : Nat := (List.range w).foldl (fun s i => s + bit a i) 0
/-- cls: the copies of the sign bit below it (R149). -/
def cls (w a : Nat) : Nat :=
  let y := if bit a (w - 1) = 1 then not w a else a % 2 ^ w
  clz w y - 1

/-- brev reverses the bit order (R150). -/
def brev (w a : Nat) : Nat := fromBits w fun i => bit a (w - 1 - i)
/-- Byte `k` of `x`. -/
def byte (x k : Nat) : Nat := x / 2 ^ (8 * k) % 256
/-- bswap reverses the byte order of `w/8` bytes (R150). -/
def bswap (w a : Nat) : Nat :=
  (List.range (w / 8)).foldl (fun s k => s + byte a k * 2 ^ (8 * (w / 8 - 1 - k))) 0

/-- Result byte `k` of bpick under control byte `f` (R151, Table 5.6). -/
def bpickByte (a b f : Nat) : Nat :=
  let src := f % 8
  let x := if src < 4 then byte a src else byte b (src - 4)
  let y := if bit f 3 = 1 then 0
    else if bit f 4 = 1 then (if bit x 7 = 1 then 255 else 0) else x
  if bit f 5 = 1 then 255 - y else y
/-- bpick (R151). -/
def bpick (a b s : Nat) : Nat :=
  (List.range 4).foldl (fun acc k => acc + bpickByte a b (byte s k) * 2 ^ (8 * k)) 0

/-- bfx: a field of `len` bits at `pos`, from the value extended without limit (R152). A position
beyond the width reads the same bits as the width, because only copies of the top bit follow. -/
def bfx (sx : Bool) (w a pos len : Nat) : Nat :=
  let l := Nat.min len w
  if l = 0 then 0
  else
    let f := wrap l (Int.fdiv (val sx w a) (2 ^ (Nat.min pos w) : Nat))
    if sx then wrap w (sext l f) else f
/-- bfi: the low `len` bits of `ins` placed at `pos`; bits at or above `w` are dropped (R153). -/
def bfi (w a ins pos len : Nat) : Nat :=
  let l := Nat.min len w
  fromBits w fun i => if pos ≤ i ∧ i < pos + l then bit ins (i - pos) else bit a i

/-- The conditions of cmp: 0 eq, 1 ne, 2 lt, 3 le, 4 gt, 5 ge; 6 and 7 are refused at verification
(R154). -/
def cmp (cc : Nat) (sx : Bool) (w a b : Nat) : Bool :=
  let x := val sx w a
  let y := val sx w b
  match cc with
  | 0 => decide (x = y)
  | 1 => decide (x ≠ y)
  | 2 => decide (x < y)
  | 3 => decide (x ≤ y)
  | 4 => decide (x > y)
  | 5 => decide (x ≥ y)
  | _ => false

/-- ext from `ws` to `w` bits (R156). -/
def ext (sx : Bool) (ws w a : Nat) : Nat := wrap w (val sx ws a)
/-- trunc from `ws` to `w` bits (R156). -/
def trunc (sat sx : Bool) (ws w a : Nat) : Nat :=
  if sat then wrap w (satv sx w (val sx ws a)) else a % 2 ^ w

/-- lea: base + extended index · 2^k + disp, modulo the pointer's width (R159). -/
def lea (sx : Bool) (p wi base idx k : Nat) (disp : Int) : Nat :=
  wrap p ((base : Int) + val sx wi idx * (2 ^ k : Nat) + disp)
/-- ptradd: an offset of `wi` bits extended by the signedness bit (R160). -/
def ptradd (sx : Bool) (p wi base off : Nat) : Nat := wrap p ((base : Int) + val sx wi off)
/-- ptrdiff (R160). -/
def ptrdiff (p a b : Nat) : Nat := wrap p ((a : Int) - b)

/-- ptrcvt.win: the issuing team's own window address (R161, Table 5.5). -/
def ptrcvtWin (teamId p : Nat) : Nat :=
  p % 2 ^ 24 + teamId % 16 * 2 ^ 24 + 2 ^ 29 + p / 2 ^ 30 % 4 * 2 ^ 30
/-- ptrcvt.mem: member `m`'s window address; `far` says that the member lies on the other die of a
straddling cluster (R161, Table 5.5). -/
def ptrcvtMem (far : Bool) (p m : Nat) : Nat :=
  p % 2 ^ 24 + m % 16 * 2 ^ 24 + (if far then 2 ^ 28 else 0) + 2 ^ 29
    + (if m < 16 then p / 2 ^ 30 % 4 else 1) * 2 ^ 30
/-- ptrcvt.own: bits [29:24] cleared (R161, Table 5.5). -/
def ptrcvtOwn (p : Nat) : Nat := p % 2 ^ 24 + p / 2 ^ 30 % 4 * 2 ^ 30

end Sys2Proof.Machine.IntOps
end

