-- ==== Sys2Proof/Syntax.lean ====
section
/-! DEFINITION. The syntax of the machine: one constructor of `Instr` for each row of the opcode table. A row is
either an instruction of the portable form (spec/02_delaro_form.md, opcodes 0x00 to 0xFF) or a step of the device
that no instruction encodes (a register write, an arrival, the end of something started earlier).

The 263 instruction rows share one record of operands, `Ins`, because the portable form gives every instruction the
same fields (R48) and the native form gives every slot the same fields (R395); which fields an instruction may use
is said by `WellFormed.lean`. -/
namespace Sys2Proof

/-- An operand. `val`, `int`, `raw` and `idx` are the operand kinds of the portable form (R53, Table 2.7); `reg`,
`pred` and `lit` are those of a native slot (R395 to R397). -/
inductive Opnd where
  /-- A value reference. -/
  | val (n : Nat)
  /-- An integer immediate. -/
  | int (i : Int)
  /-- A floating-point immediate: its own bytes, as a little-endian number. -/
  | raw (x : Nat)
  /-- A special-register index. -/
  | idx (n : Nat)
  /-- A native register V0 to V254; a 64-bit quantity names the even register of its pair. -/
  | reg (n : Nat)
  /-- A native predicate P0 to P11. -/
  | pred (n : Nat)
  /-- A native 52-bit literal. -/
  | lit (x : Nat)
  deriving DecidableEq, Repr

/-- The guard of an instruction (R49, R398). -/
inductive Guard where
  | always
  | whenTrue (o : Opnd)
  | whenFalse (o : Opnd)
  deriving DecidableEq, Repr

/-- The attribute bytes, with their fields taken apart (Tables 2.5, 2.6 and 2.9). -/
inductive Attr where
  /-- No attribute byte. -/
  | none
  /-- The arithmetic byte (Table 2.5). -/
  | arith (rm : BitVec 3) (sat sx : Bool) (op : BitVec 3)
  /-- The arithmetic byte and the source-type byte (R52). -/
  | cvt (rm : BitVec 3) (sat sx : Bool) (op : BitVec 3) (src : BitVec 6)
  /-- The two memory bytes (Table 2.6). -/
  | mem (cls : BitVec 4) (scope : BitVec 3) (acq rel ro ef : Bool) (sel : BitVec 2) (sx : Bool)
  /-- A control, matrix, copy, observation or sail byte, laid out per instruction. -/
  | ctl (b : Byte)
  deriving DecidableEq, Repr

/-- A branch target or callee with its argument list (R43, R53): a block or function number and value numbers. -/
structure Target where
  num : Nat
  args : List Nat
  deriving DecidableEq, Repr

/-- The fields of one instruction. -/
structure Ins where
  guard : Guard := .always
  /-- Form byte bits [5:0]: a type code of Table 2.1 or a variant code. -/
  form : BitVec 6 := 0
  attr : Attr := .none
  /-- Fallback references, one per result but a post-incremented pointer. -/
  falls : List Opnd := []
  /-- Source operands and immediates, in the order of the assembly form. -/
  src : List Opnd := []
  /-- Targets of a branch, or the callee of a call. -/
  succ : List Target := []
  /-- The type list of blk. -/
  tys : List Byte := []
  /-- Native destination fields (R395, Table 15.4); empty in the portable form, whose results take the next value
  numbers (R42). -/
  dst : List Nat := []
  /-- The native space bit of R488: true names ptr.g. The portable form leaves the space to the operand's type. -/
  space : Option Bool := none
  deriving DecidableEq, Repr

/-- A stream: its die, its core and its stream index, 0 to 31 for groups and 32 for the control stream (R16). -/
structure StreamRef where
  die : Nat
  core : Nat
  idx : Nat
  deriving DecidableEq, Repr

/-- A core. -/
structure CoreRef where
  die : Nat
  core : Nat
  deriving DecidableEq, Repr

/-- What reaches a completion counter: a register write or a launch's signal (R91, R92). -/
inductive CcInput where
  /-- A write of LW_CC_COUNT. -/
  | write (w : BitVec 32)
  /-- A signal, with its error bit. -/
  | signal (err : Bool)
  deriving DecidableEq, Repr

/-- How a PCIe AtomicOp ended (R255). -/
inductive HostAnswer where
  /-- Completed: the old value of host memory, 64-bit words low first. -/
  | done (old : List Nat)
  /-- Unsupported Request or Completer Abort. -/
  | refused
  deriving DecidableEq, Repr

/-- What a scrubber or an access finds in a granule (R481). -/
inductive ScrubFind where
  | clean
  | singleBit
  | uncorrectable
  /-- An uncorrectable error of a panel's tag or state array: die and panel. -/
  | panelState (die panel : Nat)
  /-- An uncorrectable error in the translation store of a die, or in a native cache: the translation lost. -/
  | translation (die : Nat) (hash entry ident budget : Nat)
  /-- An uncorrectable error in a link store: core and sequence number. -/
  | link (c : CoreRef) (seq : Nat)
  deriving DecidableEq, Repr

/-- A request from a peer module (R387). -/
inductive PeerOp where
  | read (size : Nat)
  /-- A store: its bytes, and whether they are poisoned (R34). -/
  | write (bytes : List Byte) (bad : Bool)
  /-- An atomic: opcode, form type code, operation select, signedness, operands; the rest of its requester beyond the
  device (its incarnation, stream and lane), its tag and its floor (R251). -/
  | atomic (opc ty sel : Nat) (sx : Bool) (args : List Nat) (inc : Nat) (ref : StreamRef) (lane : Nat)
      (tag floor : BitVec 16)
  /-- A free notice of a requester, with its floor (R252). -/
  | notice (inc : Nat) (ref : StreamRef) (floor : BitVec 16)
  deriving DecidableEq, Repr

/-- A device-link flit as the link layer sees it (Table 14.2): its header fields and whether its CRC holds. -/
structure Flit where
  seq : BitVec 12
  vc : BitVec 2
  cls : Bool
  ackSeq : BitVec 12
  nak : Bool
  dst : BitVec 12
  srcDev : BitVec 12
  inc : BitVec 8
  payload : List Byte
  link : List Byte
  deriving DecidableEq, Repr

/-- A PTP message's effect on the timing port: the measured offset, in ns, of the timebase from the grandmaster (R461). -/
structure PtpOffset where
  offset : Int
  lock : Bool
  deriving DecidableEq, Repr

/-- The steps of the machine: one constructor per row of the opcode table, in the table's order. The first 263 are
instructions of the portable form; the others are device steps, with what the outside world brings or with the
names of the things they act on. -/
inductive Instr where
  /-- ADD (R140). Integer add of two values, wrapped or saturated. -/
  | add (i : Ins)
  /-- ADDC (R141). Integer add with carry in, giving the sum and carry out or signed overflow. -/
  | addc (i : Ins)
  /-- SUB (R140). Integer subtract, wrapped or saturated. -/
  | sub (i : Ins)
  /-- SUBB (R141). Integer subtract with borrow in, giving the difference and borrow out or signed overflow. -/
  | subb (i : Ins)
  /-- MUL (R140). Integer multiply keeping the low bits or saturating. -/
  | mul (i : Ins)
  /-- MULHI (R140). High half of an exact integer product. -/
  | mulhi (i : Ins)
  /-- MULW (R140). Widening multiply of two half-width operands. -/
  | mulw (i : Ins)
  /-- MAD (R140). Integer multiply-add. -/
  | mad (i : Ins)
  /-- DIV (R142). Integer divide truncating toward zero, with fixed results for zero divisors and overflow. -/
  | div (i : Ins)
  /-- REM (R142). Integer remainder with the sign of the dividend. -/
  | rem (i : Ins)
  /-- NEG (R143). Integer negate. -/
  | neg (i : Ins)
  /-- ABS (R143). Signed integer absolute value. -/
  | abs (i : Ins)
  /-- MIN (R143). Integer minimum under the signedness. -/
  | min (i : Ins)
  /-- MAX (R143). Integer maximum under the signedness. -/
  | max (i : Ins)
  /-- MADHI (R140). High half of a product plus an addend. -/
  | madhi (i : Ins)
  /-- IDOT (R145). Short integer dot product of bytes or halves into a 32-bit accumulator. -/
  | idot (i : Ins)
  /-- SAD (R144). Accumulates an absolute difference. -/
  | sad (i : Ins)
  /-- AND (R146). Bitwise and. -/
  | and (i : Ins)
  /-- OR (R146). Bitwise or. -/
  | or (i : Ins)
  /-- XOR (R146). Bitwise exclusive or. -/
  | xor (i : Ins)
  /-- NOT (R146). Bitwise complement. -/
  | not (i : Ins)
  /-- TLUT (R146). Three-input bitwise truth-table function. -/
  | tlut (i : Ins)
  /-- SHL (R147). Shift left, zero for amounts at or beyond the width. -/
  | shl (i : Ins)
  /-- SHR (R147). Logical or arithmetic shift right. -/
  | shr (i : Ins)
  /-- ROTL (R147). Rotate left by the amount modulo the width. -/
  | rotl (i : Ins)
  /-- ROTR (R147). Rotate right by the amount modulo the width. -/
  | rotr (i : Ins)
  /-- FSHL (R148). Funnel shift left of a double-width concatenation. -/
  | fshl (i : Ins)
  /-- FSHR (R148). Funnel shift right of a double-width concatenation. -/
  | fshr (i : Ins)
  /-- CLZ (R149). Counts leading zero bits. -/
  | clz (i : Ins)
  /-- CTZ (R149). Counts trailing zero bits. -/
  | ctz (i : Ins)
  /-- POPC (R149). Counts one bits. -/
  | popc (i : Ins)
  /-- BREV (R150). Reverses bit order. -/
  | brev (i : Ins)
  /-- BFX (R152). Extracts a bit field, sign- or zero-extended. -/
  | bfx (i : Ins)
  /-- BFI (R153). Inserts a bit field. -/
  | bfi (i : Ins)
  /-- CMP (R154). Integer or pointer comparison giving a predicate. -/
  | cmp (i : Ins)
  /-- CMP_IMM (R136). Integer comparison against an immediate. -/
  | cmpImm (i : Ins)
  /-- SEL (R155). Selects one of two values by a predicate. -/
  | sel (i : Ins)
  /-- EXT (R156). Widens an integer with sign or zero extension. -/
  | ext (i : Ins)
  /-- TRUNC (R156). Narrows an integer, optionally saturating. -/
  | trunc (i : Ins)
  /-- CONST (R158). Defines a constant, or a constant-area address with .cr. -/
  | constant (i : Ins)
  /-- LEA (R159). Scales an index and adds it and a displacement to a pointer. -/
  | lea (i : Ins)
  /-- PTRADD (R160). Adds an integer offset to a pointer. -/
  | ptradd (i : Ins)
  /-- PTRDIFF (R160). Difference of two pointers. -/
  | ptrdiff (i : Ins)
  /-- PTRCVT (R161). Rewrites the window fields of a local pointer. -/
  | ptrcvt (i : Ins)
  /-- ADD_IMM (R136). Integer add of an immediate. -/
  | addImm (i : Ins)
  /-- MUL_IMM (R136). Integer multiply by an immediate. -/
  | mulImm (i : Ins)
  /-- AND_IMM (R136). Bitwise and with an immediate. -/
  | andImm (i : Ins)
  /-- OR_IMM (R136). Bitwise or with an immediate. -/
  | orImm (i : Ins)
  /-- XOR_IMM (R136). Bitwise exclusive or with an immediate. -/
  | xorImm (i : Ins)
  /-- SHL_IMM (R136). Shift left by an immediate. -/
  | shlImm (i : Ins)
  /-- SHR_IMM (R136). Shift right by an immediate. -/
  | shrImm (i : Ins)
  /-- MIN_IMM (R136). Integer minimum with an immediate. -/
  | minImm (i : Ins)
  /-- MAX_IMM (R136). Integer maximum with an immediate. -/
  | maxImm (i : Ins)
  /-- BITCAST (R157). Reinterprets the bits of a value as another type of equal width. -/
  | bitcast (i : Ins)
  /-- CLS (R149). Counts leading sign bits. -/
  | cls (i : Ins)
  /-- BSWAP (R150). Reverses byte order. -/
  | bswap (i : Ins)
  /-- BPICK (R151). Builds a word from selected, zeroed, sign or inverted bytes. -/
  | bpick (i : Ins)
  /-- DIV_IMM (R142). Integer divide by an immediate. -/
  | divImm (i : Ins)
  /-- REM_IMM (R142). Integer remainder by an immediate. -/
  | remImm (i : Ins)
  /-- ROTL_IMM (R136). Rotate left by an immediate. -/
  | rotlImm (i : Ins)
  /-- BFX_IMM (R136). Bit-field extract with an immediate length. -/
  | bfxImm (i : Ins)
  /-- BFI_IMM (R136). Bit-field insert with an immediate length. -/
  | bfiImm (i : Ins)
  /-- MOV (R157). Copies a value. -/
  | mov (i : Ins)
  /-- SEL_IMM (R155). Selects between a value and an immediate. -/
  | selImm (i : Ins)
  /-- FADD (R185). Floating-point add. -/
  | fadd (i : Ins)
  /-- FSUB (R185). Floating-point subtract. -/
  | fsub (i : Ins)
  /-- FMUL (R185). Floating-point multiply. -/
  | fmul (i : Ins)
  /-- FMA (R185). Fused multiply-add with one rounding. -/
  | fma (i : Ins)
  /-- FNMA (R185). Negated fused multiply-add. -/
  | fnma (i : Ins)
  /-- FDIV (R187). Correctly rounded floating-point divide. -/
  | fdiv (i : Ins)
  /-- SQRT (R187). Correctly rounded square root. -/
  | sqrt (i : Ins)
  /-- RCP (R187). Correctly rounded reciprocal. -/
  | rcp (i : Ins)
  /-- RSQRT (R187). Reciprocal square root within 1 ulp. -/
  | rsqrt (i : Ins)
  /-- FMIN (R188). Floating-point minimum, .num or .nan. -/
  | fmin (i : Ins)
  /-- FMAX (R188). Floating-point maximum, .num or .nan. -/
  | fmax (i : Ins)
  /-- FNEG (R189). Inverts the sign bit. -/
  | fneg (i : Ins)
  /-- FABS (R189). Clears the sign bit. -/
  | fabs (i : Ins)
  /-- COPYSIGN (R189). Gives the first operand the sign of the second. -/
  | copysign (i : Ins)
  /-- FCMP (R190). Floating-point comparison giving a predicate. -/
  | fcmp (i : Ins)
  /-- CLASS (R191). Tests the class of a value against a mask. -/
  | fclass (i : Ins)
  /-- CVT_F_F (R192). Converts between floating-point types. -/
  | cvtFF (i : Ins)
  /-- CVT_F_I (R193). Converts floating point to integer with clamping. -/
  | cvtFI (i : Ins)
  /-- CVT_I_F (R194). Converts integer to floating point. -/
  | cvtIF (i : Ins)
  /-- CVT_TO_NF (R195). Converts a float to a narrow element under a format word. -/
  | cvtToNf (i : Ins)
  /-- CVT_FROM_NF (R196). Converts a narrow element to a float. -/
  | cvtFromNf (i : Ins)
  /-- RND (R199). Rounds to an integral value of the same type. -/
  | rnd (i : Ins)
  /-- FRACT (R199). Fractional part below 1.0. -/
  | fract (i : Ins)
  /-- LDEXP (R200). Multiplies by a power of two. -/
  | ldexp (i : Ins)
  /-- FREXP (R200). Splits into mantissa and exponent. -/
  | frexp (i : Ins)
  /-- EXP2 (R202). Base-2 exponential. -/
  | exp2 (i : Ins)
  /-- LOG2 (R202). Base-2 logarithm. -/
  | log2 (i : Ins)
  /-- EXP (R202). Natural exponential. -/
  | exp (i : Ins)
  /-- LOG (R202). Natural logarithm. -/
  | log (i : Ins)
  /-- SIN (R202). Sine. -/
  | sin (i : Ins)
  /-- COS (R202). Cosine. -/
  | cos (i : Ins)
  /-- SINCOS (R202). Sine and cosine together. -/
  | sincos (i : Ins)
  /-- TANH (R202). Hyperbolic tangent. -/
  | tanh (i : Ins)
  /-- SIGM (R202). Logistic sigmoid. -/
  | sigm (i : Ins)
  /-- ERF (R202). Error function. -/
  | erf (i : Ins)
  /-- GELU (R202). GELU, exact or tanh form. -/
  | gelu (i : Ins)
  /-- ATAN2 (R202). Two-argument arctangent. -/
  | atan2 (i : Ins)
  /-- POW (R202). Power function. -/
  | pow (i : Ins)
  /-- CBRT (R202). Cube root. -/
  | cbrt (i : Ins)
  /-- SILU (R202). SiLU activation. -/
  | silu (i : Ins)
  /-- DOT2 (R186). Two-element f16 or bf16 dot product into f32 with one rounding. -/
  | dot2 (i : Ins)
  /-- PACK2 (R197). Rounds two f32 into a packed pair. -/
  | pack2 (i : Ins)
  /-- UNPACK2 (R197). Widens a packed pair into two f32. -/
  | unpack2 (i : Ins)
  /-- CLAMP (R188). Clamps to a range. -/
  | clamp (i : Ins)
  /-- LERP (R186). Linear interpolation with one rounding. -/
  | lerp (i : Ins)
  /-- AMAX (R188). Maximum of absolute values. -/
  | amax (i : Ins)
  /-- SCX (R201). Chooses an E8M0 block scale. -/
  | scx (i : Ins)
  /-- SCL (R201). Applies an E8M0 scale. -/
  | scl (i : Ins)
  /-- FADD_IMM (R184). Floating-point add of an immediate. -/
  | faddImm (i : Ins)
  /-- FMUL_IMM (R184). Floating-point multiply by an immediate. -/
  | fmulImm (i : Ins)
  /-- FMA_IMM (R184). Fused multiply-add with an immediate addend. -/
  | fmaImm (i : Ins)
  /-- FMIN_IMM (R184). Floating-point minimum with an immediate. -/
  | fminImm (i : Ins)
  /-- FMAX_IMM (R184). Floating-point maximum with an immediate. -/
  | fmaxImm (i : Ins)
  /-- FCMP_IMM (R184). Floating-point comparison against an immediate. -/
  | fcmpImm (i : Ins)
  /-- CLAMP_IMM (R184). Clamp with an immediate upper bound. -/
  | clampImm (i : Ins)
  /-- LDEXP_IMM (R184). Multiplies by an immediate power of two. -/
  | ldexpImm (i : Ins)
  /-- DOT4N (R198). Four-element narrow dot product into f32. -/
  | dot4n (i : Ins)
  /-- PACK4 (R195). Converts four f32 into packed narrow elements. -/
  | pack4 (i : Ins)
  /-- UNPACK4 (R196). Converts four narrow elements to f32. -/
  | unpack4 (i : Ins)
  /-- RSEED (R204). Sets the lane's stochastic generator state. -/
  | rseed (i : Ins)
  /-- MAX3 (R188). Maximum of three values. -/
  | max3 (i : Ins)
  /-- MIN3 (R188). Minimum of three values. -/
  | min3 (i : Ins)
  /-- CANON (R189). Canonicalises NaNs and flushed subnormals. -/
  | canon (i : Ins)
  /-- FMAW (R186). Widening fused multiply-add. -/
  | fmaw (i : Ins)
  /-- LD_L (R220). Loads from own or window local memory. -/
  | ldL (i : Ins)
  /-- LD_G (R220). Loads from global memory. -/
  | ldG (i : Ins)
  /-- LD_L_PI (R220). Local load with post-incremented pointer. -/
  | ldLPi (i : Ins)
  /-- LD_G_PI (R220). Global load with post-incremented pointer. -/
  | ldGPi (i : Ins)
  /-- ST_L (R220). Stores to local memory. -/
  | stL (i : Ins)
  /-- ST_G (R220). Stores to global memory. -/
  | stG (i : Ins)
  /-- ST_L_PI (R220). Local store with post-incremented pointer. -/
  | stLPi (i : Ins)
  /-- ST_G_PI (R220). Global store with post-incremented pointer. -/
  | stGPi (i : Ins)
  /-- LD_L_X2 (R220). Local load of two elements. -/
  | ldLX2 (i : Ins)
  /-- LD_G_X2 (R220). Global load of two elements. -/
  | ldGX2 (i : Ins)
  /-- LD_L_X4 (R220). Local load of four elements. -/
  | ldLX4 (i : Ins)
  /-- LD_G_X4 (R220). Global load of four elements. -/
  | ldGX4 (i : Ins)
  /-- ST_L_X2 (R220). Local store of two elements. -/
  | stLX2 (i : Ins)
  /-- ST_G_X2 (R220). Global store of two elements. -/
  | stGX2 (i : Ins)
  /-- ST_L_X4 (R220). Local store of four elements. -/
  | stLX4 (i : Ins)
  /-- ST_G_X4 (R220). Global store of four elements. -/
  | stGX4 (i : Ins)
  /-- PF (R224). Prefetches a line into the sail at the named scope. -/
  | pf (i : Ins)
  /-- FENCE (R234). Acquire, release or full fence over a class mask at a scope. -/
  | fence (i : Ins)
  /-- TAG_LK (R215). Looks up a key in the tag table. -/
  | tagLk (i : Ins)
  /-- TAG_SET (R215). Writes a key into a tag-table way. -/
  | tagSet (i : Ins)
  /-- TAG_CLR (R215). Invalidates one tag-table slot. -/
  | tagClr (i : Ins)
  /-- TAG_CLR_ALL (R215). Invalidates every tag-table slot. -/
  | tagClrAll (i : Ins)
  /-- LDC (R223). Loads from the constant area. -/
  | ldc (i : Ins)
  /-- L1_INV (R225). Invalidates every line of the core's L1. -/
  | l1Inv (i : Ins)
  /-- PF_L1 (R224). Prefetches a line into the sail and L1. -/
  | pfL1 (i : Ins)
  /-- ATOM_ADD (R240). Integer fetch-and-add. -/
  | atomAdd (i : Ins)
  /-- ATOM_ADD_FLOAT (R242). Floating-point fetch-and-add. -/
  | atomAddFloat (i : Ins)
  /-- ATOM_MIN (R241). Atomic minimum. -/
  | atomMin (i : Ins)
  /-- ATOM_MAX (R241). Atomic maximum. -/
  | atomMax (i : Ins)
  /-- ATOM_AND (R240). Atomic bitwise and. -/
  | atomAnd (i : Ins)
  /-- ATOM_OR (R240). Atomic bitwise or. -/
  | atomOr (i : Ins)
  /-- ATOM_XOR (R240). Atomic bitwise exclusive or. -/
  | atomXor (i : Ins)
  /-- ATOM_EXCH (R240). Atomic exchange. -/
  | atomExch (i : Ins)
  /-- ATOM_CAS (R240). Atomic compare-and-swap. -/
  | atomCas (i : Ins)
  /-- ATOM_CAS_X2 (R240). 128-bit atomic compare-and-swap. -/
  | atomCasX2 (i : Ins)
  /-- ATOM_INC (R240). Atomic wrapping increment against a limit. -/
  | atomInc (i : Ins)
  /-- ATOM_DEC (R240). Atomic wrapping decrement against a limit. -/
  | atomDec (i : Ins)
  /-- RED_ADD (R240). Integer add reduction without result. -/
  | redAdd (i : Ins)
  /-- RED_ADD_FLOAT (R242). Floating-point add reduction. -/
  | redAddFloat (i : Ins)
  /-- RED_AND (R240). And reduction. -/
  | redAnd (i : Ins)
  /-- RED_OR (R240). Or reduction. -/
  | redOr (i : Ins)
  /-- RED_XOR (R240). Exclusive-or reduction. -/
  | redXor (i : Ins)
  /-- RED_MIN (R241). Minimum reduction. -/
  | redMin (i : Ins)
  /-- RED_MAX (R241). Maximum reduction. -/
  | redMax (i : Ins)
  /-- BALLOT (R263). Gathers one predicate bit per participating lane into every lane. -/
  | ballot (i : Ins)
  /-- BALLOT_AT (R263). Ballot delivered to one target lane only. -/
  | ballotAt (i : Ins)
  /-- BALLOT_COL (R263). Ballot of bit n of each lane delivered to lane n. -/
  | ballotCol (i : Ins)
  /-- VOTE (R264). Group vote on a predicate. -/
  | vote (i : Ins)
  /-- SHFL (R265). Shuffles values between lanes. -/
  | shfl (i : Ins)
  /-- BFLY (R266). Masked butterfly exchange. -/
  | bfly (i : Ins)
  /-- MATCH (R267). Matches values across lanes. -/
  | matchLanes (i : Ins)
  /-- GRED (R268). Integer group reduction. -/
  | gred (i : Ins)
  /-- GSCAN (R268). Integer group scan. -/
  | gscan (i : Ins)
  /-- RS_PUSH (R271). Appends records to a record stream. -/
  | rsPush (i : Ins)
  /-- RS_POP (R272). Pops records from a record stream, full or partial. -/
  | rsPop (i : Ins)
  /-- REGROUP (R274). Arrives at the regroup rendezvous and sorts lanes among groups by key. -/
  | regroup (i : Ins)
  /-- GRED_FLOAT (R269). Floating-point group reduction in a fixed tree. -/
  | gredFloat (i : Ins)
  /-- GSCAN_FLOAT (R269). Floating-point group scan in lane order. -/
  | gscanFloat (i : Ins)
  /-- SHFL_IMM (R262). Shuffle with an immediate source. -/
  | shflImm (i : Ins)
  /-- BFLY_IMM (R262). Butterfly with an immediate distance. -/
  | bflyImm (i : Ins)
  /-- RS_CNT (R273). Reads a record stream's count. -/
  | rsCnt (i : Ins)
  /-- ELECT (R264). Elects the lowest participating lane. -/
  | elect (i : Ins)
  /-- BLK (R107). Opens a block and defines its arguments. -/
  | blk (i : Ins)
  /-- BR (R108). Unconditional branch passing block arguments. -/
  | br (i : Ins)
  /-- BRC (R108). Conditional branch, diverging per lane. -/
  | brc (i : Ins)
  /-- BRT (R108). Table branch on an index. -/
  | brt (i : Ins)
  /-- CALL (R109). Inlined call, a branch at run time. -/
  | call (i : Ins)
  /-- RET (R109). Returns values to the inlined call site. -/
  | ret (i : Ins)
  /-- END (R110). Ends the stream's entry function in the active lanes. -/
  | endStream (i : Ins)
  /-- RDV (R117). Rendezvous of every stream of the team. -/
  | rdv (i : Ins)
  /-- BAR (R115). Arrives at a team barrier and waits for the generation. -/
  | bar (i : Ins)
  /-- CBAR (R118). Arrives at a cluster barrier and waits for its completion. -/
  | cbar (i : Ins)
  /-- QPUSH (R120). Pushes into a stream queue. -/
  | qpush (i : Ins)
  /-- QPOP (R120). Pops from a stream queue. -/
  | qpop (i : Ins)
  /-- TOK_PUSH (R122). Adds a token to a FIFO. -/
  | tokPush (i : Ins)
  /-- TOK_POP (R122). Removes a token from a FIFO. -/
  | tokPop (i : Ins)
  /-- WAIT (R123). Waits until an in-flight counter is at or below a threshold. -/
  | wait (i : Ins)
  /-- SREG (R124). Reads a special register. -/
  | sreg (i : Ins)
  /-- MODE_SET (R127). Writes masked fields of the mode register. -/
  | modeSet (i : Ins)
  /-- MODE_GET (R127). Reads the mode register. -/
  | modeGet (i : Ins)
  /-- PHASE (R128). Moves the team to a phase of its memory plan. -/
  | phase (i : Ins)
  /-- LAUNCH (R129). Appends a launch record to a launch queue. -/
  | launch (i : Ins)
  /-- TRAP (R130). Raises TRAP_INSN with a code. -/
  | trap (i : Ins)
  /-- TRAP_VALUE (R130). Raises TRAP_INSN with a code and a value. -/
  | trapValue (i : Ins)
  /-- BRK (R130). Breakpoint when kernel debug is unlocked, else nothing. -/
  | brk (i : Ins)
  /-- YIELD (R132). Makes the stream the last issue candidate once. -/
  | yield (i : Ins)
  /-- SLEEP (R132). Makes the stream not ready for a number of cycles. -/
  | sleep (i : Ins)
  /-- QTRY (R121). Pops a stream queue without waiting. -/
  | qtry (i : Ins)
  /-- QOFFER (R121). Pushes into a stream queue without waiting. -/
  | qoffer (i : Ins)
  /-- TOK_CNT (R122). Reads a token count. -/
  | tokCnt (i : Ins)
  /-- CNT_RD (R123). Reads an in-flight counter. -/
  | cntRd (i : Ins)
  /-- NOP (R132). No effect. -/
  | nop (i : Ins)
  /-- FLAGS_CLR (R127). Clears sticky floating-point flags. -/
  | flagsClr (i : Ins)
  /-- BAR_ARV (R115). Arrives at a barrier without waiting. -/
  | barArv (i : Ins)
  /-- BAR_WT (R115). Waits for a barrier generation to complete. -/
  | barWt (i : Ins)
  /-- MX_NEST (R316). Writes a level of the shadow nest table. -/
  | mxNest (i : Ins)
  /-- MX_GO (R316). Queues a nest of matrix steps. -/
  | mxGo (i : Ins)
  /-- MX_LAY (R319). Reads a layout record and queues a layout slot write. -/
  | mxLay (i : Ins)
  /-- MX_ZERO (R318). Queues zeroing of a tile. -/
  | mxZero (i : Ins)
  /-- MX_LOAD (R317). Queues a tile load from local memory. -/
  | mxLoad (i : Ins)
  /-- MX_STORE (R317). Queues a tile store to local memory. -/
  | mxStore (i : Ins)
  /-- MX_SPEC (R321). Opens a speculative region renaming tiles onto donors. -/
  | mxSpec (i : Ins)
  /-- MX_COMMIT (R323). Commits the speculative region. -/
  | mxCommit (i : Ins)
  /-- MX_DROP (R324). Drops the speculative region. -/
  | mxDrop (i : Ins)
  /-- MX_FW (R320). Pushes a format word into FWQ. -/
  | mxFw (i : Ins)
  /-- MX_MMA (R315). Queues one matrix step. -/
  | mxMma (i : Ins)
  /-- MX_CONF (R320). Sets the FWB register. -/
  | mxConf (i : Ins)
  /-- MX_SCLAY (R320). Sets a layout slot's scale base. -/
  | mxSclay (i : Ins)
  /-- MX_TCOPY (R318). Queues a tile copy. -/
  | mxTcopy (i : Ins)
  /-- MX_TADD (R318). Queues a tile add. -/
  | mxTadd (i : Ins)
  /-- MX_STAT (R329). Reads matrix status or the conflict counter. -/
  | mxStat (i : Ins)
  /-- CP_DESC (R284). Reads and checks a tensor descriptor into a slot. -/
  | cpDesc (i : Ins)
  /-- CP_LD (R286). Queues a copy into own local memory. -/
  | cpLd (i : Ins)
  /-- CP_ST (R286). Queues a copy from local to global memory. -/
  | cpSt (i : Ins)
  /-- CP_GG (R286). Queues a global-to-global copy. -/
  | cpGg (i : Ins)
  /-- CP_RED (R288). Queues a reducing copy with optional quantisation and residual. -/
  | cpRed (i : Ins)
  /-- CP_FILL (R287). Queues a fill of a tensor. -/
  | cpFill (i : Ins)
  /-- CP_BCAST (R286). Queues a broadcast to every member's local memory. -/
  | cpBcast (i : Ins)
  /-- CP_GAT (R286). Queues an indexed gather. -/
  | cpGat (i : Ins)
  /-- CP_SCT (R286). Queues an indexed scatter. -/
  | cpSct (i : Ins)
  /-- CP_FENCE (R290). Orders LDQ and STQ against each other. -/
  | cpFence (i : Ins)
  /-- CP_RES (R289). Sets a residual slot's base and invalidates it. -/
  | cpRes (i : Ins)
  /-- CP_STAT (R297). Reads copy queue status. -/
  | cpStat (i : Ins)
  /-- CH_STEP (R453). Records a STEP link and starts a critical-chain walk. -/
  | chStep (i : Ins)
  /-- CH_MARK (R453). Records a MARK link. -/
  | chMark (i : Ins)
  /-- TR_START (R465). Opens the team's capture window. -/
  | trStart (i : Ins)
  /-- TR_STOP (R465). Closes the capture window with a STOP record. -/
  | trStop (i : Ins)
  /-- TR_EMIT (R465). Writes an emit record while the window is open. -/
  | trEmit (i : Ins)
  /-- CTR_RD (R469). Reads a counter-page word or conflict-matrix entry. -/
  | ctrRd (i : Ins)
  /-- SAIL_DEF (R359). Defines a home or replicated sail from a record. -/
  | sailDef (i : Ins)
  /-- SAIL_REEF (R359). Starts removing panels from a sail on a die. -/
  | sailReef (i : Ins)
  /-- SAIL_SHAKE (R359). Starts adding panels to a sail on a die. -/
  | sailShake (i : Ins)
  /-- SAIL_DROP (R359). Puts a sail into DRAINING on every die. -/
  | sailDrop (i : Ins)
  /-- SAIL_QUERY (R359). Reads a sail's state on a die. -/
  | sailQuery (i : Ins)
  /-- SAIL_WB (R359). Writes back, and optionally drops, a sail's dirty lines. -/
  | sailWb (i : Ins)
  /-- BUNDLE_ISSUE (R402). A ready stream issues a native bundle, executing its slots and mask-stack action. -/
  | bundleIssue (r : StreamRef)
  /-- STREAM_STOP (R409). A stream freezes at a bundle edge once nothing is pending, filling its flight record. -/
  | streamStop (r : StreamRef)
  /-- TRANSLATION (R421). A knitter takes a translation request and verifies, inlines, allocates and schedules the unit. -/
  | translation (die row : Nat)
  /-- TRANSLATION_COMPLETE (R421). A translation is written to the store and its waiting streams may start. -/
  | translationComplete (die row : Nat)
  /-- TE_CMD_EVICT_HASH (R441). Evicts translations of one module hash not in use. -/
  | teCmdEvictHash (w : BitVec 32)
  /-- TE_CMD_EVICT_ALL (R441). Evicts every translation not in use. -/
  | teCmdEvictAll (w : BitVec 32)
  /-- LW_QDB (R77). Doorbell write of a launch queue's tail, accepted or refused with OVERRUN. -/
  | lwQdb (q : Nat) (tail : BitVec 32)
  /-- LW_QCFG (R76). Launch queue configuration write; enabling resets head and tail. -/
  | lwQcfg (q : Nat) (w : BitVec 32)
  /-- LW_QSTAT (R77). Clears queue status bits, restarting a queue stopped on RING_FAULT. -/
  | lwQstat (q : Nat) (w : BitVec 32)
  /-- LAUNCH_RECORD_COPY (R77). Walker copies a launch record and admits or rejects it. -/
  | launchRecordCopy (q : Nat)
  /-- CLUSTER_PLACEMENT (R87). Walker places a whole cluster on free cores, cutting its sail if asked. -/
  | clusterPlacement (launch : Nat)
  /-- TEAM_RETIRE (R94). A team whose streams ended and work drained retires and frees its core. -/
  | teamRetire (c : CoreRef)
  /-- LW_CC_COUNT (R91). Write or signal of a completion counter, making waiting launches eligible. -/
  | lwCcCount (i : Nat) (a : CcInput)
  /-- LW_PREEMPT (R99). Host request to pre-empt clusters of a queue. -/
  | lwPreempt (w : BitVec 32)
  /-- PREEMPT_WAIT_TIMEOUT (R99). A launch waiting 1 ms triggers pre-emption of lower-priority clusters. -/
  | preemptWaitTimeout (launch : Nat)
  /-- PREEMPT_SAVE (R100). After in-flight accesses drain, a team is frozen, saved and its core freed. -/
  | preemptSave (c : CoreRef)
  /-- CLUSTER_RESUME (R102). A pre-empted cluster is restored onto cores and resumes. -/
  | clusterResume (cluster : Nat)
  /-- TEAM_STALL (R30). A wholly blocked team unchanged for 2^28 cycles raises the event. -/
  | teamStall (c : CoreRef)
  /-- HELD_COMPLETION_RELEASE (R25). Completions held by a full token FIFO push once it has room. -/
  | heldCompletionRelease (c : CoreRef) (queue : Nat)
  /-- SLEEP_EXPIRE (R132). A sleeping stream becomes ready again. -/
  | sleepExpire (r : StreamRef)
  /-- CBAR_FAR_MESSAGE (R118). Completion message of one half of a straddling cluster barrier arrives. -/
  | cbarFarMessage (cluster k : Nat) (toDie : Nat)
  /-- PHASE_DRAIN (R128). Once the team is quiet, L1 is written back and the pool boundary moves. -/
  | phaseDrain (c : CoreRef)
  /-- PHASE_DRAIN_END (R128). The drain ends and every stream resumes. -/
  | phaseDrainEnd (c : CoreRef)
  /-- LOAD_RETURN (R220). Load data is written, clearing pending and lowering the counter. -/
  | loadReturn (id : Nat)
  /-- STORE_ACK (R227). A store is acknowledged at its point, lowering ST. -/
  | storeAck (id : Nat)
  /-- COALESCE_TIMEOUT (R211). A coalescing line sends its bytes after 64 cycles. -/
  | coalesceTimeout (c : CoreRef) (line : Nat)
  /-- ATOMIC_REQUEST (R252). An atomic or reduction request arrives at its executing place and is applied or answered from the result store. -/
  | atomicRequest (id lane : Nat)
  /-- ATOMIC_RESULT (R247). An atomic's result returns to its lane. -/
  | atomicResult (id : Nat)
  /-- FREE_NOTICE (R252). Free notice frees result-store entries below the floor. -/
  | freeNotice (r : StreamRef)
  /-- ATOMICOP_COMPLETION (R255). PCIe AtomicOp completion arrives from the host. -/
  | atomicopCompletion (id lane : Nat) (a : HostAnswer)
  /-- PCIE_COMPLETION_TIMEOUT (R390). A host-link request meets the PCIe completion timeout and is poisoned. -/
  | pcieCompletionTimeout (id lane : Nat)
  /-- CHUNK_START (R292). A copy queue starts a chunk, translating and checking its pages. -/
  | chunkStart (c : CoreRef) (queue : Nat)
  /-- CHUNK_LAND (R294). A copy chunk lands; its command may complete. -/
  | chunkLand (c : CoreRef) (cmd chunk : Nat)
  /-- MXQ_HEAD_START (R310). The MXQ head command starts or executes after its checks, token and word. -/
  | mxqHeadStart (c : CoreRef)
  /-- MX_COMMAND_COMPLETE (R314). A matrix command completes, pushing CS if asked. -/
  | mxCommandComplete (c : CoreRef)
  /-- BATCH_CLOSE (R340). A fault batch closes 4 µs after its first fault or at 64 faults. -/
  | batchClose (die : Nat)
  /-- BATCH_WRITE (R340). A closed batch's range records are written once the ring has room. -/
  | batchWrite (die : Nat)
  /-- PG_RESOLVE (R342). Firmware resolves a batch; requesters replay or fault. -/
  | pgResolve (w : BitVec 32)
  /-- BATCH_TIMEOUT (R342). An unresolved batch is resolved with status 2 after 500 ms. -/
  | batchTimeout (die batch : Nat)
  /-- PG_CMD_SHOOTDOWN (R344). Page command dropping cached translations of a range. -/
  | pgCmdShootdown (rec : BitVec 64)
  /-- PG_CMD_MIGRATE (R346). Page command migrating a range to a new location. -/
  | pgCmdMigrate (rec : BitVec 64)
  /-- PG_CMD_UNMAP (R344). Page command unmapping a range. -/
  | pgCmdUnmap (rec : BitVec 64)
  /-- PG_CMD_PIN (R344). Page command setting PIN. -/
  | pgCmdPin (rec : BitVec 64)
  /-- PG_CMD_UNPIN (R344). Page command clearing PIN. -/
  | pgCmdUnpin (rec : BitVec 64)
  /-- SHOOTDOWN_COMPLETE (R345). Accesses under old entries have drained and STATUS becomes 0. -/
  | shootdownComplete
  /-- MIGRATION_COPY (R346). After accepted accesses drain, a page is copied and its new leaf written. -/
  | migrationCopy
  /-- SL_CMD_RESAIL (R363). Controller command moving pages to another sail. -/
  | slCmdResail (rec : BitVec 64)
  /-- SL_CMD_DEFINE (R368). Controller command defining a sail. -/
  | slCmdDefine (rec : BitVec 64)
  /-- SL_CMD_DROP (R368). Controller command dropping a sail. -/
  | slCmdDrop (rec : BitVec 64)
  /-- SL_CMD_REEF (R368). Controller command reefing a sail. -/
  | slCmdReef (rec : BitVec 64)
  /-- SL_CMD_SHAKE (R368). Controller command shaking out a sail. -/
  | slCmdShake (rec : BitVec 64)
  /-- SWEEP_PANEL (R361). Sweep of one old panel ends; the change may reach STEADY. -/
  | sweepPanel (sail die : Nat)
  /-- DRAIN_COMPLETE (R360). A draining sail has dropped every line and its panels are freed. -/
  | drainComplete (sail die : Nat)
  /-- BRIDGE_FLIT_RECEIVE (R370). A die-bridge flit arrives, checked by CRC and replayed if bad. -/
  | bridgeFlitReceive (src dst chan : Nat) (crcGood : Bool)
  /-- FETCH (R374). A replica's fetch reaches the home. -/
  | fetch (src dst : Nat)
  /-- FETCH_RESPONSE (R374). A fetched line arrives at a replica. -/
  | fetchResponse (src dst : Nat)
  /-- HOLD (R375). A replica installs new bytes hidden and acknowledges. -/
  | hold (src dst : Nat)
  /-- HOLD_ACK (R375). A HOLD acknowledgement reaches the home; the last one commits the store. -/
  | holdAck (src dst : Nat)
  /-- OPEN (R375). A replica serves the committed bytes and releases held loads. -/
  | openMsg (src dst : Nat)
  /-- INVALIDATE (R381). A replica drops a line. -/
  | invalidate (src dst : Nat)
  /-- EF_UPDATE (R376). An .ef update is applied at a replica. -/
  | efUpdate (src dst : Nat)
  /-- SYNC_REQUEST (R378). A die receives a replica sync request and sends its marker. -/
  | syncRequest (src dst : Nat)
  /-- SYNC_MARKER (R378). A sync marker arrives; the acquire may complete. -/
  | syncMarker (src dst : Nat)
  /-- HOLD_TIMEOUT (R381). A HOLD round times out; store commits, sharers invalidated, error acknowledged. -/
  | holdTimeout (round : Nat)
  /-- FABRIC_TIMEOUT (R382). A request without answer is resent; after eight resends the job ends. -/
  | fabricTimeout (id : Nat)
  /-- FB_DIERESET (R373). Firmware starts the reset of a compute die. -/
  | fbDiereset (w : BitVec 32)
  /-- DIE_RESET_END (R373). The die reset completes and BUSY clears. -/
  | dieResetEnd
  /-- FLIT_RECEIVE (R385). A device-link flit arrives and is accepted, dropped or NAKed. -/
  | flitReceive (port : Nat) (crcGood : Bool) (f : Flit)
  /-- REPLAY_TIMEOUT (R385). ACKSEQ stalled 2 µs; waiting flits are replayed. -/
  | replayTimeout (port : Nat)
  /-- PORT_TRAINING (R383). An enabled port trains with its neighbour and comes up. -/
  | portTraining (port : Nat) (nbr : BitVec 12) (inc : BitVec 8)
  /-- PORT_DOWN (R388). A retrain fails within 50 ms; the port goes down and jobs end. -/
  | portDown (port : Nat)
  /-- PEER_REQUEST (R387). A peer module's request arrives and is checked against the access list. -/
  | peerRequest (dev : BitVec 12) (addr : BitVec 64) (op : PeerOp)
  /-- ATS_INVALIDATION (R390). Host ATS invalidation, completing after old accesses drain. -/
  | atsInvalidation (addr size : Nat)
  /-- WALK_END (R453). A chain walk ends and its report is written to the chain buffer. -/
  | walkEnd (c : CoreRef)
  /-- SAMPLE (R466). Periodic program-counter sample of a stream. -/
  | sample (c : CoreRef)
  /-- MUX_BANK_SWITCH (R468). Multiplexed counting passes to the next bank after 2^20 cycles. -/
  | muxBankSwitch (part : Nat)
  /-- TR_MUX (R468). Selector write zeroing its count and cycle words. -/
  | trMux (part sel : Nat) (b : Byte)
  /-- TR_KDBG (R471). Unlocks kernel debug, or releases held teams. -/
  | trKdbg (w : BitVec 32)
  /-- TR_DSTOP (R471). Requests a debug stop of one stream. -/
  | trDstop (w : BitVec 32)
  /-- PTP_MESSAGE (R461). A PTP message disciplines the module timebase. -/
  | ptpMessage (m : PtpOffset)
  /-- POWER_GOOD (R475). Power-good starts the bring-up sequence. -/
  | powerGood
  /-- MODULE_RESET (R477). Module reset restarts the bring-up sequence. -/
  | moduleReset
  /-- HB_DVFS (R479). Requests a DVFS point for a die. -/
  | hbDvfs (die : Nat) (w : BitVec 32)
  /-- POWER_MEASUREMENT (R480). Periodic power measurement lowers or raises die points against the cap. -/
  | powerMeasurement (watts : Nat)
  /-- JUNCTION_TEMPERATURE (R480). A die's junction crosses a temperature threshold. -/
  | junctionTemperature (die : Nat) (celsius : Int)
  /-- SCRUB (R481). Scrubber reads and corrects a granule. -/
  | scrub (granule : Nat) (f : ScrubFind)
  /-- SEC_CMD (R484). Starts an attestation report. -/
  | secCmd (w : BitVec 32)
  /-- SEC_CHAL (R485). Read of the first challenge word latches a fresh challenge. -/
  | secChal
  /-- SEC_UNLOCK (R485). Write of the last signature word checks a firmware-debug unlock. -/
  | secUnlock (w : BitVec 32)
  /-- REGISTER_WRITE (R7). Write to a register with no behaviour of its own, by its access code. -/
  | registerWrite (off : Nat) (bytes : List Byte)
  /-- PLL_RELOCK (R479). The die's PLL relocks at the new DVFS point within 10 µs, CUR takes the new point and issue resumes on every core of the die. -/
  | pllRelock (die : Nat)
  /-- BRING_UP_STEP_END (R475). A step of the power-on sequence ends or fails, advancing STAGE or setting ERR, and at the last step READY is set. -/
  | bringUpStepEnd (err : Nat) (dieOk : BitVec 6)
  /-- ATTESTATION_REPORT_DONE (R484). The security processor finishes writing the attestation report to the host, clearing BUSY and setting DONE or ERR. -/
  | attestationReportDone (written : Bool)
  deriving DecidableEq, Repr

end Sys2Proof
end

