-- ==== Sys2Proof/Machine/Schema.lean ====
section
/-! DEFINITION. The opcode schema of the portable form: for each opcode its attribute bytes, the types or variants it
accepts, its operands and results, and which attribute values it accepts. The rules are those of
spec/02_delaro_form.md (R48 to R63) with the encoding tables of the engine chapters; the numbers of the verification
codes are those of Table 2.3. -/
namespace Sys2Proof

/-! ### Type codes (Table 2.1) -/

abbrev tI1 : Nat := 0x00
abbrev tI8 : Nat := 0x01
abbrev tI16 : Nat := 0x02
abbrev tI32 : Nat := 0x03
abbrev tI64 : Nat := 0x04
abbrev tF16 : Nat := 0x08
abbrev tBf16 : Nat := 0x09
abbrev tF32 : Nat := 0x0A
abbrev tF64 : Nat := 0x0B
abbrev tNf : Nat := 0x0C
abbrev tPtrG : Nat := 0x10
abbrev tPtrL : Nat := 0x11
abbrev tF16x2 : Nat := 0x14
abbrev tBf16x2 : Nat := 0x15

/-- The types of integers, i8 to i64. -/
def tysN : List Nat := [tI8, tI16, tI32, tI64]
/-- The scalar floating-point types. -/
def tysF : List Nat := [tF16, tBf16, tF32, tF64]
/-- The packed types. -/
def tysP : List Nat := [tF16x2, tBf16x2]
def tysFP : List Nat := [tF16, tBf16, tF32, tF64, tF16x2, tBf16x2]
def tysPtr : List Nat := [tPtrG, tPtrL]
/-- Every type of Table 2.1. -/
def tysAll : List Nat := [tI1, tI8, tI16, tI32, tI64, tF16, tBf16, tF32, tF64, tNf, tPtrG, tPtrL, tF16x2, tBf16x2]
/-- Every type of Table 2.1 but i1. -/
def tysMem : List Nat := [tI8, tI16, tI32, tI64, tF16, tBf16, tF32, tF64, tNf, tPtrG, tPtrL, tF16x2, tBf16x2]
/-- The types 32 or 64 bits wide (R218). -/
def tys3264 : List Nat := [tI32, tI64, tF32, tF64, tNf, tPtrG, tPtrL, tF16x2, tBf16x2]
/-- The types of the stream queues (R104). -/
def tysQueue : List Nat := [tI32, tF32, tPtrL, tF16x2, tBf16x2, tI64, tF64, tPtrG]

/-- Width in bits of a type (Table 2.1). -/
def tyBits (t : Nat) : Nat :=
  if t = tI1 then 1 else if t = tI8 then 8
  else if t = tI16 ∨ t = tF16 ∨ t = tBf16 then 16
  else if t = tI64 ∨ t = tF64 ∨ t = tPtrG then 64 else 32

/-- bytes(T) of R218. -/
def tyBytes (t : Nat) : Nat := (tyBits t + 7) / 8

def isFloatTy (t : Nat) : Bool := tysF.contains t
def isPackedTy (t : Nat) : Bool := tysP.contains t

/-! ### Operand requirements -/

/-- What an operand position takes: a value of one of some types, an integer immediate in a range, the raw bytes of a
floating-point immediate, or a special-register index. -/
inductive ArgReq where
  | v (tys : List Nat)
  | i (lo hi : Int)
  | f (bytes : Nat)
  | x
  deriving DecidableEq, Repr

/-- Operands and result types of one form of an opcode. -/
structure Sig where
  args : List ArgReq := []
  res : List Nat := []
  /-- The last result is a post-incremented pointer, which takes no fallback (R48). -/
  pi : Bool := false
  deriving DecidableEq, Repr

/-- The range of an integer immediate of a type (R54): both spellings of an iN value. -/
def immRange (t : Nat) : ArgReq :=
  if t = tI1 then .i (-1) 1
  else if t = tPtrG then .i 0 (2 ^ 56 - 1)
  else if t = tPtrL then .i 0 (2 ^ 32 - 1)
  else .i (-(2 ^ (tyBits t - 1))) (2 ^ tyBits t - 1)

/-- An immediate of a type (R54): raw bytes for the floating-point types, signed LEB128 otherwise. The spec does not
say which an nf immediate takes: log entry 21 (DEDUCED). -/
def immOf (t : Nat) : ArgReq := if tysFP.contains t then .f (tyBytes t) else immRange t

def vT (t : Nat) : ArgReq := .v [t]
def immI32 : ArgReq := immRange tI32
/-- A displacement or increment: a signed 32-bit immediate (R159, R218). -/
def immDisp : ArgReq := .i (-(2 ^ 31)) (2 ^ 31 - 1)

/-- The kind of attribute bytes of an opcode (Table 2.9). -/
inductive AttrKind where
  | none | arith | cvt | mem | ctl
  deriving DecidableEq, Repr

def attrKind (opc : Nat) : AttrKind :=
  if opc = 0x25 ∨ opc = 0x26 ∨ opc = 0x35 then .cvt
  else if 0x50 ≤ opc ∧ opc ≤ 0x54 then .cvt
  else if opc ≤ 0x7F then .arith
  else if 0x92 ≤ opc ∧ opc ≤ 0x94 then .arith
  else if opc ≤ 0xA7 then .mem
  else if opc ≤ 0xB7 then .arith
  else if opc = 0xBD ∨ opc = 0xBE ∨ opc = 0xBF ∨ opc = 0xCE ∨ opc = 0xD4 then .none
  else .ctl

/-- Bits [2:0] of the arithmetic byte. -/
def Attr.low : Attr → Nat
  | .arith _ _ _ op => op.toNat
  | .cvt _ _ _ op _ => op.toNat
  | .none | .mem .. | .ctl _ => 0

/-- The signedness bit. -/
def Attr.sxBit : Attr → Bool
  | .arith _ _ sx _ => sx
  | .cvt _ _ sx _ _ => sx
  | .mem _ _ _ _ _ _ _ sx => sx
  | .none | .ctl _ => false

/-- The saturate bit. -/
def Attr.satBit : Attr → Bool
  | .arith _ sat _ _ => sat
  | .cvt _ sat _ _ _ => sat
  | .none | .mem .. | .ctl _ => false

/-- The rounding field. -/
def Attr.rmField : Attr → Nat
  | .arith rm _ _ _ => rm.toNat
  | .cvt rm _ _ _ _ => rm.toNat
  | .none | .mem .. | .ctl _ => 0

/-- The source-type byte (R52). -/
def Attr.srcTy : Attr → Nat
  | .cvt _ _ _ _ s => s.toNat
  | .none | .arith .. | .mem .. | .ctl _ => 0

/-- The operation select of the second memory byte. -/
def Attr.selField : Attr → Nat
  | .mem _ _ _ _ _ _ sel _ => sel.toNat
  | .none | .arith .. | .cvt .. | .ctl _ => 0

/-- The control, matrix, copy, observation or sail byte. -/
def Attr.ctlByte : Attr → Byte
  | .ctl b => b
  | .none | .arith .. | .cvt .. | .mem .. => 0

/-- A form that takes one of some primary types. -/
def typed (tys : List Nat) (t : Nat) (s : Sig) : Option Sig := if tys.contains t then some s else none
/-- A form whose only variant is 0. -/
def plain0 (t : Nat) (s : Sig) : Option Sig := if t = 0 then some s else none

/-- The integer opcodes (Table 5.1). -/
def sigInt (opc t : Nat) (a : Attr) : Option Sig :=
  let T := vT t
  let one := fun args => ({ args := args, res := [t] } : Sig)
  match opc with
  | 0x00 | 0x02 | 0x04 | 0x05 | 0x08 | 0x09 | 0x0C | 0x0D => typed tysN t (one [T, T])
  | 0x01 | 0x03 => typed tysN t { args := [T, T, vT tI1], res := [t, tI1] }
  | 0x06 => typed [tI16, tI32, tI64] t (one [vT (t - 1), vT (t - 1)])
  | 0x07 | 0x0E | 0x10 => typed tysN t (one [T, T, T])
  | 0x0A | 0x0B | 0x1C | 0x1D | 0x1E | 0x1F | 0x36 => typed tysN t (one [T])
  | 0x0F | 0x38 => typed [tI32] t (one [T, T, T])
  | 0x11 | 0x12 | 0x13 => typed (tI1 :: tysN) t (one [T, T])
  | 0x14 => typed (tI1 :: tysN) t (one [T])
  | 0x15 => typed (tI1 :: tysN) t (one [T, T, T, .i 0 255])
  | 0x16 | 0x17 | 0x18 | 0x19 => typed tysN t (one [T, vT tI32])
  | 0x1A | 0x1B => typed tysN t (one [T, T, vT tI32])
  | 0x20 => typed tysN t (one [T, vT tI32, vT tI32])
  | 0x21 => typed tysN t (one [T, T, vT tI32, vT tI32])
  | 0x22 => typed (tI1 :: tysN ++ tysPtr) t { args := [T, T], res := [tI1] }
  | 0x23 => typed tysN t { args := [T, immRange t], res := [tI1] }
  | 0x24 => typed tysAll t (one [vT tI1, T, T])
  | 0x25 => typed tysN t (one [vT a.srcTy])
  | 0x26 => typed [tI1, tI8, tI16, tI32] t (one [vT a.srcTy])
  | 0x27 => typed tysAll t (one [if a.low = 1 then .i 0 (2 ^ 32 - 1) else immOf t])
  | 0x28 => typed tysPtr t (one [T, .v (if t = tPtrG then [tI32, tI64] else [tI32]), immDisp])
  | 0x29 => typed tysPtr t (one [T, .v tysN])
  | 0x2A => typed [tI32, tI64] t (one (let p := vT (if t = tI64 then tPtrG else tPtrL); [p, p]))
  | 0x2B => typed [tPtrL] t (one (if a.low = 1 then [T, vT tI32] else [T]))
  | 0x2C | 0x2D | 0x33 | 0x34 | 0x39 | 0x3A => typed tysN t (one [T, immRange t])
  | 0x2E | 0x2F | 0x30 => typed (tI1 :: tysN) t (one [T, immRange t])
  | 0x31 | 0x32 | 0x3B => typed tysN t (one [T, immI32])
  | 0x35 => typed tysMem t (one [vT a.srcTy])
  | 0x37 => typed [tI16, tI32, tI64] t (one [T])
  | 0x3C => typed tysN t (one [T, vT tI32, immI32])
  | 0x3D => typed tysN t (one [T, T, vT tI32, immI32])
  | 0x3E => typed tysAll t (one [T])
  | 0x3F => typed tysAll t (one [vT tI1, T, immOf t])
  | _ => none

/-- The float opcodes (Table 6.8). -/
def sigFloat (opc t : Nat) (a : Attr) : Option Sig :=
  let T := vT t
  let one := fun args => ({ args := args, res := [t] } : Sig)
  let half := vT (if a.low = 0 then tF16x2 else tBf16x2)
  match opc with
  | 0x40 | 0x41 | 0x42 | 0x49 | 0x4A | 0x4D | 0x6D => typed tysFP t (one [T, T])
  | 0x43 | 0x44 | 0x6B | 0x7C | 0x7D => typed tysFP t (one [T, T, T])
  | 0x45 | 0x64 | 0x65 => typed tysF t (one [T, T])
  | 0x46 | 0x47 | 0x48 | 0x55 | 0x56 | 0x5A | 0x5B | 0x5C | 0x5D | 0x5E | 0x62 | 0x66 => typed tysF t (one [T])
  | 0x4B | 0x4C | 0x59 | 0x60 | 0x61 | 0x63 | 0x67 | 0x7E => typed tysFP t (one [T])
  | 0x4E => typed tysF t { args := [T, T], res := [tI1] }
  | 0x4F => typed tysF t { args := [T, .i 0 1023], res := [tI1] }
  | 0x50 | 0x52 => typed tysF t (one [vT a.srcTy])
  | 0x51 => typed tysN t (one [vT a.srcTy])
  | 0x53 => typed [tNf] t (one [vT a.srcTy, vT tI32])
  | 0x54 => typed tysF t (one [vT a.srcTy, vT tI32])
  | 0x57 | 0x6F => typed tysF t (one [T, vT tI32])
  | 0x58 => typed tysF t { args := [T], res := [t, tI32] }
  | 0x5F => typed tysF t { args := [T], res := [t, t] }
  | 0x68 => typed [tF32] t (one [half, half, T])
  | 0x69 => typed tysP t (one [vT tF32, vT tF32])
  | 0x6A => typed [tF32] t { args := [half], res := [t, t] }
  | 0x6C => typed tysF t (one [T, T, T])
  | 0x6E => typed tysF t { args := [T, vT tI32], res := [tI32] }
  | 0x70 | 0x71 | 0x73 | 0x74 => typed tysFP t (one [T, immOf t])
  | 0x72 | 0x76 => typed tysFP t (one [T, T, immOf t])
  | 0x75 => typed tysF t { args := [T, immOf t], res := [tI1] }
  | 0x77 => typed tysF t (one [T, immI32])
  | 0x78 => typed [tF32] t (one [vT tNf, vT tNf, T, vT tI32])
  | 0x79 => typed [tNf] t (one [vT tF32, vT tF32, vT tF32, vT tF32, vT tI32])
  | 0x7A => typed [tF32] t { args := [vT tNf, vT tI32], res := [t, t, t, t] }
  | 0x7B => plain0 t { args := [vT tI32] }
  | 0x7F => typed (if a.low = 2 then [tF64] else [tF32]) t
      (one (let m := vT (if a.low = 0 then tF16 else if a.low = 1 then tBf16 else tF32); [m, m, T]))
  | _ => none

/-- The load-store, tag and atomic opcodes (Tables 7.2, 7.3 and 8.1). -/
def sigMem (opc t : Nat) : Option Sig :=
  let T := vT t
  let pl := vT tPtrL
  let pg := vT tPtrG
  let p := ArgReq.v tysPtr
  let tysI := [tI32, tI64]
  let tysAF := [tF32, tF64, tF16x2, tBf16x2]
  let tysMM := [tI32, tI64, tF32, tF64]
  let tysX := [tI32, tI64, tF32, tF64, tPtrL, tPtrG]
  match opc with
  | 0x80 => typed tysMem t { args := [pl], res := [t] }
  | 0x81 => typed tysMem t { args := [pg], res := [t] }
  | 0x82 => typed tysMem t { args := [pl, immDisp], res := [t, tPtrL], pi := true }
  | 0x83 => typed tysMem t { args := [pg, immDisp], res := [t, tPtrG], pi := true }
  | 0x84 => typed tysMem t { args := [pl, T] }
  | 0x85 => typed tysMem t { args := [pg, T] }
  | 0x86 => typed tysMem t { args := [pl, T, immDisp], res := [tPtrL], pi := true }
  | 0x87 => typed tysMem t { args := [pg, T, immDisp], res := [tPtrG], pi := true }
  | 0x88 => typed tys3264 t { args := [pl], res := [t, t] }
  | 0x89 => typed tys3264 t { args := [pg], res := [t, t] }
  | 0x8A => typed tys3264 t { args := [pl], res := [t, t, t, t] }
  | 0x8B => typed tys3264 t { args := [pg], res := [t, t, t, t] }
  | 0x8C => typed tys3264 t { args := [pl, T, T] }
  | 0x8D => typed tys3264 t { args := [pg, T, T] }
  | 0x8E => typed tys3264 t { args := [pl, T, T, T, T] }
  | 0x8F => typed tys3264 t { args := [pg, T, T, T, T] }
  | 0x90 | 0x97 => plain0 t { args := [pg] }
  | 0x91 => plain0 t { args := [.i 1 65535] }
  | 0x92 => typed [tI32, tI64] t { args := [T], res := [tI32] }
  | 0x93 => typed [tI32, tI64] t { args := [vT tI32, T], res := [tI64, tI1] }
  | 0x94 => if t = 0 then some { args := [vT tI32] } else if t = 1 then some {} else none
  | 0x95 => typed tysMem t { args := [.i 0 (2 ^ 32 - 1)], res := [t] }
  | 0x96 => plain0 t {}
  | 0x98 | 0x9C | 0x9D | 0x9E | 0xA2 | 0xA3 => typed tysI t { args := [p, T], res := [t] }
  | 0x99 => typed tysAF t { args := [p, T], res := [t] }
  | 0x9A | 0x9B => typed tysMM t { args := [p, T], res := [t] }
  | 0x9F => typed tysX t { args := [p, T], res := [t] }
  | 0xA0 => typed tysX t { args := [p, T, T], res := [t] }
  | 0xA1 => typed [tI64] t { args := [p, T, T, T, T], res := [t, t] }
  | 0xA4 | 0xA6 => typed tysI t { args := [p, T] }
  | 0xA5 => typed tysAF t { args := [p, T] }
  | 0xA7 => typed tysMM t { args := [p, T] }
  | _ => none

/-- The exchange opcodes (Table 9.1). -/
def sigExchange (opc t : Nat) (a : Attr) : Option Sig :=
  let T := vT t
  let i32 := vT tI32
  match opc with
  | 0xA8 => if t = 0 then some { args := if a.low = 1 then [vT tI1, i32, i32] else [vT tI1], res := [tI32] }
      else if t = 1 then some { args := [i32, i32, i32], res := [tI32] } else none
  | 0xA9 => plain0 t { args := [vT tI1], res := [tI1] }
  | 0xAA => typed tysAll t { args := [T, i32], res := [t] }
  | 0xAB => typed tysAll t { args := [T, i32, i32], res := [t] }
  | 0xAC => typed [tI32, tI64, tF32, tF64, tPtrL, tPtrG, tF16x2, tBf16x2] t { args := [T], res := [tI32] }
  | 0xAD | 0xAE => typed tysN t { args := [T], res := [t] }
  | 0xAF => typed tys3264 t { args := [vT tI1, T] }
  | 0xB0 => typed tys3264 t { res := [t, tI1] }
  | 0xB1 => typed [tI32] t { args := [i32, i32], res := [tI32] }
  | 0xB2 | 0xB3 => typed tysF t { args := [T], res := [t] }
  | 0xB4 => typed tysAll t { args := [T, immI32], res := [t] }
  | 0xB5 => typed tysAll t { args := [T, i32, immI32], res := [t] }
  | 0xB6 => plain0 t { res := [tI32] }
  | 0xB7 => plain0 t { res := [tI1] }
  | _ => none

/-- The control opcodes (Table 4.1). The operands of blk, the branches, call and ret stand in their own fields. -/
def sigControl (opc t : Nat) : Option Sig :=
  let T := vT t
  let i32 := vT tI32
  match opc with
  | 0xB8 | 0xB9 | 0xBD | 0xBE | 0xBF | 0xC4 | 0xC5 | 0xCD | 0xCE | 0xD4 | 0xD5 => plain0 t {}
  | 0xBA => plain0 t { args := [vT tI1] }
  | 0xBB => plain0 t { args := [i32] }
  | 0xBC => if t ≤ 1 then some {} else none
  | 0xC0 | 0xC1 | 0xC6 | 0xCA | 0xCF | 0xD7 => plain0 t { args := [i32] }
  | 0xC2 => typed tysQueue t { args := [T] }
  | 0xC3 => typed tysQueue t { res := [t] }
  | 0xC7 => typed [tI32, tI64] t { args := [.x], res := [t] }
  | 0xC8 => plain0 t { args := [i32, i32] }
  | 0xC9 | 0xD2 | 0xD3 => plain0 t { res := [tI32] }
  | 0xCB => plain0 t { args := [i32, vT tPtrG], res := [tI32] }
  | 0xCC => if t = 0 then some {} else if t = 1 then some { args := [i32] } else none
  | 0xD0 => typed tysQueue t { res := [t, tI1] }
  | 0xD1 => typed tysQueue t { args := [T], res := [tI1] }
  | 0xD6 => plain0 t { args := [i32], res := [tI32] }
  | _ => none

/-- The matrix, copy, observation and sail opcodes (Tables 11.3, 10.4, 17.5, 18.3 and 13.2). -/
def sigEngine (opc t : Nat) : Option Sig :=
  let i32 := vT tI32
  let pl := vT tPtrL
  let pg := vT tPtrG
  let p := ArgReq.v tysPtr
  plain0 t <| match opc with
  | 0xD8 => { args := [i32, i32, i32, i32, i32] }
  | 0xDA => { args := [i32, p], res := [tI32] }
  | 0xD9 | 0xDB | 0xE1 | 0xE2 | 0xE3 => { args := [i32] }
  | 0xDC | 0xDD | 0xDE | 0xE5 | 0xE6 => { args := [i32, i32] }
  | 0xE4 => { args := [i32, pl] }
  | 0xE7 => { res := [tI32] }
  | 0xE8 => { args := [i32, p], res := [tI32] }
  | 0xE9 => { args := [pl, p, i32] }
  | 0xEA => { args := [pg, pl, i32] }
  | 0xEB => { args := [pg, pg, i32] }
  | 0xEC => { args := [p, pl, i32, i32] }
  | 0xED => { args := [p, vT tI64, i32] }
  | 0xEE => { args := [pl, p, i32] }
  | 0xEF => { args := [pl, pg, pl, i32] }
  | 0xF0 => { args := [pg, pl, pl, i32] }
  | 0xF2 => { args := [i32, pl] }
  | 0xF3 => { res := [tI64] }
  | 0xF4 => { args := [i32], res := [tI32] }
  | 0xF5 | 0xF6 | 0xF7 | 0xFF => { args := [i32] }
  | 0xF8 => { args := [i32, vT tI64] }
  | 0xF9 => { args := [i32], res := [tI64] }
  | 0xFA => { args := [p], res := [tI32] }
  | 0xFB => { args := [i32, i32, i32], res := [tI32] }
  | 0xFC => { args := [i32, i32, i32, i32], res := [tI32] }
  | 0xFD => { args := [i32], res := [tI32] }
  | 0xFE => { args := [i32, i32], res := [tI32] }
  | _ => {}

/-- The signature of an opcode for a form code and attribute bytes; none where the opcode does not accept the type or
variant (code 0x04). -/
def sig (opc t : Nat) (a : Attr) : Option Sig :=
  if opc < 0x40 then sigInt opc t a
  else if opc < 0x80 then sigFloat opc t a
  else if opc < 0xA8 then sigMem opc t
  else if opc < 0xB8 then sigExchange opc t a
  else if opc < 0xD8 then sigControl opc t
  else if opc < 0x100 then sigEngine opc t
  else none

/-! ### Attribute rules -/

/-- The arithmetic byte of the integer opcodes (R135, R154, R156, R158, R161). abs is "sx only": R143 gives it no result
without the bit, and what has no result is refused (R137; log entry 58). -/
def arithOkInt (opc t : Nat) (a : Attr) : Bool :=
  let low := a.low
  let s := a.srcTy
  a.rmField == 0
  && (opc != 0x0B || a.sxBit)
  && (!a.satBit || [0x00, 0x02, 0x04, 0x07, 0x08, 0x0A, 0x0B, 0x0E, 0x0F, 0x10, 0x26, 0x2C, 0x2D, 0x39].contains opc)
  && (!a.sxBit || opc ≤ 0x10 || [0x17, 0x20, 0x23, 0x25, 0x26, 0x28, 0x29, 0x2C, 0x2D, 0x32, 0x33, 0x34, 0x39, 0x3A,
        0x3C].contains opc || (opc == 0x22 && tysN.contains t))
  && (match opc with
      | 0x0F | 0x28 => true
      | 0x1A | 0x1B => low ≤ 1
      | 0x27 => low == 0 || (low == 1 && t == tPtrG)
      | 0x22 => if t = tI1 then low ≤ 1 else low ≤ 5
      | 0x23 => low ≤ 5
      | 0x2B => low ≤ 2
      | _ => low == 0)
  && (match opc with
      | 0x25 => [tI1, tI8, tI16, tI32].contains s && tyBits s < tyBits t
      | 0x26 => tysN.contains s && tyBits t < tyBits s && !(a.satBit && t == tI1)
      | 0x35 => tysMem.contains s && tyBits s == tyBits t
      | _ => true)

/-- The arithmetic byte of the float opcodes (R181, Table 6.8). -/
def arithOkFloat (opc t : Nat) (a : Attr) : Bool :=
  let low := a.low
  let s := a.srcTy
  a.rmField ≤ 6
  && (a.rmField == 0 || opc ≤ 0x47 || (0x50 ≤ opc && opc ≤ 0x55) || [0x57, 0x68, 0x69, 0x6C, 0x6F, 0x70, 0x71, 0x72,
        0x77, 0x78, 0x79, 0x7A, 0x7F].contains opc)
  && (!a.satBit || opc ≤ 0x45 || [0x53, 0x68, 0x6C, 0x70, 0x71, 0x72, 0x78, 0x79, 0x7F].contains opc)
  && (!a.sxBit || opc == 0x51 || opc == 0x52)
  && (match opc with
      | 0x4E | 0x54 | 0x75 => true
      | 0x49 | 0x4A | 0x63 | 0x68 | 0x6A | 0x6B | 0x6D | 0x73 | 0x74 | 0x76 | 0x7C | 0x7D => low ≤ 1
      | 0x7F => low ≤ 2
      | _ => low == 0)
  && (match opc with
      | 0x50 => tysF.contains s && s != t
      | 0x51 | 0x53 => tysF.contains s
      | 0x52 => tysN.contains s
      | 0x54 => s == tNf
      | _ => true)

/-- The arithmetic byte of the tag and exchange opcodes (R214, R261). -/
def arithOkExchange (opc t : Nat) (a : Attr) : Bool :=
  let low := a.low
  let op2 := low % 4
  (match opc with
   | 0xB2 => (a.rmField == 0 || (low == 0 && a.rmField ≤ 5))
   | 0xB3 => (a.rmField == 0 || (op2 == 0 && a.rmField ≤ 5))
   | _ => a.rmField == 0)
  && (!a.satBit || (opc == 0xAD && low == 0) || (opc == 0xAE && op2 == 0))
  && (!a.sxBit || (opc == 0xAD && low ≤ 2) || (opc == 0xAE && op2 ≤ 2))
  && (match opc with
      | 0x92 | 0xB1 => low ≤ 1
      | 0xA8 => if t = 0 then low ≤ 1 else low == 0
      | 0xA9 | 0xAD => low ≤ 5
      | 0xAA | 0xAF | 0xB4 | 0xB6 => low ≤ 3
      | 0xAC | 0xB2 => low ≤ 2
      | 0xAE | 0xB0 => true
      | 0xB3 => op2 ≤ 2
      | _ => low == 0)

/-- The fields of the memory bytes that an opcode may use: ordering class, scopes, acquire, release, read-only and
early forwarding (Tables 7.4 and 8.2). -/
def memAllows (opc : Nat) (cls scope : Nat) (acq rel ro ef : Bool) : Bool :=
  let isLoad := [0x80, 0x81, 0x82, 0x83, 0x88, 0x89, 0x8A, 0x8B].contains opc
  let isStore := [0x84, 0x85, 0x86, 0x87, 0x8C, 0x8D, 0x8E, 0x8F].contains opc
  let glob := opc % 2 == 1
  if isLoad then !rel && (!ro || glob) && !ef
  else if isStore then !acq && !ro && (!ef || glob)
  else if opc = 0x90 ∨ opc = 0x97 then cls == 0 && 1 ≤ scope && scope ≤ 3 && !acq && !rel && !ef
  else if opc = 0x91 then cls == 0 && (acq || rel) && !ro && !ef
  else if opc = 0x95 then scope == 3 && !acq && !rel && !ef
  else if opc = 0x96 then cls == 0 && scope == 0 && !acq && !rel && !ro && !ef
  else if opc ≤ 0xA3 then !ro && !ef
  else !acq && !ro && !ef

/-- The bits a control, matrix, copy, observation or sail byte may use (Tables 4.1, 11.3, 10.3, 18.3, 13.2). -/
def ctlMask (opc : Nat) : Nat :=
  match opc with
  | 0xBA | 0xF3 | 0xFB | 0xFC | 0xFD | 0xFF => 0x01
  | 0xC0 | 0xD5 | 0xD6 | 0xD7 | 0xD8 => 0x1F
  | 0xC1 => 0x13
  | 0xC2 | 0xC3 | 0xC6 | 0xD0 | 0xD1 | 0xD3 | 0xDE | 0xDF | 0xE0 => 0x07
  | 0xC4 | 0xC5 | 0xD2 | 0xDB | 0xDC | 0xE2 | 0xE5 | 0xE6 | 0xE7 => 0x03
  | 0xCC | 0xCD => 0xFF
  | 0xD9 | 0xDD => 0x3F
  | 0xE9 | 0xEF => 0xBF
  | 0xEA | 0xEB | 0xED | 0xF0 => 0xDF
  | 0xEC | 0xEE => 0x9F
  | _ => 0

/-- A control-style byte accepted by its opcode. -/
def ctlOk (opc : Nat) (b : Byte) : Bool :=
  let n := b.toNat
  n &&& ctlMask opc == n
  && (match opc with
      | 0xC4 | 0xC5 | 0xD2 => n % 4 != 3
      | 0xC6 | 0xD3 | 0xD8 => n % 8 ≤ 5
      | 0xD9 | 0xDD => n / 4 % 8 != 7
      | 0xE9 | 0xEA | 0xEB | 0xEC | 0xED | 0xEE | 0xEF | 0xF0 => n / 4 % 8 ≤ 4
      | _ => true)

/-- The verification codes that the attribute bytes of an instruction give (0x05 and 0x1A). -/
def attrCodes (opc t : Nat) (a : Attr) : List Nat :=
  match attrKind opc, a with
  | .none, .none => []
  | .arith, .arith .. | .cvt, .cvt .. =>
      let ok := if opc < 0x40 then arithOkInt opc t a else if opc < 0x80 then arithOkFloat opc t a
                else arithOkExchange opc t a
      if ok then [] else [0x05]
  | .mem, .mem cls scope acq rel ro ef sel sx =>
      (if scope.toNat > 4 then [0x05] else if memAllows opc cls.toNat scope.toNat acq rel ro ef then [] else [0x1A])
      ++ (if sel.toNat ≤ (if opc = 0xA6 then 2 else if opc = 0xA7 then 1 else 0) then [] else [0x05])
      ++ (if !sx || ([0x9A, 0x9B, 0xA7].contains opc && [tI32, tI64].contains t) then [] else [0x05])
  | .ctl, .ctl b => if ctlOk opc b then [] else [0x05]
  | _, _ => [0x05]

/-- The instructions that may not be guarded (R60). -/
def unguardable : List Nat := [0xB8, 0xB9, 0xBA, 0xBB, 0xBC, 0xBD, 0xBE, 0xBF, 0xC0, 0xC1, 0xD6, 0xD7, 0xCA, 0xCB]

/-- The stream-wide instructions (R59, Table 4.1). -/
def streamWide (opc : Nat) : Bool :=
  opc ≥ 0xD8 || ((0xBE ≤ opc && opc < 0xD8) && opc != 0xC7 && opc != 0xD4)

/-- The special registers (Table 2.13): the type of each index. -/
def sregTy? (n : Nat) : Option Nat := if n = 14 ∨ n = 15 then some tI64 else if n ≤ 17 then some tI32 else none

/-- An operand that fits its position, as far as the encoding says: the kind of operand and the range of an immediate. -/
def Opnd.shapeOk : ArgReq → Opnd → Bool
  | .v _, .val n => n < 2 ^ 21
  | .i .., .int x => -(2 ^ 63) ≤ x && x < 2 ^ 64
  | .f k, .raw x => x < 2 ^ (8 * k)
  | .x, .idx n => n < 128
  | _, _ => false

/-- The code an operand gives whatever the function around it: 0x11 for an immediate out of its range (R54), 0x19 for
a special register that does not exist and 0x0A for one of another type (R72). -/
def opndCodes (t : Nat) : ArgReq → Opnd → List Nat
  | .i lo hi, .int x => if lo ≤ x ∧ x ≤ hi then [] else [0x11]
  | .x, .idx n => match sregTy? n with
      | none => [0x19]
      | some ty => if ty = t then [] else [0x0A]
  | _, _ => []

/-- sel# takes no pointer immediate (R136). -/
def selImmCodes (opc t : Nat) : List Nat := if opc = 0x3F ∧ tysPtr.contains t then [0x0A] else []

/-- The codes that come from the targets and the type list (R45, R41, R44). -/
def targetCodes (opc : Nat) (i : Ins) : List Nat :=
  (if opc = 0xBB then (if 2 ≤ i.succ.length ∧ i.succ.length ≤ 17 then [] else [0x17]) else [])
  ++ (if opc = 0xB8 then
        (if i.tys.length ≤ 20 then [] else [0x0E]) ++ (if i.tys.all (fun b => tysAll.contains b.toNat) then [] else [0x04])
      else [])
  ++ (if opc = 0xBC ∧ i.form = 1 then [0x13] else [])

/-- The verification codes of an instruction by itself: every code that does not depend on the function around it.
The lowest is the one reported (R47). -/
def insCodes (opc : Nat) (i : Ins) : List Nat :=
  match sig opc i.form.toNat i.attr with
  | none => 0x04 :: attrCodes opc i.form.toNat i.attr
  | some s =>
      attrCodes opc i.form.toNat i.attr
      ++ (if i.guard ≠ .always ∧ unguardable.contains opc then [0x0C] else [])
      ++ (List.zipWith (opndCodes i.form.toNat) s.args i.src).flatten
      ++ selImmCodes opc i.form.toNat
      ++ targetCodes opc i

/-- The number of fallbacks of an instruction (R48): one per result but a post-incremented pointer, where it is
guarded. -/
def fallCount (g : Guard) (s : Sig) : Nat :=
  match g with
  | .always => 0
  | .whenTrue _ | .whenFalse _ => s.res.length - (if s.pi then 1 else 0)

/-- How many targets an opcode has: none where it has any number. -/
def succCount (opc : Nat) : Option Nat :=
  match opc with
  | 0xB9 | 0xBC => some 1
  | 0xBA => some 2
  | 0xBB => none
  | _ => some 0

/-- The portable form of the operand fields: the right kinds and numbers of operands. -/
def shapeOk (opc : Nat) (i : Ins) : Bool :=
  match sig opc i.form.toNat i.attr with
  | none => false
  | some s =>
      (match i.guard with
       | .always => true
       | .whenTrue o | .whenFalse o => Opnd.shapeOk (.v []) o)
      && i.falls.length == fallCount i.guard s && i.falls.all (Opnd.shapeOk (.v []))
      && (if opc = 0xBD then i.src.all (Opnd.shapeOk (.v []))
          else i.src.length == s.args.length && (List.zipWith Opnd.shapeOk s.args i.src).all id)
      && (match succCount opc with
          | some n => i.succ.length == n
          | none => 1 ≤ i.succ.length)
      && i.succ.all (fun t => t.num < 2 ^ 21 && t.args.length < 128 && t.args.all (fun n => n < 2 ^ 21))
      && (if opc = 0xB8 then i.tys.length < 128 else i.tys.isEmpty)
      && i.dst.isEmpty && i.space.isNone

end Sys2Proof
end

