-- ==== Sys2Proof/Machine/Latency.lean ====
section
/-! DEFINITION. Latencies of native results (Tables 15.6 and 15.7). -/
namespace Sys2Proof.Machine

/-- One of four numbers by the identifier of the die: C0, C1, B1, B2. -/
def byIdent (ident c0 c1 b1 b2 : Nat) : Nat :=
  if ident = 0x00 then c0 else if ident = 0x01 then c1 else if ident = 0x11 then b1 else b2

/-- The fixed latency of an opcode's results on a die, by form type and source type (Table 15.6). -/
def fixedLatency (ident opc ty src : Nat) : Nat :=
  let f64 := ty == tF64 || src == tF64
  if [0x04, 0x05, 0x06, 0x07, 0x0E, 0x0F, 0x10, 0x2D].contains opc then byIdent ident 4 4 5 5
  else if [0x08, 0x09, 0x39, 0x3A].contains opc then
    (if ty = tI64 then byIdent ident 36 32 44 40 else byIdent ident 20 18 24 22)
  else if opc < 0x40 || opc = 0xC7 then byIdent ident 2 2 3 3
  else if [0x40, 0x41, 0x42, 0x43, 0x44, 0x6C, 0x70, 0x71, 0x72, 0x7F].contains opc then
    (if f64 then byIdent ident 8 6 10 8 else byIdent ident 4 4 5 5)
  else if [0x49, 0x4A, 0x4B, 0x4C, 0x4D, 0x4E, 0x4F, 0x68, 0x6B, 0x6D, 0x73, 0x74, 0x75, 0x76, 0x7C, 0x7D,
        0x7E].contains opc then byIdent ident 4 4 5 5
  else if [0x45, 0x46, 0x47].contains opc then
    (if f64 then byIdent ident 26 22 32 28 else byIdent ident 14 12 16 16)
  else if opc = 0x48 || (0x59 ≤ opc && opc ≤ 0x67) then
    (if f64 then byIdent ident 30 26 36 34 else byIdent ident 12 10 14 14)
  else if opc < 0x80 then byIdent ident 5 4 6 6
  else if opc = 0x92 || opc = 0x93 then byIdent ident 6 6 8 8
  else byIdent ident 3 3 4 4

/-- The unloaded latency of a variable-latency result that needs no memory access (Table 15.7). -/
def variableLatency (ident opc : Nat) : Nat :=
  let b := ident / 16 == 1
  if opc = 0xAD || opc = 0xAE then (if b then 14 else 10)
  else if opc = 0xB2 || opc = 0xB3 then (if b then 22 else 16)
  else if opc = 0xB1 then (if b then 40 else 32)
  else if 0xA8 ≤ opc && opc ≤ 0xB7 && opc != 0xB0 && opc != 0xB6 then (if b then 9 else 6)
  else if opc = 0xCB then (if b then 72 else 64)
  else if opc = 0xF4 then (if b then 72 else 64)
  else if 0xFB ≤ opc && opc ≤ 0xFD then (if b then 18 else 16)
  else if b then 6 else 4

/-- The opcodes whose results have a fixed latency (R404 lists the others). -/
def isFixed (opc : Nat) : Bool :=
  opc < 0x80 || opc == 0x92 || opc == 0x93 || opc == 0xC7 || opc == 0xD2 || opc == 0xD3 || opc == 0xD1

end Sys2Proof.Machine
end

