-- ==== Sys2Proof/Config.lean ====
section
/-! DEFINITION. What an implementation fixes and the free values: constants without a body, so that nothing in
Lean can evaluate them and every statement holds for every value they may have. -/
namespace Sys2Proof

/-- The functions of R187 (rsqrt) and Table 6.11 whose results are bounded but not fixed bit by bit. -/
inductive SpecialFn where
  | rsqrt | exp2 | log2 | exp | log | sin | cos | tanh | sigm | erf | gelu | geluTanh | atan2 | pow | cbrt | silu
  deriving DecidableEq, Repr

namespace Config

/-- The code a special function delivers for its operands, in a format named by its width and fraction width. The
same on every die kind and stepping (R202). It counts only where it lies within the bound of R187 or R202
(`Machine/Special.lean`); log entry 6. -/
opaque specialValue : SpecialFn → Nat → Nat → Nat → Nat → Nat

/-- What an HBM4 granule holds that nothing has written and that bring-up did not zero (R475), for the count of module
resets so far and the granule: its 8 bytes in the low 64 bits, little-endian, and in bit 64 whether its check fails; log
entry 2. -/
opaque residue : Nat → Nat → Nat

/-- The host's answer to a translation request (R390): for the count of invalidations so far and a 4 KiB page of
untranslated addresses, 0 where it refuses, otherwise one more than the page; log entry 20. -/
opaque hostPage : Nat → Nat → Nat

/-- The module's own memory that a 64 KiB page of its peer addresses names (R387): a number from which
`Machine/LinkEvents.lean` takes the die or tier and the page; log entry 28. -/
opaque peerPage : Nat → Nat

/-- Byte of a SHA-384 digest in the attestation report (Table 19.4): of the boot firmware (0), the fault and sail firmware
(1), the management-team image (2) or the boot configuration (3); log entry 8. -/
opaque imageDigest : Nat → Nat → BitVec 8

/-- Byte of a signature of the module's identity key over some bytes, for a fresh number (R484); log entry 8. -/
opaque identitySignature : Nat → List (BitVec 8) → Nat → BitVec 8

/-- Whether a signature is one of Maeloft's debug key over some bytes (R485); log entry 8. -/
opaque debugSignature : List (BitVec 8) → List (BitVec 8) → Bool

/-- A fresh free value: the step applies it to the counter `State.fresh` and advances the counter. -/
opaque freeValue : Nat → Nat

end Config
end Sys2Proof
end

