-- ==== Sys2Proof/Machine/Stream.lean ====
section
/-! DEFINITION. Streams and teams: the state that the control, issue and exchange chapters give a stream and a team
(spec/01_package_and_engines.md, 03, 04, 07, 09 and 15). Plain data, with the values a placement leaves as the
fields' defaults. -/
namespace Sys2Proof.Machine

/-- Where a value stands: a value of an inlined function (its frame and number, R42, R109), a native register or
predicate (R397), or a word of the lane's spill area (R429). -/
inductive Loc where
  | val (frame n : Nat)
  | reg (n : Nat)
  | pred (n : Nat)
  | spill (n : Nat)
  deriving DecidableEq, Repr

/-- A value with its type code and one word per lane; a control stream has one lane (R15, R16). -/
structure TVal where
  ty : Nat
  lanes : List Word
  deriving DecidableEq, Repr

/-- A Delaro position: function index and byte offset (R36). -/
structure Position where
  func : Nat
  off : Nat
  deriving DecidableEq, Repr

/-- An entry of a mask stack (R400): PATH or RECONV. The pc is a bundle index, or a block of the inlined unit. -/
structure MaskEntry where
  mask : BitVec 32
  pc : Nat
  recon : Bool
  deriving DecidableEq, Repr

/-- An in-flight entry of a path (R27): its completion is counted when every older one is complete. `ref` is the
reference of its completion (R449). -/
structure InFlight where
  id : Nat
  done : Bool
  ref : Nat := 0
  deriving DecidableEq, Repr

/-- A deferred code due to a stream (R37, R39). It is delivered at the next wait on a path, or with path 6 at the next
instruction. -/
structure Deferred where
  code : Nat
  path : Nat := 6
  cause : Nat := 0
  /-- Position of the issuing instruction. -/
  issued : Position
  /-- The queue entry, address or tag the report names. -/
  detail : Nat := 0
  /-- The chunk of a copy command the report names (R293). -/
  chunk : Nat := 0
  deriving DecidableEq, Repr

/-- What a blocked stream waits for (R96, R106). -/
inductive Wait where
  | push (q : Nat) | pop (q : Nat)
  | tokPush (f : Nat) | tokPop (f : Nat)
  | counter (path thr : Nat)
  | room (path : Nat)
  | fence (id : Nat)
  | copyMatrix
  | slot (k : Nat)
  | flags
  | bar (k : Nat) (gen : BitVec 32)
  | cbar (k : Nat) (gen : BitVec 32)
  | rdv (gen : BitVec 32)
  | phase
  | regroup (gen : BitVec 32)
  /-- Room for `n` records, or `n` records at the head of the pops that wait. -/
  | rsPush (k n : Nat) | rsPop (k n : Nat)
  /-- An entry of MXQ (2) or FWQ (3); `n` entries of the overflow ring. -/
  | engineRoom (q : Nat)
  | ring (n : Nat)
  | page
  | translation
  | sail (id : Nat)
  | order
  | held
  deriving DecidableEq, Repr

/-- An arrival mark (R119): which barrier, and the generation in which the stream arrived. -/
inductive Arrival where
  | bar (k : Nat) (gen : BitVec 32)
  | cbar (k : Nat) (gen : BitVec 32)
  | rdv (gen : BitVec 32)
  | regroup (gen : BitVec 32)
  deriving DecidableEq, Repr

/-- A result on its way to a register of a native stream (R403, R404): the lanes to write, their values, the flags to
OR, and the cycles left. A variable-latency result keeps its destination pending until it lands. -/
structure Landing where
  dst : Loc
  lanes : BitVec 32
  val : TVal
  flags : BitVec 5 := 0
  left : Nat
  var : Bool := false
  /-- Which instruction it belongs to (R403 bounds their number). -/
  ins : Nat := 0
  deriving DecidableEq, Repr

/-- The poison an atomic left in a register (R255, R256): the lanes, their fates and what the report names. -/
structure PoisonMark where
  loc : Loc
  lanes : BitVec 32
  /-- Lanes whose register a later instruction has written since: their fault is left for a wait (R255). -/
  covered : BitVec 32 := 0
  /-- Applied, not applied or unknown (Table 8.7). -/
  fate : Nat
  /-- The executing place. -/
  place : Nat
  addr : Nat
  tag : BitVec 16
  issued : Position
  deriving DecidableEq, Repr

/-- The state of a stop (R409): running, asked to stop, or stopped with the reason's event code. -/
inductive Stop where
  | running
  | asked (code : Nat)
  | stopped (code : Nat)
  deriving DecidableEq, Repr

/-- An acquire slot (R450): a line's address, the reference last received, and the issue time of the line's first acquire
since then. -/
structure AcquireSlot where
  line : Nat
  ref : Option Nat := none
  first : Option Nat := none
  deriving DecidableEq, Repr

/-- A stream. -/
structure Stream where
  /-- Native bundles or the inlined portable unit (log entry 4). -/
  native : Bool := false
  /-- Portable place: block of the unit and item within it. -/
  blk : Nat := 0
  item : Nat := 0
  /-- The frame and Delaro position of the current instruction, and the number its first result takes (R42). -/
  frame : Nat := 0
  func : Nat := 0
  off : Nat := 0
  nextVal : Nat := 0
  /-- Unit blocks the current instruction's targets name. -/
  succ : List Nat := []
  /-- Native place: bundle index (R393), and the cycles until the next bundle may issue (R402). -/
  bundle : Nat := 0
  delay : Nat := 0
  /-- RAVEL of the last bundle issued (R394). -/
  ravel : Nat := 0
  /-- A branch of the current bundle has chosen the next one (R399). -/
  jump : Option Nat := none
  /-- Values of the portable form, native registers and predicates. -/
  file : List (Loc × TVal) := []
  pending : List Loc := []
  landings : List Landing := []
  poisoned : List PoisonMark := []
  /-- Mode register (Table 4.2). -/
  mode : BitVec 32 := 0x21
  active : BitVec 32
  ended : BitVec 32 := 0
  /-- Mask stack, top first. -/
  stack : List MaskEntry := []
  /-- The stream has ended (R110). -/
  finished : Bool := false
  /-- Stochastic generator of each lane (R174). -/
  rng : List (BitVec 32) := []
  ll : List InFlight := []
  gl : List InFlight := []
  st : List InFlight := []
  att : List InFlight := []
  cp : List InFlight := []
  mx : List InFlight := []
  /-- For each path and count, the completion that last brought the counter there (R445). -/
  reached : List ((Nat × Nat) × Nat) := []
  /-- Tag counter of the atomics (R251). -/
  tag : BitVec 16 := 0
  ackLost : Bool := false
  due : List Deferred := []
  wait : Option Wait := none
  /-- The fences and accesses a blocked instruction has issued and waits for. -/
  stage : List Nat := []
  mark : Option Arrival := none
  demoted : Bool := false
  spins : Nat := 0
  /-- The spin-candidate head at which it was demoted, and for each such head the values of its ravel entry at its last
  issue (R97). -/
  spinHead : Option Nat := none
  spinVals : List (Nat × List TVal) := []
  /-- Cycles since the stream last issued, and for which it has been ready. -/
  idle : Nat := 0
  readyFor : Nat := 0
  /-- When the blocked instruction first issued, and the producer's reference and the slack it was handed when what it
  waits for came about (R445, R446). -/
  headAt : Option Nat := none
  /-- Cycles of the latest record that an instruction has read, and of its reading (Table 15.7). -/
  recordCycles : Nat := 0
  prod : Option (Nat × Nat) := none
  yielded : Bool := false
  sleep : Nat := 0
  /-- Parked on a fault (R339): the access that waits for a translation. -/
  parked : Option Nat := none
  /-- The page of a record that it reads was left unmapped, at this address (R342). -/
  deniedAt : Option Nat := none
  stop : Stop := .running
  /-- Latest link (R448), acquire slot (R450) and step start (R453) of the chain recorder. -/
  link : Option Nat := none
  acqSlot : Option AcquireSlot := none
  stepStart : Option Nat := none
  /-- When it was frozen by a pre-emption, until its first bundle after resumption. -/
  frozen : Option Nat := none
  /-- The slots of its bundle are being weighed: a trap is marked only (R39); and the slot that runs (R410). -/
  issuing : Bool := false
  slot : Nat := 0
  deriving DecidableEq, Repr

/-- A stream queue (R19, R20): element kind 0 unused, 1 w32, 2 w64, 3 s64; entries oldest first, each with the chain
reference it carries. -/
structure StreamQueue where
  kind : Nat := 0
  prod : Nat := 0
  cons : Nat := 0
  entries : List (List Word × Option Nat) := []
  deriving DecidableEq, Repr

/-- A barrier of a team (R115): its count, target and generation; the reference of its latest arrival with the slack
to the one before it (R446), and those of the generation completed last. -/
structure Barrier where
  arrived : Nat := 0
  target : Nat := 0
  gen : BitVec 32 := 0
  last : Option (Nat × Nat) := none
  done : Option (Nat × Nat) := none
  deriving DecidableEq, Repr

/-- The rendezvous of a team (R117): the streams that have arrived. -/
structure Rendezvous where
  arrived : List Nat := []
  gen : BitVec 32 := 0
  last : Option (Nat × Nat) := none
  deriving DecidableEq, Repr

/-- A token FIFO (R25): its count, how many of its tokens were pushed in this cycle (R26), and the chain references of its
tokens, oldest first. -/
structure TokenFifo where
  count : Nat := 0
  fresh : Nat := 0
  links : List (Option Nat) := []
  deriving DecidableEq, Repr

/-- A change of phase in progress (R128): the target phase, and the cycles of the drain once it has begun. -/
structure PhaseChange where
  target : Nat
  drain : Option Nat := none
  deriving DecidableEq, Repr

/-- A trap as its fault record names it (R36, R37, R130, R131). -/
structure TrapRecord where
  stream : Nat
  code : Nat
  pos : Position
  /-- For a deferred delivery, the issuing position (R37). -/
  issued : Option Position := none
  /-- The code byte of trap and brk, or the cause of an ACCESS_VIOLATION or PANEL_FAULT. -/
  arg : Nat := 0
  /-- The value of trap's operand, or the faulting address. -/
  value : Nat := 0
  lanes : BitVec 32 := 0
  /-- The executing place and the tag of a poisoned atomic (R256), or the chunk of a copy command (R293). -/
  place : Nat := 0
  tag : Nat := 0
  chunk : Nat := 0
  /-- The second address of a FETCH_FAULT (R56). -/
  byteAt : Nat := 0
  /-- Native place: bundle, slot and RAVEL (R410). -/
  bundle : Option (Nat × Nat × Nat) := none
  /-- Codes still due (R39). -/
  due : List Nat := []
  deriving DecidableEq, Repr

/-- A record of a record stream (R271): its 64 bits, the stream that pushed it, and its chain reference. -/
structure RsRecord where
  bits : BitVec 64
  src : Nat
  link : Option Nat := none
  deriving DecidableEq, Repr

/-- A record stream (R270 to R273): its records oldest first, and the full pops that wait, in order of arrival. -/
structure RecordStream where
  recs : List RsRecord := []
  waiting : List Nat := []
  deriving DecidableEq, Repr

/-- An arrival at regroup (R274): the group, its participating lanes and their keys, the groups it names, the position
of the instruction and whether it is .cmp. -/
structure RegroupArrival where
  group : Nat
  lanes : BitVec 32
  keys : List Word
  named : BitVec 32
  pos : Position
  compact : Bool
  deriving DecidableEq, Repr

/-- The regroup rendezvous of a team (R274): its arrivals in order, and for each group the results, lane by lane, of the last
complete generation it took part in. -/
structure Regroup where
  gen : BitVec 32 := 0
  arrived : List RegroupArrival := []
  results : List (Nat × List Word) := []
  last : Option (Nat × Nat) := none
  deriving DecidableEq, Repr

/-- A way of the tag table (R213): its key and whether it is valid. -/
structure TagWay where
  key : BitVec 64 := 0
  valid : Bool := false
  deriving DecidableEq, Repr

/-- A set of the tag table: four ways, and their numbers from the most to the least recently used. -/
structure TagSet where
  ways : List TagWay := [{}, {}, {}, {}]
  recency : List Nat := [3, 2, 1, 0]
  deriving DecidableEq, Repr

/-- The pool split of a core (R82, R83), in bytes. -/
structure Split where
  regBytes : Nat := 0
  spill : Nat := 0
  locBytes : Nat := 0
  l1Bytes : Nat := 0
  deriving DecidableEq, Repr

/-- The pool offset at which local memory begins: after the register file and the spill area (R82). -/
def Split.localBase (x : Split) : Nat := x.regBytes + x.spill

end Sys2Proof.Machine
end

