-- ==== Sys2Proof/Machine/Parts.lean ====
section
/-! DEFINITION. The parts of the machine around the streams: translations, teams, cores and dies. Plain data. -/
namespace Sys2Proof.Machine

/-- An instruction of an inlined unit: its Delaro position (R36), its encoded bytes as the knitter read them (R57), the
unit blocks its targets name, and the number its first result takes (R42). -/
structure UItem where
  func : Nat
  off : Nat
  bytes : List Byte
  succ : List Nat := []
  first : Nat := 0
  /-- Values a ret carries. -/
  nres : Nat := 0
  deriving DecidableEq, Repr

/-- A block of an inlined unit: the function and frame it stands in, the calls that led there (R439), the number of its
first argument, its instructions, and its reconvergence block when it ends in brc or brt (R111). -/
structure UBlock where
  func : Nat
  frame : Nat
  chain : List (Nat × Nat) := []
  argBase : Nat
  items : List UItem
  recon : Option Nat := none
  deriving DecidableEq, Repr

/-- A translation key (R417): module hash, entry function, die identifier and register budget. -/
structure TransKey where
  hash : Nat
  entry : Nat
  ident : Nat
  budget : Nat
  deriving DecidableEq, Repr

/-- A ravel value record (Table 16.4): frame, counted from the entry function, and number of the value, its type, where
it stands, and for LOC 5 and 6 the cycles until its write. -/
structure RavelVal where
  frame : Nat
  num : Nat
  ty : Nat
  /-- 0 dead, 1 register, 2 predicate, 3 spill slot, 4 constant, 5 and 6 in flight to a register or predicate. -/
  loc : Nat
  place : Nat := 0
  k : Nat := 0
  const : Nat := 0
  deriving DecidableEq, Repr

/-- A ravel entry (Table 16.3) with its frame records (offset of the call and callee), its value records, and the bundle
it stands before. -/
structure RavelEntry where
  off : Nat
  func : Nat
  pkind : Nat
  succ : Nat := 0
  gen : Bool := false
  frames : List (Nat × Nat) := []
  vals : List RavelVal := []
  bundle : Nat := 0
  deriving DecidableEq, Repr

/-- A translation: the inlined unit the knitter made, and the native image with its tables (R417, R437). -/
structure Translation where
  key : TransKey
  unit : List UBlock
  /-- Bundle bytes, 40 each (R393), and for each bundle the slots it uses with their instructions' positions (R410). -/
  bundles : List (List Byte) := []
  places : List (List (Nat × Position)) := []
  attrs : List (BitVec 16) := []
  ravels : List RavelEntry := []
  /-- The index of each unit block's first bundle. -/
  starts : List Nat := []
  /-- Bytes the translation takes in the store, and its spill words (R437). -/
  size : Nat := 0
  spills : Nat := 0
  /-- The partition of the job that last used it (R442). -/
  part : Nat := 0
  /-- It was made again after NATIVE_CHECK at this bundle (R414). -/
  checkedAt : Option Nat := none
  deriving DecidableEq, Repr

/-! ### Accesses in flight (spec/07_load_store_engine.md, spec/08_atomic_engine.md) -/

/-- What an access does (R217, R237, R234). -/
inductive AccKind where
  | load | store | prefetch | prefetchL1
  /-- An atomic or a reduction: its opcode and operation select, the primary type, the signedness. -/
  | atomic (opc sel ty : Nat) (sx : Bool)
  /-- A fence: its class mask. -/
  | fence (mask : BitVec 16)
  deriving DecidableEq, Repr

/-- How far a lane of an access has come. -/
inductive LaneStage where
  /-- Waiting for a translation (R222). -/
  | parked
  /-- Its page's fault has been answered, and the lane replays with the others of its access (R343); or its page was left
  unmapped (R342). -/
  | mapped
  | denied
  /-- Held in a coalescing line of L1 (R211). -/
  | coalescing
  /-- Sent to its point. -/
  | sent
  /-- Refused at a moving page or an old sail: translates again (R346, R363). -/
  | refused
  /-- At the home of a replicated page, waiting for its HOLD round (R375). -/
  | round
  /-- Applied at a place beyond a bridge or a device link: its response is on its way, or is lost (R253). -/
  | applied
  | lost
  /-- Bound or performed at its point. -/
  | done
  deriving DecidableEq, Repr

/-- A lane of an access. `pa` is a flat physical address; `data` holds the bytes to store, or the operands of an
atomic; `got` the bytes read. -/
structure AccLane where
  lane : Nat
  va : Nat
  pa : Nat := 0
  stage : LaneStage := .sent
  data : List Byte := []
  got : List Byte := []
  poison : Bool := false
  /-- Sail id, location and home die the translation gave (R336), read-only hint and the place code of an atomic. -/
  sail : Nat := 0
  loc : Nat := 0
  home : Nat := 0
  roh : Bool := false
  place : Nat := 0
  /-- Fate of an atomic whose result is poisoned (Table 8.7). -/
  fate : Nat := 0
  /-- Group and position to which regroup has moved the lane since (R275). -/
  owner : Option (Nat × Nat) := none
  /-- The reference that the line held when a lane of an acquire bound (R450). -/
  ref : Option Nat := none
  deriving DecidableEq, Repr

/-- An access in flight: an instruction's lanes, in issue order in `State.flights`. -/
structure Acc where
  id : Nat
  ref : StreamRef
  asid : Nat
  kind : AccKind
  cls : Nat := 0
  scope : Nat := 0
  acq : Bool := false
  rel : Bool := false
  ef : Bool := false
  ro : Bool := false
  /-- The address is a local pointer. -/
  isLocal : Bool := false
  size : Nat := 0
  /-- Destinations and their types. -/
  dsts : List (Loc × Nat) := []
  lanes : List AccLane := []
  pos : Position
  /-- $time of its issue, and from which the fabric timeout counts (R382). -/
  time : Nat := 0
  born : Nat := 0
  /-- The cycle of its die in which it was sent, and before which its result does not return (R408). -/
  cycle : Nat := 0
  due : Nat := 0
  tag : BitVec 16 := 0
  /-- Tag of its stream's oldest atomic that had not completed when its requests left (R251). -/
  floor : BitVec 16 := 0
  /-- Resends after a fabric timeout (R382). -/
  resends : Nat := 0
  /-- Dies whose sync marker the acquire still waits for (R378); `syncing` once it has begun. -/
  syncing : Bool := false
  markers : List Nat := []
  /-- Sails have been written back for its release (R231); its write-backs that must be acknowledged. -/
  flushed : Bool := false
  waits : List Nat := []
  /-- A write-back of a cluster sail: no stream counts it (R377). -/
  wb : Bool := false
  /-- Reference a release carries (R449). -/
  link : Option Nat := none
  /-- The die whose HOLD acknowledgement came last (R445). -/
  acker : Option Nat := none
  deriving DecidableEq, Repr

/-- A store's bytes on their way beyond its own point (R227): a coalesced .tm store, or a write-through. -/
structure Onward where
  core : CoreRef
  lane : AccLane
  ef : Bool
  /-- The cycle of its die since which its line holds it. -/
  since : Nat
  /-- The reference of a store with .rel (R449). -/
  link : Option Nat
  deriving DecidableEq, Repr

/-- An entry of a result store (R252): the executing place (its code and the core or bank), the requester (device, die,
incarnation, core, stream and lane), the tag and the result. -/
structure ResultEntry where
  place : Nat
  unit : Nat
  addr : Nat
  dev : Nat
  ref : StreamRef
  inc : Nat
  lane : Nat
  tag : BitVec 16
  result : List Byte
  deriving DecidableEq, Repr

/-- A line of L1 (R211), in recency order in its core. -/
structure L1Line where
  line : Nat
  data : List Byte
  ro : Bool
  deriving DecidableEq, Repr

/-- A leaf translation cached by a core (R338): the block of virtual addresses it maps and the entry. -/
structure TlbEntry where
  asid : Nat
  base : Nat
  bytes : Nat
  entry : BitVec 64
  deriving DecidableEq, Repr

/-- A non-leaf entry cached by a die's walker (R338). -/
structure WalkEntry where
  asid : Nat
  level : Nat
  idx : Nat
  entry : BitVec 64
  deriving DecidableEq, Repr

/-! ### Sails (spec/13_sail_engine.md) -/

/-- A line of a sail: its place, its bytes, and the masks of valid and dirty bytes (R356). A replica may hold bytes
hidden until an OPEN (R375). -/
structure SailLine where
  entry : Nat
  set : Nat
  line : Nat
  valid : Nat
  dirty : Nat := 0
  data : List Byte
  hidden : Option (List (Nat × Byte)) := none
  /-- For a line of a cluster sail, the home sail and the home die of its page. -/
  homeSail : Nat := 0
  homeDie : Nat := 0
  /-- The reference of the latest release that wrote it (R450). -/
  ref : Option Nat := none
  deriving DecidableEq, Repr

/-- State of a sail on a die (Table 13.4). -/
inductive SailPhase where
  | steady | shaking | reefing | draining
  deriving DecidableEq, Repr

/-- A sail on one die, or a cluster sail whole: its panel list (die and panel), its lines from the most to the least
recently used, and the change in progress. -/
structure SailPart where
  die : Nat
  panels : List (Nat × Nat)
  phase : SailPhase := .steady
  /-- New list of a change, the panels swept so far and those departing. -/
  next : List (Nat × Nat) := []
  swept : Nat := 0
  /-- The number of the latest change, that a panel is being swept, and the cycles its sweep still takes (R361). -/
  change : Nat := 0
  sweeping : Bool := false
  sweepLeft : Nat := 0
  lines : List SailLine := []
  deriving DecidableEq, Repr

/-- A round of HOLD at a home (R375): the store, the line, the bytes, the dies still to acknowledge. -/
structure HoldRound where
  id : Nat
  acc : Nat
  lane : Nat
  line : Nat
  off : Nat
  bytes : List Byte
  waiting : List Nat
  /-- Its home die, $time of its start, and the dies whose fetches of the line wait for it. -/
  home : Nat := 0
  start : Nat := 0
  fetches : List Nat := []
  deriving DecidableEq, Repr

/-- A sail (R353, R355). -/
structure Sail where
  id : Nat
  kind : Nat
  lineCode : Nat
  waysCode : Nat
  policy : Nat
  dies : Nat := 0x3F
  xhome : Nat := 3
  /-- For a cluster sail, its cluster. -/
  cluster : Option Nat := none
  parts : List SailPart
  /-- Sharer masks of lines at their homes (R374). -/
  sharers : List (Nat × Nat) := []
  rounds : List HoldRound := []
  deriving DecidableEq, Repr

/-! ### Bridges and links (spec/14_fabric_engine.md) -/

/-- The body of a message between dies (R370, R374 to R378, R118). Lines are flat line numbers of a sail. -/
inductive Body where
  | fetch (sail line : Nat)
  | fetchResponse (sail line : Nat) (data : List Byte)
  | hold (sail line round off : Nat) (bytes : List Byte)
  | holdAck (sail line round : Nat)
  | openLine (sail line round off : Nat) (bytes : List Byte)
  | invalidate (sail line : Nat)
  | efUpdate (sail line off : Nat) (bytes : List Byte)
  | storeAck (acc lane : Nat) (lost : Bool) (sail line off : Nat) (bytes : List Byte)
  | syncRequest (acc : Nat)
  | syncMarker (acc : Nat)
  | barrier (cluster k : Nat) (gen : BitVec 32) (last : Option (Nat × Nat))
  deriving DecidableEq, Repr

/-- A message on a channel (0 request, 1 response, 2 acknowledgement, 3 update), with its sender's incarnation, the die
it has reached on its route (R12), and the reference that travels with its line (R450). -/
structure Msg where
  chan : Nat
  src : Nat
  dst : Nat
  at_ : Nat
  inc : BitVec 8
  body : Body
  ref : Option Nat := none
  deriving DecidableEq, Repr

/-- The message stands at its destination. -/
def Msg.arrived (m : Msg) : Bool := m.at_ == m.dst

/-- The die after `at_` on the route to a die; 6 is the hub (R12): along the row to the destination's column, and then
between the rows; the hub is reached from, and reaches, the lower die of the column. -/
def nextHop (at_ dst : Nat) : Nat :=
  if dst = 6 then (if at_ < 3 then at_ + 3 else 6)
  else if at_ = 6 then dst % 3 + 3
  else if at_ % 3 < dst % 3 then at_ + 1
  else if dst % 3 < at_ % 3 then at_ - 1
  else if at_ = dst then dst else (at_ + 3) % 6

/-- Bridges on the route between two dies (R12). -/
def bridgesTo : Nat → Nat → Nat → Nat
  | 0, _, _ => 0
  | fuel + 1, a, b => if a = b then 0 else bridgesTo fuel (nextHop a b) b + 1

/-- Hops between two cores on the module's mesh (R17). -/
def meshHops (a b : CoreRef) : Nat :=
  let apart (x y : Nat) : Nat := (x - y) + (y - x)
  apart (a.die / 3 * 10 + a.core / 16) (b.die / 3 * 10 + b.core / 16) + apart (a.die % 3 * 16 + a.core % 16) (b.die % 3 * 16 + b.core % 16)

/-- A device-link port (R383 to R388). -/
structure Port where
  en : Bool := false
  dateline : Bool := false
  up : Bool := false
  down : Bool := false
  nbr : BitVec 12 := 0
  /-- Incarnation learned at training (R386). -/
  nbrInc : BitVec 8 := 0
  replays : BitVec 32 := 0
  sendSeq : BitVec 12 := 0
  ackSeq : BitVec 12 := 0
  /-- Flits sent and not yet acknowledged, oldest first. -/
  replayBuf : List Flit := []
  expect : BitVec 12 := 0
  /-- $time at which ACKSEQ last advanced or the buffer was last sent again, and the sendings since it advanced. -/
  since : Nat := 0
  stuck : Nat := 0
  retraining : Bool := false
  nakDue : Bool := false
  deriving DecidableEq, Repr

/-- A leaf as the engine uses it: the entry and the block it maps. -/
structure Leaf where
  entry : Nat
  base : Nat
  bytes : Nat
  /-- The 4 KiB page of host memory that ATS gave, when it translates (R390). -/
  host : Option Nat := none
  deriving DecidableEq, Repr

/-! ### Copy and matrix engines (spec/10_copy_engine.md, spec/11_matrix_engine.md) -/

/-- A tensor descriptor (Table 10.1). Strides are signed. -/
structure Descriptor where
  ext : List Nat
  sstr : List Int
  dstr : List Int
  stype : Nat
  dtype : Nat
  cvtRm : Nat
  cvtSat : Bool
  sfw : Nat
  dfw : Nat
  sscale : Nat
  dscale : Nat
  deriving DecidableEq, Repr

/-- What a copy command does (R283). -/
inductive CopyOp where
  | load | store | gg
  /-- cp.red with its residual slot, and whether the slot's contents are kept (R289). -/
  | red (slot : Nat) (kept : Bool)
  | fill (v : BitVec 64)
  | bcast
  | gather (ix : BitVec 64)
  | scatter (ix : BitVec 64)
  | fence (number : Nat)
  deriving DecidableEq, Repr

/-- A chunk (R292): its number, its row and the elements of the row it moves, the index of the row of cp.gat and cp.sct,
the generator's state at its first element (R281), the leaves it translated at its start (R295) and its tag (R288); and
once its bytes are on their way, the write-backs whose acknowledgements it waits for. -/
structure Chunk where
  num : Nat
  row : Nat
  first : Nat
  count : Nat
  idx : Option Nat := none
  rng : BitVec 32 := 0
  pages : List Leaf := []
  tag : BitVec 16 := 0
  moved : Bool := false
  acks : List Nat := []
  /-- Its place has applied it and the acknowledgement was lost, at this $time; and its resends so far (R253, R382). -/
  lostAt : Option Nat := none
  resends : Nat := 0
  deriving DecidableEq, Repr

/-- An entry of LDQ, STQ or the ring (R285, R291), with its chunk record (R295). -/
structure CopyCmd where
  id : Nat
  op : CopyOp
  stream : Nat
  pos : Position
  /-- Descriptor as it stood in its slot at issue; none when the slot was invalid or the limits were not met. -/
  desc : Option Descriptor
  slot : Nat
  dst : BitVec 64
  src : BitVec 64
  /-- Spaces of the two sides: true global. -/
  dstG : Bool
  srcG : Bool
  push : Bool
  pop : Bool
  scope : Nat
  ef : Bool
  spec : Option Nat
  /-- The flight record of its issue release (R291); none under .norel. -/
  release : Option Nat
  /-- When it reached the head of its queue, and whether its turn has come: its release complete and its token taken. -/
  headAt : Option Nat := none
  started : Bool := false
  /-- The next chunk to start: its number, row and first element. -/
  next : Nat := 0
  row : Nat := 0
  col : Nat := 0
  /-- Index last read (R286). -/
  lastIdx : Option Nat := none
  /-- Scales chosen for blocks that lie in several chunks: row and block, and the scale (R282). -/
  chosen : List ((Nat × Nat) × Nat) := []
  /-- Chunks in flight, and those landed. -/
  flying : List Chunk := []
  landed : List Nat := []
  /-- A command whose region was dropped moves no further chunk (R296). -/
  dead : Bool := false
  /-- Its latest TOKPOP or FAULT link (R449). -/
  link : Option Nat := none
  deriving DecidableEq, Repr

/-- A fault that halts a queue (R293): its code, chunk, faulting address and cause, and the missing 64 KiB blocks not yet
answered. -/
structure CopyFault where
  code : Nat
  cmd : Nat
  chunk : Nat
  addr : Nat
  blocks : List Nat := []
  cause : Nat := 0
  reported : Bool := false
  deriving DecidableEq, Repr

/-- A residual slot (R289). -/
structure Residual where
  base : Nat := 0
  key : BitVec 64 := 0
  valid : Bool := false
  deriving DecidableEq, Repr

/-- A copy queue: LDQ or STQ (R22, R291). -/
structure CopyQueue where
  cmds : List CopyCmd := []
  rng : BitVec 32 := 0
  tag : BitVec 16 := 0
  halted : Option CopyFault := none
  deriving DecidableEq, Repr

/-- The copy engine of a team. -/
structure CopyEngine where
  slots : List (Option Descriptor) := List.replicate 16 none
  residuals : List Residual := List.replicate 8 {}
  ldq : CopyQueue := {}
  stq : CopyQueue := {}
  fences : Nat := 0
  /-- What cp.stat returns: its word at the end of the previous cycle; the bits set since then stand beside it (R297). -/
  stat : Nat := 0
  err : Bool := false
  cvx : BitVec 5 := 0
  psn : Bool := false
  deriving DecidableEq, Repr

/-- A layout record in a slot (Table 11.1). -/
structure Layout where
  base : Nat
  ext : List Nat
  str : List Int
  ty : Nat
  deriving DecidableEq, Repr

/-- A level of a nest table (R316). -/
structure NestLevel where
  ext : Nat := 0
  da : Int := 0
  db : Int := 0
  dc : Int := 0
  ts : Int := 0
  first : Bool := false
  last : Bool := false
  deriving DecidableEq, Repr

/-- A matrix command (R307), with its operands. -/
inductive MxOp where
  | nest (k : Nat) (l : NestLevel)
  | go (cfg : BitVec 32) (rm : Nat) (sat : Bool)
  | mma (cfg : BitVec 32)
  | lay (k : Nat) (rec : Option Layout)
  | zero (t : Nat)
  | load (t k : Nat)
  | store (t k : Nat) (rm : Nat) (sat : Bool)
  | spec (tag : Nat) (pairs : List (Nat × Nat))
  | commit (pairs : List (Nat × Nat))
  | fwb (v : BitVec 32)
  | sclay (k : Nat) (sb : BitVec 32)
  | tcopy (d s : Nat)
  | tadd (d s : Nat)
  deriving DecidableEq, Repr

/-- An entry of MXQ (R310). -/
structure MxCmd where
  id : Nat
  op : MxOp
  push : Bool := false
  pop : Bool := false
  /-- Open speculative region the entry belongs to (R321), and the tiles renamed for it: tile and donor. -/
  region : Option Nat := none
  ren : List (Nat × Nat) := []
  /-- Its region was dropped while it ran: it leaves after its current step (R324). -/
  dead : Bool := false
  pos : Position
  release : Option Nat := none
  started : Bool := false
  /-- A check of Table 11.5 failed at its start. -/
  failed : Bool := false
  /-- Word popped at the start (R312). -/
  word : Nat := 0
  /-- Effects done; waits for older entries or for room for its token (R314, R25). -/
  finished : Bool := false
  /-- Step of a nest reached, and that it has not started: the engine stopped at its boundary (R330). -/
  index : Nat := 0
  paused : Bool := false
  /-- When it reached the head of MXQ, and its TOKPOP link (R449). -/
  headAt : Option Nat := none
  link : Option Nat := none
  deriving DecidableEq, Repr

/-- A layout slot (R304). -/
structure LayoutSlot where
  layout : Option Layout := none
  scaleBase : Nat := 0
  deriving DecidableEq, Repr

/-- An open speculative region (R321): its number among the team's regions, its tag, and the pairs of tile and
donor. -/
structure SpecRegion where
  num : Nat
  tag : Nat
  pairs : List (Nat × Nat)
  deriving DecidableEq, Repr

/-- What a running tile command latched (R312). -/
structure MxLatch where
  slots : List LayoutSlot
  fwb : BitVec 32
  nest : List NestLevel
  deriving DecidableEq, Repr

/-- The matrix engine of a team. Tiles lie in the core's accumulator store. -/
structure MatrixEngine where
  queue : List MxCmd := []
  fwq : List (BitVec 32) := []
  slots : List LayoutSlot := List.replicate 8 {}
  fwb : BitVec 32 := 0
  nest : List NestLevel := List.replicate 6 {}
  shadow : List NestLevel := List.replicate 6 {}
  latch : Option MxLatch := none
  map : List Nat := List.range 12
  region : Option SpecRegion := none
  nextRegion : Nat := 0
  rng : BitVec 32 := 0
  conflicts : Nat := 0
  /-- Cycles the running command still takes (R327). -/
  busy : Nat := 0
  /-- What mx.stat returns: the status word and the conflict counter at the end of the previous cycle; the bits set since
  then stand beside them (R329). -/
  stat : Nat := 0
  cflStat : Nat := 0
  err : Bool := false
  errc : Nat := 0
  exc : BitVec 5 := 0
  psn : Bool := false
  /-- Stopped on FWQ_EMPTY (R23). -/
  stopped : Bool := false
  deriving DecidableEq, Repr

/-- The command that is running. -/
def MatrixEngine.running (e : MatrixEngine) : Option MxCmd := e.queue.find? fun k => k.started && !k.finished

/-- The engine stands at a step boundary (R330). -/
def MatrixEngine.atBoundary (e : MatrixEngine) : Bool := e.running.all MxCmd.paused

/-! ### Teams, cores and dies -/

/-- An open capture window (R464, R469): resident cycles, bundles issued, stalled cycles and pre-emptions. -/
structure Capture where
  cycles : Nat := 0
  bundles : Nat := 0
  stalls : Nat := 0
  preempts : Nat := 0
  deriving DecidableEq, Repr

/-- What a team shows at the end of a cycle: the counters, queues, token FIFOs and barriers that R30 watches, which tok.cnt,
cnt.rd and rs.cnt return in the next cycle (R122, R123, R273) and by which waiting streams are released (R116). -/
structure Shown where
  /-- The six counters of the control stream and of each group. -/
  counts : List (List Nat) := []
  queues : List Nat := []
  tokens : List Nat := []
  /-- Entries of LDQ, STQ, MXQ and FWQ. -/
  engines : List Nat := []
  recs : List Nat := []
  /-- Arrivals and generation of each barrier, of each cluster barrier, of the rendezvous and of the regroup. -/
  bars : List (Nat × BitVec 32) := []
  cbars : List (Nat × Nat × BitVec 32) := []
  rdv : Nat × BitVec 32 := (0, 0)
  regroup : Nat × BitVec 32 := (0, 0)
  deriving DecidableEq, Repr

/-- A team on a core (R15). -/
structure Team where
  launch : Nat
  cluster : Nat
  asid : Nat
  teamid : Nat := 0
  idx : List (BitVec 32) := [0, 0, 0, 0, 0, 0]
  budget : Nat := 8
  control : Stream
  groups : List Stream := []
  ctlUnit : Option Translation := none
  grpUnit : Option Translation := none
  /-- The translations in whose terms streams saved under class 2 stand, until the new ones arrive (R440). -/
  oldCtl : Option Translation := none
  oldGrp : Option Translation := none
  /-- The streams wait for these entries' translations (R418). -/
  queues : List StreamQueue := List.replicate 8 {}
  lc : TokenFifo := {}
  cs : TokenFifo := {}
  sl : TokenFifo := {}
  bars : List Barrier := List.replicate 16 {}
  cbars : List (Nat × Nat) := List.replicate 4 (0, 0)
  rdv : Rendezvous := {}
  regroup : Regroup := {}
  recs : List RecordStream := List.replicate 4 {}
  tags : List TagSet := []
  phase : Nat := 0
  change : Option PhaseChange := none
  copy : CopyEngine := {}
  matrix : MatrixEngine := {}
  /-- Cycles without change (R30), and whether TEAM_STALL was raised for this state. -/
  still : Nat := 0
  /-- What it showed at the end of the previous cycle. -/
  shown : Shown := {}
  stallRaised : Bool := false
  trapped : Option TrapRecord := none
  /-- The save slot that holds a held team (R471). -/
  heldSlot : Option Nat := none
  /-- Pre-emption asked for (R100). -/
  saving : Bool := false
  capture : Option Capture := none
  deriving DecidableEq, Repr

/-- A record of the chain recorder (R447); `lost` where its store had an uncorrectable error (R481). -/
structure Link where
  seq : Nat
  bytes : List Byte
  lost : Bool := false
  deriving DecidableEq, Repr

/-- How far a chain walk has come (R453, R454): behind earlier walks, at a record of a core by its sequence number, or ended
for a reason of Table 17.7. -/
inductive WalkPlace where
  | waiting
  | reading (c : CoreRef) (seq : Nat)
  | ended (reason : Nat)
  deriving DecidableEq, Repr

/-- A chain walk in progress or waiting (R453 to R455): its stream and position, the %id of ch.step, the STEP link's
number, the step's start and end, and where the result goes in which lanes; how far it has come, the cycles until the record
it stands at has been read, and the links emitted. -/
structure Walk where
  stream : Nat
  pos : Position
  id : BitVec 32
  seq : Nat
  start : Nat
  stop : Nat
  dsts : List (Loc × Nat)
  lanes : BitVec 32
  place : WalkPlace := .waiting
  busy : Nat := 0
  links : List Link := []
  deriving DecidableEq, Repr

/-- A core, with the team it holds. Cores the list does not name are empty and hold nothing. -/
structure Core where
  at_ : CoreRef
  team : Option Team := none
  split : Split := {}
  /-- Last address space (R84) and the launch that owns the core under EXCL (R85). -/
  lastAsid : Option Nat := none
  /-- The registers, predicates and spill words that the streams of the last team left, by stream index (R84). -/
  left : List (Nat × List (Loc × TVal)) := []
  excl : Option Nat := none
  l1 : List L1Line := []
  tlb : List TlbEntry := []
  /-- Floating-point pipe of a B-core held (R406). -/
  hold : Nat := 0
  /-- Issue in this cycle: on a C-core the bundles issued, whether one of them used slots M, X or C, and whether one
  holds an instruction in slot F, or one on f64 (R405); on a B-core the passes still to run (R406). -/
  used : Nat := 0
  usedMxc : Bool := false
  usedF : Bool := false
  usedF64 : Bool := false
  /-- The stream whose acquire has invalidated L1 in this cycle, and the lines filled in this cycle with the streams they
  were filled for: a fill for another stream is not installed (R236). -/
  dropped : Option Nat := none
  filled : List (Nat × Nat) := []
  links : List Link := []
  nextLink : Nat := 0
  walks : List Walk := []
  sampleAge : Nat := 0
  sampleTurn : Nat := 0
  /-- Conflict matrix (R470), and as it was at the end of the previous cycle (R469); zeros where none is listed. -/
  matrix : List Nat := []
  seenMatrix : List Nat := []
  deriving DecidableEq, Repr

/-- A translation request or a translation in progress (R421). -/
structure KnitJob where
  key : TransKey
  asid : Nat
  code : Nat
  part : Nat := 0
  left : Nat := 0
  result : Option Translation := none
  /-- It waits for a page; the page was left unmapped, at this address. -/
  waiting : Bool := false
  denied : Option Nat := none
  /-- The translation is made again after NATIVE_CHECK at this bundle (R414). -/
  check : Option Nat := none
  /-- Cycles spent. -/
  spent : Nat := 0
  deriving DecidableEq, Repr

/-- A compute die. -/
structure Die where
  /-- Stepping identifier (Table 1.2). -/
  ident : Nat
  inc : BitVec 8 := 0
  clock : Nat := 0
  /-- Panels failed (R350); the cut ones are those of the sails. -/
  failed : List Nat := []
  /-- Panels whose tag or state array holds an uncorrectable error that nothing has met yet (R367). -/
  struck : List Nat := []
  walker : List WalkEntry := []
  /-- Translation store, most recent first (R419). -/
  store : List Translation := []
  /-- Lines of each row's native cache, most recent first: row, key and line (R418). -/
  native : List (Nat × TransKey × Nat) := []
  /-- Knitters: row and job. -/
  jobs : List (Nat × KnitJob) := []
  /-- The latest TE_VERIFY record: code, function and offset (R46). -/
  verify : Option (Nat × Nat × Nat) := none
  /-- Ticks of the cycle in progress. -/
  acc : Nat := 0
  /-- DVFS: requested and current point, the point the power cap holds it to, thermal limit, relock in progress (R479,
  R480). -/
  req : Nat := 0
  cur : Nat := 0
  limit : Nat := 0
  therm : Bool := false
  relock : Bool := false
  seq : Nat := 0
  deriving DecidableEq, Repr

end Sys2Proof.Machine
end

