-- ==== Sys2Proof/Machine/Hub.lean ====
section
/-! DEFINITION. The module-wide engines on the hub: launch walker, page engine, fabric, chain and trace registers,
bring-up, power and the security processor. Plain data; each field's default is its reset value. -/
namespace Sys2Proof.Machine

/-! ### Launch walker (spec/03_launch_walker.md) -/

/-- A launch queue's registers (Table 3.1) and its place in the round robin of R90. -/
structure LaunchQueue where
  base : BitVec 64 := 0
  en : Bool := false
  log2n : BitVec 4 := 0
  fn : BitVec 4 := 0
  asid : BitVec 16 := 0
  tail : BitVec 32 := 0
  head : BitVec 32 := 0
  overrun : Bool := false
  ringFault : Bool := false
  lastReason : BitVec 8 := 0
  deriving DecidableEq, Repr

/-- A launch record (Table 3.2), its fields taken apart. -/
structure LaunchRec where
  id : Nat := 0
  flags : Nat := 0
  hash : Nat := 0
  code : Nat := 0
  const : Nat := 0
  completion : Nat := 0
  ctlEntry : Nat := 0
  grpEntry : Nat := 0xFFFF
  ext : List Nat := []
  order : List Nat := []
  depth : Nat := 1
  groups : Nat := 0
  priority : Nat := 0
  cls : Nat := 0
  budget : Nat := 0
  tokens : List Nat := [0, 0, 0]
  phases : Nat := 0
  localBytes : Nat := 0
  l1Bytes : Nat := 0
  w : Nat := 1
  h : Nat := 1
  dieMask : Nat := 0
  ring : Nat := 0
  plan : List (Nat × Nat) := []
  wiring : List (Nat × Nat × Nat) := []
  sailId : Nat := 0
  sailGeom : Nat := 0
  sailPanels : Nat := 0
  waitCc : Nat := 0xFFFF
  signalCc : Nat := 0xFFFF
  ringBase : Nat := 0
  saveBase : Nat := 0
  saveSlots : Nat := 0
  deriving DecidableEq, Repr

/-- A team saved in a save slot (R101). The layout of a slot's bytes is not stated; log entry 12. -/
structure SavedTeam where
  member : Nat
  /-- Identifier of the die it ran on (R102). -/
  ident : Nat
  team : Team
  split : Split
  /-- The slot of the launch's save area that holds the core's pool and tiles (R101; log entry 12). -/
  slot : Nat
  /-- Its instructions parked on faults. -/
  accs : List Acc
  deriving DecidableEq, Repr

/-- A cluster barrier (R118): its generation, the members that have arrived, the dies whose half is complete, those that
have received the other half's message, and the latest arrival's reference and slack. -/
structure ClusterBar where
  gen : BitVec 32 := 0
  teams : List Nat := []
  halves : List Nat := []
  heard : List Nat := []
  last : Option (Nat × Nat) := none
  deriving DecidableEq, Repr

/-- Where a cluster stands: waiting with a save slot, or on its cores in the order of $teamid. -/
structure Cluster where
  key : Nat
  launch : Nat
  number : Nat
  /-- Cores in the order of $teamid; empty while saved. -/
  cores : List CoreRef
  /-- Members not yet retired. -/
  live : List Nat
  straddles : Bool := false
  bars : List ClusterBar := List.replicate 4 {}
  /-- Pre-emption in progress, the save slots taken for it, and the teams saved so far. -/
  preempting : Bool := false
  slots : List Nat := []
  /-- The launch whose wait of 1 ms asked for the pre-emption (R99); none for LW_PREEMPT. -/
  waiter : Option Nat := none
  saved : List SavedTeam := []
  /-- Dies of the teams, by member, for R209 while saved. -/
  dies : List Nat := []
  placedAt : Nat := 0
  deriving DecidableEq, Repr

/-- A launch the walker holds (R77, R94). -/
structure Launch where
  key : Nat
  queue : Nat
  record : LaunchRec
  asid : Nat
  copyTime : Nat := 0
  firstPlaced : Nat := 0
  /-- Next cluster to place, and the die after the last placement. -/
  next : Nat := 0
  cursor : Nat := 0
  retired : Nat := 0
  preempts : Nat := 0
  /-- The code with which its job ends, once the engines of its teams have stopped (R131, R331). -/
  status : Option Nat := none
  /-- $time since which it has been eligible without placing a cluster (R99). -/
  waitFrom : Option Nat := none
  /-- Budget in use (R83). -/
  budget : Nat := 8
  deriving DecidableEq, Repr

/-- A completion counter (Table 3.5). -/
structure Counter where
  idx : Nat
  count : BitVec 31 := 0
  err : Bool := false
  target : BitVec 32 := 0
  deriving DecidableEq, Repr

/-- The launch walker. -/
structure Walker where
  queues : List LaunchQueue := List.replicate 64 {}
  launches : List Launch := []
  clusters : List Cluster := []
  nextKey : Nat := 0
  /-- Counters that are not at their reset value. -/
  counters : List Counter := []
  /-- Counters that the physical function's driver has assigned to a virtual function (R76). -/
  assigned : List (Nat × Nat) := []
  /-- Queue whose turn is next, per priority (R90). -/
  rr : List Nat := List.replicate 8 0
  deriving DecidableEq, Repr

/-! ### Page engine (spec/12_page_engine.md) -/

/-- Who waits for a page (R339): an access; a copy command's chunk; a knitter; or a stream that reads a record, named by its
cluster, its team's $teamid and its index. None of these names changes when a team is pre-empted (R343). -/
inductive Requester where
  | stream (acc : Nat)
  | copy (cmd queue chunk : Nat)
  | knit (die row : Nat)
  | record (cluster member idx : Nat)
  deriving DecidableEq, Repr

/-- A fault: one 64 KiB block of one address space missed by one requester (R339). -/
structure PageFault where
  asid : Nat
  block : Nat
  kinds : Nat
  who : Requester
  time : Nat
  deriving DecidableEq, Repr

/-- A batch of faults of a die (R340): open, closed, or written with its ranges. -/
structure Batch where
  die : Nat
  number : BitVec 16 := 0
  faults : List PageFault := []
  closed : Bool := false
  written : Bool := false
  /-- Ring index of its first record once written, and the records' ranges: first block, blocks, address space. -/
  ring : Nat := 0
  ranges : List (Nat × Nat × Nat) := []
  /-- $time at which it opened, and once it is written, at which it was. -/
  start : Nat := 0
  deriving DecidableEq, Repr

/-- A command of PG_CMD in progress (R344 to R346). -/
structure PageCmd where
  op : Nat
  asid : Nat
  va : Nat
  pages : Nat
  target : Nat := 0
  recAddr : Nat
  /-- Leaves still to do: virtual address and physical place of the entry. -/
  todo : List (Nat × Nat) := []
  /-- Accesses and copy chunks (command and number) accepted under the old entries, which the command waits for
  (R345). -/
  waitFor : List Nat := []
  chunks : List (Nat × Nat) := []
  deriving DecidableEq, Repr

/-- The page engine (Table 12.4). -/
structure PageEngine where
  ctx : BitVec 64 := 0
  fqBase : BitVec 64 := 0
  log2n : BitVec 4 := 0
  en : Bool := false
  tail : BitVec 32 := 0
  head : BitVec 32 := 0
  cmd : Option PageCmd := none
  status : BitVec 8 := 0
  free : List (BitVec 9) := List.replicate 6 256
  batches : List Batch := []
  nextBatch : List (BitVec 16) := List.replicate 6 0
  deriving DecidableEq, Repr

/-! ### Sail controller, fabric (spec/13_sail_engine.md, spec/14_fabric_engine.md) -/

/-- An SL_CMD resail in progress (R363). -/
structure Resail where
  asid : Nat
  sail : Nat
  recAddr : Nat
  todo : List (Nat × Nat)
  deriving DecidableEq, Repr

/-- The sail controller's registers (Table 13.7). -/
structure SailRegs where
  pasid : List (BitVec 16 × Bool) := List.replicate 8 (0, false)
  busy : Bool := false
  status : BitVec 8 := 0
  faild : BitVec 6 := 0
  /-- Changes accepted so far, and what sail.query gave at the last cycle's end for the sails changed since: the number of a
  sail, a die, and the word (R359). -/
  changes : Nat := 0
  before : List (Nat × Nat × Nat) := []
  resail : Option Resail := none
  deriving DecidableEq, Repr

/-- How the response to an atomic comes back from its place, or the acknowledgement of a chunk of cp.red (R252, R253, R255):
good; failing its check so that no replay recovers it; or not at all. -/
inductive Reply where
  | good | bad | lost
  deriving DecidableEq, Repr

/-- The fabric registers (Table 14.4) and the ports. -/
structure Fabric where
  devid : BitVec 12 := 0
  timeout : BitVec 16 := 200
  hubInc : BitVec 8 := 0
  minc : BitVec 8 := 0
  resetBusy : Bool := false
  resetDie : BitVec 3 := 0
  route : BitVec 64 := 0
  pacl : BitVec 64 := 0
  ports : List Port := List.replicate 12 {}
  /-- What the access lists of peer modules refuse this module: a device id, and a bit each for reads, writes and atomics
  (R387); the outside world sets it (log entry 28). -/
  refused : List (Nat × BitVec 3) := []
  /-- Atomics of peer modules that wait at their places (R252). -/
  waiting : List (BitVec 12 × BitVec 64 × PeerOp) := []
  /-- Responses on their way that do not come back good: the access and the lane, or the copy command and the chunk; the
  outside world names them (R253, R255; log entry 14). -/
  replies : List ((Nat × Nat) × Reply) := []
  msgs : List Msg := []
  nextRound : Nat := 0
  /-- AtomicOp capability and ATS enabled by the host (R250, R390); log entry 20. -/
  atomicOps : Bool := false
  ats : Bool := false
  /-- The translation cache of 2,048 entries (Table 14.3): untranslated and translated 4 KiB pages, oldest first; and the
  invalidations so far. -/
  atsCache : List (Nat × Nat) := []
  atsGen : Nat := 0
  deriving DecidableEq, Repr

/-- The knitter's registers (Table 16.5). -/
structure KnitRegs where
  hash : BitVec 64 := 0
  evicted : BitVec 16 := 0
  deriving DecidableEq, Repr

/-! ### Chain recorder, trace and sampling (spec/17_chain_recorder.md, spec/18_trace_sampling_debug.md) -/

/-- The chain recorder's registers (Table 17.8). -/
structure ChainRegs where
  ctx : BitVec 64 := 0
  drop : BitVec 32 := 0
  walk : BitVec 32 := 0
  deriving DecidableEq, Repr

/-- A partition's counter page (R467, R468): entries that are not zero, by index. -/
structure CounterPage where
  events : List (Nat × Nat) := []
  reasons : List (Nat × Nat) := []
  jobs : List (Nat × Nat) := []
  muxed : List (Nat × Nat) := []
  /-- Selector bytes, bank counting now and its elapsed cycles (R468). -/
  sel : List Byte := List.replicate 32 0
  bank : Nat := 0
  elapsed : Nat := 0
  deriving DecidableEq, Repr

/-- The trace and sampling registers (Table 18.4). -/
structure TraceRegs where
  ctx : BitVec 64 := 0
  sample : BitVec 28 := 65536
  kdbgAsid : BitVec 16 := 0
  kdbg : Bool := false
  lossWr : BitVec 31 := 0
  lossOvf : Bool := false
  lossRd : BitVec 31 := 0
  pages : List CounterPage := List.replicate 16 {}
  /-- The pages as they were at the end of each die's previous cycle (R469). -/
  seen : List (List CounterPage) := List.replicate 6 []
  /-- The timebase (R461): what PTP has added to the count from module reset, in ns; what is still to be let out, at half
  rate or slowly, and the nanoseconds counted toward it; the offset measured last; and lock. -/
  shift : Int := 0
  slew : Int := 0
  half : Bool := false
  slewAcc : Nat := 0
  offs : BitVec 31 := 0
  locked : Bool := false
  deriving DecidableEq, Repr

/-! ### Bring-up, power and security (spec/19_bringup_power_security.md) -/

/-- Bring-up and power registers (Tables 19.2 and 19.3). -/
structure Board where
  ready : Bool := false
  zeroed : Bool := false
  thermOff : Bool := false
  stage : BitVec 4 := 0
  err : BitVec 8 := 0
  dieOk : BitVec 6 := 0
  /-- Step of the power-on sequence in progress; 0 before power is good. -/
  step : Nat := 0
  /-- Boot configuration: zeroing asked for, and the device id it gives (R475, R478); log entry 10. -/
  bootZero : Bool := false
  bootDevid : Option (BitVec 12) := none
  pcap : BitVec 13 := 6000
  power : BitVec 13 := 0
  /-- The ten latest measurements, newest first; how many must pass before another die is lowered, and how many in a row had
  their mean below 95 per cent of the cap (R480). -/
  samples : List Nat := []
  cool : Nat := 0
  under : Nat := 0
  /-- Dies that have passed the steps so far, and module resets so far. -/
  passing : BitVec 6 := 0x3F
  resets : Nat := 0
  deriving DecidableEq, Repr

/-- The security processor (Table 19.5). -/
structure Security where
  done : Bool := false
  /-- The report being made: where it goes, and its nonce. -/
  job : Option (Nat × List Byte) := none
  err : BitVec 8 := 0
  unlocked : Bool := false
  fails : BitVec 2 := 0
  lockout : Bool := false
  repAddr : BitVec 64 := 0
  nonce : List Byte := List.replicate 32 0
  chal : List Byte := List.replicate 32 0
  unlock : List Byte := List.replicate 96 0
  /-- Fused (log entry 8). -/
  serial : BitVec 64 := 0
  certLen : BitVec 16 := 0
  cert : List Byte := []
  version : BitVec 8 := 0
  deriving DecidableEq, Repr

end Sys2Proof.Machine
end

