-- ==== Sys2Proof/Machine/State.lean ====
section
/-! DEFINITION. The state of the module, its faults and refusals, and the state after reset. -/
namespace Sys2Proof.Machine

/-- Why the machine stops with a fault. -/
inductive Fault where
  /-- The code bytes at a portable stream's place do not decode to an instruction. Raised by `step`; safe: verified
  code (R46) always decodes. -/
  | badCode
  deriving DecidableEq, Repr

/-- Why an instruction has no meaning in a state. -/
inductive Refusal where
  /-- The instruction has no meaning yet. Raised by `exec`'s arms only; safe. -/
  | notModelled (mnemonic : String)
  /-- An instruction of a stream was given to `exec` while no stream is current. Raised by the meanings of the
  instructions of the portable form; safe: `step` always names a stream first. -/
  | noStream
  deriving DecidableEq, Repr

/-- One entry of the agenda: ticks that pass, bytes the outside world writes to memory (flat address and bytes), and
then a device step (log entries 3, 5 and 14). -/
structure Due where
  ticks : Nat := 0
  /-- Steps that pass once the ticks have; and while it is awaited, no device step happens but those the agenda names. -/
  steps : Nat := 0
  manual : Bool := false
  pokes : List (Nat × List Byte) := []
  /-- A module file whose tables the host driver hands to the knitters (R64; log entry 29). -/
  load : Option (List Byte) := none
  /-- A panel, by die and number, whose tag or state array an uncorrectable error strikes (R367). -/
  strike : Option (Nat × Nat) := none
  /-- Frames left in a die's reserve, as the fault firmware counts them (R347), and what a peer module's access list refuses
  this module (R387): log entries 28 and 79. -/
  reserve : Option (Nat × BitVec 9) := none
  refused : Option (Nat × BitVec 3) := none
  /-- The response to a lane of an access, or to a chunk of a copy command, and how it comes back (R253, R255; log entry 14). -/
  reply : Option ((Nat × Nat) × Reply) := none
  /-- A completion counter, and the virtual function the driver assigns it to (R76; log entry 61). -/
  assign : Option (Nat × Nat) := none
  act : Option Instr := none
  deriving DecidableEq, Repr

/-- The state of the module. -/
structure State where
  /-- What the outside world does next (log entry 3). -/
  agenda : List Due := []
  /-- The stream whose instruction is being performed. -/
  cur : Option StreamRef := none
  /-- Counter of the free values (`Config.freeValue`). -/
  fresh : Nat := 0
  /-- Next number of an access or command. -/
  nextId : Nat := 1
  /-- How many of the device steps of this cycle have been tried (log entry 3). -/
  turn : Nat := 0
  /-- The device steps of this cycle have all been tried, and the streams issue. -/
  late : Bool := false
  /-- Ticks of 1/4752 of 10 ns since module reset (log entry 5). -/
  ticks : Nat := 0
  /-- Memory: flat address and byte, canonical. -/
  mem : List Host.Cell := []
  /-- First flat addresses of the poisoned granules (R34). -/
  poison : List Nat := []
  /-- HBM granules written whole since power-on, while HBM is not zeroed (R475). -/
  written : List Nat := []
  cores : List Core := []
  dies : List Die
  flights : List Acc := []
  onward : List Onward := []
  results : List ResultEntry := []
  sails : List Sail := []
  sailRegs : SailRegs := {}
  walker : Walker := {}
  pages : PageEngine := {}
  fabric : Fabric := {}
  knit : KnitRegs := {}
  /-- The module files whose tables the knitters hold (log entry 29). -/
  modules : List (List Byte) := []
  chain : ChainRegs := {}
  trace : TraceRegs := {}
  board : Board := {}
  security : Security := {}
  /-- Installed DDR-5 in bytes (log entry 9). -/
  ddrBytes : Nat := 2 ^ 42
  /-- Streams of a newly placed team run native bundles (log entry 4). -/
  nativeStart : Bool := false
  deriving DecidableEq, Repr

/-- Sail 0 as bring-up cuts it (R352). -/
def sailZero : Sail :=
  { id := 0, kind := 0, lineCode := 1, waysCode := 4, policy := 0, dies := 0x3F, xhome := 3,
    parts := (List.range 6).map fun d => { die := d, panels := (List.range 1024).map fun k => (d, 5120 + k) } }

/-- The dies after reset: C0 on dies 0, 1, 3 and 4, B1 on dies 2 and 5 (log entry 7). -/
def diesAtReset : List Die :=
  [0x00, 0x00, 0x11, 0x00, 0x00, 0x11].map fun i => { ident := i }

/-- The module right after reset: every register at the value its table gives (or the one a log entry names), memory
with nothing listed, no team, launch, message or sail. Power-good starts bring-up (R475). -/
def State.reset : State := { dies := diesAtReset }

end Sys2Proof.Machine
end

