-- ==== Sys2Proof/Machine/Base.lean ====
section
/-! DEFINITION. Reading and writing the parts of the state: cores, teams, streams, values and lanes. -/
namespace Sys2Proof.Machine

/-- The outcome of a step of this machine. -/
abbrev Out := Host.Outcome State Fault Refusal

/-! ### Lanes -/

/-- The lanes of a mask, in ascending order. -/
def lanesOf (m : BitVec 32) : List Nat := (List.range 32).filter fun l => m.getLsbD l

/-- The mask of the lanes below 32 that satisfy a test. -/
def maskOf (p : Nat → Bool) : BitVec 32 :=
  BitVec.ofNat 32 ((List.range 32).foldl (fun n l => if p l then n + 2 ^ l else n) 0)

/-- A mask of a list of lanes. -/
def maskOfList (ls : List Nat) : BitVec 32 := maskOf fun l => ls.contains l

/-! ### Lists with a key -/

/-- Replaces entry `n` of a list. -/
def setAt {α : Type} : List α → Nat → α → List α
  | [], _, _ => []
  | _ :: xs, 0, y => y :: xs
  | x :: xs, n + 1, y => x :: setAt xs n y

/-- Applies a function to entry `n`. -/
def modAt {α : Type} : List α → Nat → (α → α) → List α
  | [], _, _ => []
  | x :: xs, 0, f => f x :: xs
  | x :: xs, n + 1, f => x :: modAt xs n f

/-- Adds to the count kept under a key. -/
def addCount (k n : Nat) : List (Nat × Nat) → List (Nat × Nat)
  | [] => [(k, n)]
  | (j, m) :: xs => if j = k then (j, (m + n) % 2 ^ 64) :: xs else (j, m) :: addCount k n xs

/-- The count kept under a key, 0 where there is none. -/
def countOf (k : Nat) (xs : List (Nat × Nat)) : Nat := (xs.lookup k).getD 0

/-! ### Cores, teams, streams -/

/-- The core of a stream. -/
def coreOf (r : StreamRef) : CoreRef := ⟨r.die, r.core⟩

/-- A core as the state holds it; an unlisted core is empty. -/
def State.core (s : State) (c : CoreRef) : Core := (s.cores.find? fun k => k.at_ == c).getD { at_ := c }

/-- Order of cores: ascending die, then ascending number (R236, R258). -/
def coreBefore (a b : CoreRef) : Bool := decide (a.die < b.die) || (a.die == b.die && decide (a.core < b.core))

/-- Puts a core into a list of cores, which stays in their order. -/
def putCore (k : Core) : List Core → List Core
  | [] => [k]
  | x :: xs =>
    if x.at_ = k.at_ then k :: xs else if coreBefore k.at_ x.at_ then k :: x :: xs else x :: putCore k xs

def State.setCore (s : State) (k : Core) : State := { s with cores := putCore k s.cores }

def State.modCore (s : State) (c : CoreRef) (f : Core → Core) : State :=
  s.setCore { f (s.core c) with at_ := c }

def State.team? (s : State) (c : CoreRef) : Option Team := (s.core c).team

/-- Changes the team of a core, when it holds one. -/
def State.modTeam (s : State) (c : CoreRef) (f : Team → Team) : State :=
  match s.team? c with
  | some t => s.setCore { s.core c with team := some (f t) }
  | none => s

/-- A stream of a team: groups by their index, and the control stream as 32 (R16). -/
def Team.stream? (t : Team) (i : Nat) : Option Stream := if i = 32 then some t.control else t.groups[i]?

def Team.setStream (t : Team) (i : Nat) (st : Stream) : Team :=
  if i = 32 then { t with control := st } else { t with groups := setAt t.groups i st }

/-- The stream indices of a team in the order in which one cycle's happenings are taken: the control stream first, then
the groups in ascending index (R236). -/
def Team.order (t : Team) : List Nat := 32 :: List.range t.groups.length

def State.stream? (s : State) (r : StreamRef) : Option Stream := (s.team? (coreOf r)).bind fun t => t.stream? r.idx

/-- Changes a stream, when it exists. -/
def State.modStream (s : State) (r : StreamRef) (f : Stream → Stream) : State :=
  s.modTeam (coreOf r) fun t =>
    match t.stream? r.idx with
    | some st => t.setStream r.idx (f st)
    | none => t

def State.die (s : State) (d : Nat) : Die := (s.dies[d]?).getD { ident := 0 }

def State.modDie (s : State) (d : Nat) (f : Die → Die) : State := { s with dies := modAt s.dies d f }

/-- B-dies are those whose identifier has kind 1 (Table 1.2). -/
def Die.isB (d : Die) : Bool := d.ident / 16 == 1

/-- Lanes of a stream: 32 in a group, one in the control stream. -/
def laneCount (idx : Nat) : Nat := if idx = 32 then 1 else 32

/-! ### Values -/

def lookupLoc (l : Loc) (xs : List (Loc × TVal)) : Option TVal := (xs.find? fun x => x.1 == l).map Prod.snd

def putLoc (l : Loc) (v : TVal) : List (Loc × TVal) → List (Loc × TVal)
  | [] => [(l, v)]
  | x :: xs => if x.1 = l then (l, v) :: xs else x :: putLoc l v xs

/-- A value of the stream; what nothing has written reads as zero (03 R84, log entry 1). -/
def Stream.get (st : Stream) (l : Loc) : TVal := (lookupLoc l st.file).getD ⟨tI32, []⟩

/-- The word of one lane. -/
def TVal.lane (v : TVal) (l : Nat) : Nat := ((v.lanes[l]?).getD 0).toNat

/-- The marks of poisoned results when some lanes of a location are written: no read meets those any more, and their fault
is left for a wait on the AT path, rdv or end (R255). -/
def unmark (l : Loc) (m : BitVec 32) (ps : List PoisonMark) : List PoisonMark :=
  ps.map fun p => if p.loc = l then { p with covered := p.covered ||| m } else p

/-- Writes some lanes of a value; the other lanes keep theirs. -/
def Stream.put (st : Stream) (l : Loc) (m : BitVec 32) (v : TVal) : Stream :=
  let old := st.get l
  let n := Nat.max v.lanes.length old.lanes.length
  { st with poisoned := unmark l m st.poisoned, file := putLoc l ⟨v.ty, (List.range n).map fun k =>
      if m.getLsbD k then (v.lanes[k]?).getD 0 else (old.lanes[k]?).getD 0⟩ st.file }

/-! ### In-flight counters -/

/-- The six paths (Table 1.6): 0 LL, 1 GL, 2 ST, 3 AT, 4 CP, 5 MX. -/
def Stream.path (st : Stream) (p : Nat) : List InFlight :=
  match p with
  | 0 => st.ll
  | 1 => st.gl
  | 2 => st.st
  | 3 => st.att
  | 4 => st.cp
  | _ => st.mx

def Stream.setPath (st : Stream) (p : Nat) (q : List InFlight) : Stream :=
  match p with
  | 0 => { st with ll := q }
  | 1 => { st with gl := q }
  | 2 => { st with st := q }
  | 3 => { st with att := q }
  | 4 => { st with cp := q }
  | _ => { st with mx := q }

/-- A counter's value. -/
def Stream.count (st : Stream) (p : Nat) : Nat := (st.path p).length

/-- Raises a counter at issue. -/
def Stream.raise (st : Stream) (p id : Nat) : Stream := st.setPath p (st.path p ++ [{ id := id, done := false }])

/-- Drops the complete entries at the head: completions are counted in issue order (R27). -/
def settled : List InFlight → List InFlight
  | [] => []
  | x :: xs => if x.done then settled xs else x :: xs

/-- The completions counted when those entries are dropped, with the count each leaves. -/
def countedNow : List InFlight → List (Nat × Nat)
  | [] => []
  | x :: xs => if x.done then (xs.length, x.ref) :: countedNow xs else []

/-- Replaces the value kept under a key. -/
def putKey {κ α : Type} [DecidableEq κ] (k : κ) (v : α) (xs : List (κ × α)) : List (κ × α) :=
  (k, v) :: xs.filter fun x => x.1 != k

/-- Marks an entry complete, with the reference of its completion. -/
def Stream.lower (st : Stream) (p id ref : Nat) : Stream :=
  let q := (st.path p).map fun x => if x.id = id then { x with done := true, ref := ref } else x
  let st := st.setPath p (settled q)
  { st with reached := (countedNow q).foldl (fun r n => putKey (p, n.1) n.2 r) st.reached }

/-- The counter's value does not exceed 4,095 after one more (R27). -/
def Stream.hasRoom (st : Stream) (p : Nat) : Bool := st.count p < 4095

/-! ### What a team showed at the end of the previous cycle (R122, R123, R273) -/

/-- Counter `p` of a stream, the count of token FIFO `f`, and the records of a record stream. -/
def Shown.count (x : Shown) (idx p : Nat) : Nat :=
  (((x.counts[if idx = 32 then 0 else idx + 1]?).getD [])[if p < 5 then p else 5]?).getD 0
def Shown.token (x : Shown) (f : Nat) : Nat := (x.tokens[if f < 2 then f else 2]?).getD 0
def Shown.records (x : Shown) (k : Nat) : Nat := (x.recs[k]?).getD 0

/-- The generation of barrier `k`, and of cluster barrier `k`. -/
def Shown.barGen (x : Shown) (k : Nat) : BitVec 32 := ((x.bars[k]?).map Prod.snd).getD 0
def Shown.cbarGen (x : Shown) (k : Nat) : BitVec 32 := ((x.cbars[k]?).map fun b => b.2.2).getD 0

/-! ### Multiplexed counters (R467, R468) -/

def State.launch? (s : State) (key : Nat) : Option Launch := s.walker.launches.find? fun l => l.key == key

/-- The partition of a launch: its queue's function (R467). -/
def State.partOf (s : State) (key : Nat) : Nat :=
  match s.launch? key with
  | some l => ((s.walker.queues[l.queue]?).getD {}).fn.toNat
  | none => 0

/-- Adds to a multiplexed quantity of a partition (Table 18.6): the enabled selectors of the bank that counts now add
it to their count words. -/
def State.tally (s : State) (part q n : Nat) : State :=
  let add (p : CounterPage) : CounterPage :=
    { p with muxed := (List.range 8).foldl (fun m k =>
        let i := 8 * p.bank + k
        let b := ((p.sel[i]?).getD 0).toNat
        if b / 128 = 1 ∧ b % 64 = q then addCount (2 * i) n m else m) p.muxed }
  { s with trace := { s.trace with pages := modAt s.trace.pages part add } }

/-- Adds to a multiplexed quantity of the partition of a core's team; what no team does is counted in partition 0 (log
entry 26). -/
def State.teamTally (s : State) (c : CoreRef) (q n : Nat) : State :=
  s.tally (((s.team? c).map fun t => s.partOf t.launch).getD 0) q n

/-- Blocks of 64 bytes among `n` bytes at an address: the unit of payloads (Table 18.6). -/
def payloadBlocks (a n : Nat) : Nat := if n = 0 then 0 else (a + n - 1) / 64 - a / 64 + 1

/-- Payload that travels between two dies, for a core's team: it is sent once over each bridge of its route (Table 18.6). -/
def State.bridgeTally (s : State) (c : CoreRef) (src dst blocks : Nat) : State :=
  s.teamTally c 55 (bridgesTo 6 src dst * blocks)

/-! ### Time and link references -/

/-- $time in nanoseconds (R461): 4752 ticks are 10 ns (log entry 5). -/
def State.now (s : State) : Nat := ((s.ticks * 10 / 4752 : Nat) + s.trace.shift).toNat % 2 ^ 64

/-- Nanoseconds of the module timebase since a reading of it: times given in ns, µs or s are measured so (R5). -/
def State.since (s : State) (t : Nat) : Nat := (s.now + (2 ^ 64 - t % 2 ^ 64)) % 2 ^ 64

/-- The fabric timeout in microseconds (R382). -/
def State.fabricUs (s : State) : Nat := Nat.max 10 s.fabric.timeout.toNat

/-- A link reference (Table 17.3) as a 16-byte number. -/
def linkRef (dev die core stream eng : Nat) (prev : Option Nat) (time : Nat) : Nat :=
  dev % 2 ^ 12 + die % 8 * 2 ^ 12 + 2 ^ 15 + core % 256 * 2 ^ 16 + stream % 64 * 2 ^ 24
    + (eng % 16 + (if prev.isSome then 128 else 0)) * 2 ^ 32 + prev.getD 0 % 2 ^ 24 * 2 ^ 40 + time % 2 ^ 64 * 2 ^ 64

/-- The time of a reference. -/
def linkTime (ref : Nat) : Nat := ref / 2 ^ 64 % 2 ^ 64

/-- A pop of an engine waited for its token, which was pushed after the command had reached the head of its queue (Table
18.6). -/
def State.popTally (s : State) (c : CoreRef) (head : Nat) (token : Option Nat) : State :=
  if token.any fun r => decide (head < linkTime r) then s.teamTally c 48 1 else s

end Sys2Proof.Machine
end

