-- ==== Sys2Proof/Machine/Memory.lean ====
section
/-! DEFINITION. Memory: the flat addresses of every place that holds bytes, reading and writing them in canonical form,
poison marks, and the HBM that nothing has written (R34, R301, R475). -/
namespace Sys2Proof.Machine

/-! ### Flat addresses: a tag and 64 bits of offset -/

/-- HBM of die `d`. -/
def flatHbm (d off : Nat) : Nat := d * 2 ^ 64 + off
/-- The DDR-5 tier. -/
def flatDdr (off : Nat) : Nat := 6 * 2 ^ 64 + off
/-- Host memory. -/
def flatHost (off : Nat) : Nat := 7 * 2 ^ 64 + off
/-- The memory of peer device `p`. -/
def flatPeer (p off : Nat) : Nat := (8 + p) * 2 ^ 64 + off
/-- The pool of a core (R82). -/
def flatPool (c : CoreRef) (off : Nat) : Nat := (5000 + 160 * c.die + c.core) * 2 ^ 64 + off
/-- A byte of a core's local memory, by its local offset (R82). -/
def State.flatLocal (s : State) (c : CoreRef) (off : Nat) : Nat := flatPool c ((s.core c).split.localBase + off)
/-- The accumulator store of a core: tile, row and column of an f32 element (R301). -/
def flatTile (c : CoreRef) (off : Nat) : Nat := (6000 + 160 * c.die + c.core) * 2 ^ 64 + off
/-- The hub's SRAM (R472). -/
def flatHub (off : Nat) : Nat := 7000 * 2 ^ 64 + off

/-- The tag of a flat address. -/
def flatTag (a : Nat) : Nat := a / 2 ^ 64
/-- The address is in HBM. -/
def isHbm (a : Nat) : Bool := flatTag a < 6
/-- The address is in host memory. -/
def isHost (a : Nat) : Bool := flatTag a == 7
/-- The address is in a peer module. -/
def isPeer (a : Nat) : Bool := 8 ≤ flatTag a && flatTag a < 4104

/-- The granule of a byte: 8 aligned bytes, or one f32 element of a tile (R34). -/
def granuleBytes (a : Nat) : Nat := if 6000 ≤ flatTag a ∧ flatTag a < 7000 then 4 else 8
def granuleOf (a : Nat) : Nat := a - a % granuleBytes a

/-! ### Bytes -/

/-- What an address the list does not name reads as (log entry 1). -/
def unlisted : Byte := 0

/-- The byte at an address of a canonical memory. -/
def memRead : List Host.Cell → Nat → Byte
  | [], _ => unlisted
  | c :: m, a => if c.1 = a then c.2 else if a < c.1 then unlisted else memRead m a

/-- Writes a byte, keeping the form: addresses rising, no entry equal to what an unlisted address reads as. -/
def memWrite : List Host.Cell → Nat → Byte → List Host.Cell
  | [], a, b => if b = unlisted then [] else [(a, b)]
  | c :: m, a, b =>
    if c.1 < a then c :: memWrite m a b
    else if c.1 = a then (if b = unlisted then m else (a, b) :: m)
    else if b = unlisted then c :: m else (a, b) :: c :: m

/-- The canonical form: every entry above `lo` (none when the bound is absent), rising, and none unlisted's value. -/
def memWfFrom : Option Nat → List Host.Cell → Bool
  | _, [] => true
  | lo, c :: m => (match lo with
      | some b => decide (b < c.1)
      | none => true) && (c.2 != unlisted) && memWfFrom (some c.1) m

/-- The canonical form of a memory. -/
def Memory.wf (m : List Host.Cell) : Bool := memWfFrom none m

/-- Adds a number to a rising list. -/
def setInsert (a : Nat) : List Nat → List Nat
  | [] => [a]
  | x :: xs => if x < a then x :: setInsert a xs else if x = a then x :: xs else a :: x :: xs

/-- Removes a number. -/
def setRemove (a : Nat) (xs : List Nat) : List Nat := xs.filter fun x => x != a

/-- A granule of HBM that nothing has written since power-on, without zeroing (R475). -/
def State.isFresh (s : State) (a : Nat) : Bool :=
  isHbm a && !s.board.zeroed && !s.written.contains (granuleOf a)

/-- The byte that stands at a flat address. -/
def State.byteAt (s : State) (a : Nat) : Byte :=
  if s.isFresh a then BitVec.ofNat 8 (Config.residue s.board.resets (granuleOf a) / 2 ^ (8 * (a % 8)))
  else memRead s.mem a

/-- The granule of an address is poisoned, or holds no valid check. -/
def State.poisoned (s : State) (a : Nat) : Bool :=
  if s.isFresh a then Config.residue s.board.resets (granuleOf a) / 2 ^ 64 % 2 == 1
  else s.poison.contains (granuleOf a)

/-- Memory location code of a flat address (R336). -/
def locOf (flat : Nat) : Nat :=
  if isHbm flat then 0 else if isHost flat then 2 else if isPeer flat then 3 else 1

def State.bytesAt (s : State) (a n : Nat) : List Byte := (List.range n).map fun k => s.byteAt (a + k)

def memWrites : List Host.Cell → Nat → List Byte → List Host.Cell
  | m, _, [] => m
  | m, a, b :: bs => memWrites (memWrite m a b) (a + 1) bs

/-- Settles a granule of unwritten HBM before part of it is written: its bytes become what they are, poisoned where the
old check fails (R475, R34). -/
def State.settle (s : State) (a : Nat) : State :=
  if s.isFresh a then
    let g := granuleOf a
    let x := Config.residue s.board.resets g
    { s with
      mem := memWrites s.mem g ((List.range 8).map fun k => BitVec.ofNat 8 (x / 2 ^ (8 * k)))
      written := setInsert g s.written
      poison := if x / 2 ^ 64 % 2 = 1 then setInsert g s.poison else s.poison }
  else s

/-- Whether bytes `[a, a + n)` cover the whole granule of `x`. -/
def covers (a n x : Nat) : Bool := a ≤ granuleOf x && granuleOf x + granuleBytes x ≤ a + n

/-- The granules that bytes `[a, a + n)` touch. -/
def granulesOf (a : Nat) (n : Nat) : List Nat :=
  if n = 0 then [] else
  let g := granuleBytes a
  (List.range ((a + n - 1) / g - a / g + 1)).map fun k => granuleOf a + g * k

/-- A granule covered whole becomes valid and clean, and poisoned again when the new data is; one covered in part keeps
its poison (R34). -/
def State.mark (s : State) (a n : Nat) (bad : Bool) (g : Nat) : State :=
  if covers a n g then
    { s with
      written := if isHbm g && !s.board.zeroed then setInsert g s.written else s.written
      poison := if bad then setInsert g s.poison else setRemove g s.poison }
  else
    let s := s.settle g
    if bad then { s with poison := setInsert g s.poison } else s

/-- Writes bytes at a flat address, with the checks of R34; `bad` writes them poisoned. -/
def State.writeBytes (s : State) (a : Nat) (bs : List Byte) (bad : Bool := false) : State :=
  let s := (granulesOf a bs.length).foldl (fun s g => s.mark a bs.length bad g) s
  { s with mem := memWrites s.mem a bs }

/-- Some granule of bytes `[a, a + n)` is poisoned. -/
def State.anyPoison (s : State) (a n : Nat) : Bool := (granulesOf a n).any s.poisoned

/-! ### Little-endian numbers -/

/-- The number whose little-endian bytes these are. -/
def ofBytes : List Byte → Nat
  | [] => 0
  | b :: bs => b.toNat + 256 * ofBytes bs

/-- The number in bytes `k` to `k + n − 1` of a record. -/
def fieldAt (bs : List Byte) (k n : Nat) : Nat := ofBytes ((bs.drop k).take n)

/-- The `n` little-endian bytes of a number. -/
def toBytes : Nat → Nat → List Byte
  | 0, _ => []
  | n + 1, x => BitVec.ofNat 8 x :: toBytes n (x / 256)

/-- A number of `n` bytes at a flat address. -/
def State.natAt (s : State) (a n : Nat) : Nat := ofBytes (s.bytesAt a n)

end Sys2Proof.Machine
end

