-- ==== Sys2Proof/Machine/Translate.lean ====
section
/-! DEFINITION. Address translation: table entries, the walk, and the translation caches (spec/12_page_engine.md, R335
to R338). -/
namespace Sys2Proof.Machine

/-- Bits `[hi:lo]` of a number. -/
def bits (x hi lo : Nat) : Nat := x / 2 ^ lo % 2 ^ (hi + 1 - lo)

/-- HBM capacity of a die: 96 GiB on a C-die, 48 GiB on a B-die (R337). -/
def State.hbmBytes (s : State) (d : Nat) : Nat := if (s.die d).isB then 48 * 2 ^ 30 else 96 * 2 ^ 30

/-- Virtual-address bits below the block that an entry of a level maps (Table 12.1). -/
def levelShift : Nat → Nat
  | 0 => 36
  | 1 => 30
  | 2 => 21
  | _ => 16

/-- Entries of a table of a level (Table 12.1). -/
def levelEntries : Nat → Nat
  | 0 => 1048576
  | 1 => 64
  | 2 => 512
  | _ => 32

/-- Index of a virtual address at a level. -/
def levelIndex (l va : Nat) : Nat := va % 2 ^ 56 / 2 ^ levelShift l % levelEntries l

/-- Fields of a leaf entry (Table 12.2). -/
def entryV (e : Nat) : Bool := e % 2 == 1
def entryLeaf (e : Nat) : Bool := e / 2 % 2 == 1
def leafRd (e : Nat) : Bool := e / 4 % 2 == 1
def leafWr (e : Nat) : Bool := e / 8 % 2 == 1
def leafEx (e : Nat) : Bool := e / 16 % 2 == 1
def leafPin (e : Nat) : Bool := e / 32 % 2 == 1
def leafMov (e : Nat) : Bool := e / 64 % 2 == 1
def leafRoh (e : Nat) : Bool := e / 128 % 2 == 1
def entryLoc (e : Nat) : Nat := bits e 10 8
def entryDie (e : Nat) : Nat := bits e 13 11
def leafSail (e : Nat) : Nat := bits e 23 16
/-- Physical address of a leaf's page within its memory. -/
def leafFrame (e : Nat) : Nat := if entryLoc e = 3 then bits e 51 24 * 2 ^ 16 else bits e 63 24 * 2 ^ 16
/-- Peer device of a LOC 3 leaf. -/
def leafPeer (e : Nat) : Nat := bits e 63 52

/-- The flat address of a leaf's page. -/
def leafFlat (e : Nat) : Nat :=
  match entryLoc e with
  | 0 => flatHbm (entryDie e) (leafFrame e)
  | 1 => flatDdr (leafFrame e)
  | 2 => flatHost (leafFrame e)
  | _ => flatPeer (leafPeer e) (leafFrame e)

/-- The flat address of a virtual address under a leaf. -/
def Leaf.flat (f : Leaf) (va : Nat) : Nat :=
  match f.host with
  | some p => flatHost (4096 * p + va % 4096)
  | none => leafFlat f.entry + va % f.bytes

/-- A leaf is malformed (R337): level, entry. No part of its page lies at or above its memory's capacity (log entry
99). -/
def State.badLeaf (s : State) (l e : Nat) : Bool :=
  bits e 15 14 != 0 || 4 ≤ entryLoc e || 6 ≤ entryDie e || (entryLoc e != 0 && entryDie e != 0)
  || leafFrame e % 2 ^ levelShift l != 0
  || (entryLoc e == 0 && s.hbmBytes (entryDie e) < leafFrame e + 2 ^ levelShift l)
  || (entryLoc e == 1 && s.ddrBytes < leafFrame e + 2 ^ levelShift l)

/-- Physical address of the table a non-leaf entry points to. -/
def tableAddr (e : Nat) : Nat := bits e 63 16 * 2 ^ 8
def tableFlat (e : Nat) : Nat :=
  if entryLoc e = 0 then flatHbm (entryDie e) (tableAddr e) else flatDdr (tableAddr e)

/-- A non-leaf entry is malformed (R337); `n` is the size in bytes of what it points to. -/
def State.badTable (s : State) (n e : Nat) : Bool :=
  bits e 7 2 != 0 || bits e 15 14 != 0 || 2 ≤ entryLoc e || 6 ≤ entryDie e || (entryLoc e != 0 && entryDie e != 0)
  || (if entryLoc e = 0 then s.hbmBytes (entryDie e) < tableAddr e + n else s.ddrBytes < tableAddr e + n)

/-- What a walk finds. -/
inductive Walked where
  /-- A leaf, and where its entry stands. -/
  | leaf (f : Leaf) (entryAt : Nat)
  | missing
  | malformed
  /-- The host refuses the translation of a page of its memory (R390). -/
  | refused
  deriving DecidableEq, Repr

/-- The entry of a level for an address: a non-leaf entry the die's walker has cached, or memory's (R338). -/
def State.entryFor (s : State) (d asid va l table : Nat) : Nat :=
  match (s.die d).walker.find? fun w => w.asid == asid && w.level == l && w.idx == va % 2 ^ 56 / 2 ^ levelShift l with
  | some w => w.entry.toNat
  | none => s.natAt (table + 8 * levelIndex l va) 8

/-- Walks from the table of a level (R335) on a die; the first number bounds the four levels. The second result lists
the non-leaf entries the walk passed. -/
def State.walkFrom (s : State) (d asid va : Nat) : Nat → Nat → Nat → Walked × List WalkEntry
  | 0, _, _ => (.malformed, [])
  | fuel + 1, l, table =>
    let e := s.entryFor d asid va l table
    if !entryV e then (.missing, [])
    else if entryLeaf e then
      if s.badLeaf l e then (.malformed, [])
      else (.leaf ⟨e, va % 2 ^ 56 / 2 ^ levelShift l * 2 ^ levelShift l, 2 ^ levelShift l, none⟩
              (table + 8 * levelIndex l va), [])
    else if l = 3 || s.badTable (8 * levelEntries (l + 1)) e then (.malformed, [])
    else
      let r := s.walkFrom d asid va fuel (l + 1) (tableFlat e)
      (r.1, ⟨asid, l, va % 2 ^ 56 / 2 ^ levelShift l, BitVec.ofNat 64 e⟩ :: r.2)

/-- The root table of an address space, through the context table (Table 12.4); none where the address space is not
enabled (read as a missing translation; log entry 22). -/
def State.root (s : State) (asid : Nat) : Option (Option Nat) :=
  let c := s.pages.ctx.toNat
  if !entryV c then some none
  else if entryLeaf c || s.badTable (65536 * 16) c then none
  else
    let a := tableFlat c + 16 * (asid % 65536)
    let e := s.natAt a 8
    if s.natAt (a + 8) 1 % 2 = 0 || !entryV e then some none
    else if entryLeaf e || s.badTable (8 * levelEntries 0) e then none
    else some (some (tableFlat e))

/-- A walk by the walker of a die. -/
def State.walk (s : State) (d asid va : Nat) : Walked × List WalkEntry :=
  match s.root asid with
  | none => (.malformed, [])
  | some none => (.missing, [])
  | some (some t) => s.walkFrom d asid va 4 0 t

/-- A cached leaf of a core that maps an address (R338). -/
def Core.cached (c : Core) (asid va : Nat) : Option Leaf :=
  (c.tlb.find? fun e => e.asid == asid && e.base == va % 2 ^ 56 / e.bytes * e.bytes).map
    fun e => ⟨e.entry.toNat, e.base, e.bytes, none⟩

/-- Caches a leaf in a core: at most 256, the oldest leaving first (log entry 15); a leaf with MOV set is never
cached. -/
def Core.cache (c : Core) (asid : Nat) (f : Leaf) : Core :=
  if leafMov f.entry || (c.cached asid f.base).isSome then c
  else
    let e : TlbEntry := { asid := asid, base := f.base, bytes := f.bytes, entry := BitVec.ofNat 64 f.entry }
    { c with tlb := (c.tlb ++ [e]).drop (c.tlb.length + 1 - 256) }

/-- The leaf under which an address of host memory is reached when ATS is enabled: its 4 KiB page is translated by the
host, through the translation cache (R390). -/
def State.atsLeaf (s : State) (f : Leaf) (a va : Nat) : Walked × State :=
  if !s.fabric.ats || entryLoc f.entry != 2 then (.leaf f a, s)
  else
    let page := (leafFrame f.entry + va % f.bytes) / 4096
    let under (p : Nat) : Walked :=
      .leaf { f with base := va % 2 ^ 56 / 4096 * 4096, bytes := 4096, host := some p } a
    match s.fabric.atsCache.lookup page with
    | some p => (under p, s)
    | none =>
      match Config.hostPage s.fabric.atsGen page with
      | 0 => (.refused, s)
      | p + 1 =>
        let cache := (s.fabric.atsCache ++ [(page, p)]).drop (s.fabric.atsCache.length + 1 - 2048)
        (under p, { s with fabric := { s.fabric with atsCache := cache } })

/-- The translation a core uses before ATS: its cached leaf, or the walk's (R338); both caches are filled. -/
def State.translateDevice (s : State) (c : CoreRef) (asid va : Nat) : Walked × State :=
  match (s.core c).cached asid va with
  | some f => (.leaf f 0, s)
  | none =>
    let r := s.walk c.die asid va
    let s := s.modDie c.die fun d => { d with walker := d.walker ++ r.2.filter fun w => !d.walker.contains w }
    match r.1 with
    | .leaf f a => (.leaf f a, s.modCore c fun k => k.cache asid f)
    | w => (w, s)

/-- The translation a core uses (R338, R390). -/
def State.translate (s : State) (c : CoreRef) (asid va : Nat) : Walked × State :=
  match s.translateDevice c asid va with
  | (.leaf f a, s) => s.atsLeaf f a va
  | w => w

end Sys2Proof.Machine
end

