-- ==== Sys2Proof/Machine/Sails.lean ====
section
/-! DEFINITION. The caches on the path of a global access: L1, cluster sails, replicas and home sails; reading and
writing at each point (spec/07_load_store_engine.md R211, R212, R227 to R231; spec/13_sail_engine.md R353 to R356;
spec/14_fabric_engine.md R374). -/
namespace Sys2Proof.Machine

/-! ### Naming sails -/

/-- A home or replicated sail by its id, a cluster sail by its cluster. -/
inductive SailKey where
  | sys (id : Nat)
  | cluster (key : Nat)
  deriving DecidableEq, Repr

def Sail.key (x : Sail) : SailKey :=
  match x.cluster with
  | some c => .cluster c
  | none => .sys x.id

def State.sail? (s : State) (k : SailKey) : Option Sail := s.sails.find? fun x => x.key == k

def State.modSail (s : State) (k : SailKey) (f : Sail → Sail) : State :=
  { s with sails := s.sails.map fun x => if x.key = k then f x else x }

def Sail.lineBytes (x : Sail) : Nat := 64 * 2 ^ x.lineCode
def Sail.ways (x : Sail) : Nat := 2 ^ x.waysCode
/-- Sets of a panel (R356). -/
def Sail.setsPerPanel (x : Sail) : Nat := 65536 / (x.lineBytes * x.ways)

/-- The die of the part that serves a line homed on a die: a cluster sail has one part, named 255 (R354). -/
def Sail.partDie (x : Sail) (d : Nat) : Nat := if x.cluster.isSome then 255 else d

def Sail.part? (x : Sail) (d : Nat) : Option SailPart := x.parts.find? fun p => p.die == x.partDie d

def Sail.modPart (x : Sail) (d : Nat) (f : SailPart → SailPart) : Sail :=
  { x with parts := x.parts.map fun p => if p.die = x.partDie d then f p else p }

/-- The home die of a page's lines (R354). -/
def Sail.homeOf (x : Sail) (loc die : Nat) : Nat := if loc = 0 then die else x.xhome

/-- The policy a sail applies to a page: lines of host and peer pages are cached only under ro, and in no cluster sail
(R387, R390). 0 wb, 1 wt, 2 na, 3 ro. -/
def Sail.policyFor (x : Sail) (loc : Nat) : Nat :=
  if 2 ≤ loc ∧ (x.cluster.isSome ∨ x.policy ≠ 3) then 2 else x.policy

/-! ### Places of lines -/

/-- List entry and set of a line (R356), at the place where it is served now (Table 13.4). -/
def placeOf (x : Sail) (p : SailPart) (flat : Nat) : Nat × Nat :=
  let n := flat % 2 ^ 64 / x.lineBytes
  let q := x.setsPerPanel
  let old := n / q % Nat.max 1 p.panels.length
  let e := match p.phase with
    | .shaking | .reefing => if old < p.swept then n / q % Nat.max 1 p.next.length else old
    | .steady | .draining => old
  (e, n % q)

/-- The panel that stands at an entry of the list in force. -/
def panelAt (p : SailPart) (e : Nat) : Nat × Nat :=
  let list := match p.phase with
    | .shaking | .reefing => if p.panels.length ≤ p.next.length then p.next else p.panels
    | .steady | .draining => p.panels
  (list[e]?).getD (0, 0)

/-! ### The word of sail.query (Table 13.5) -/

/-- A number for a sail: ids, and from 1,000 on the clusters. -/
def SailKey.num : SailKey → Nat
  | .sys id => id
  | .cluster c => 1000 + c

/-- The panels of a part, those of a change in progress among them. -/
def SailPart.held (p : SailPart) : List (Nat × Nat) := p.panels ++ p.next

/-- The part of a sail is defined on a die: for a cluster sail, the die holds panels of its list. -/
def Sail.definedOn (x : Sail) (die : Nat) : Bool :=
  die < 6 && (match x.part? die with
    | some p => p.held.any fun q => q.1 == die
    | none => false)

/-- The state code of Table 13.5. -/
def SailPhase.code : SailPhase → Nat
  | .steady => 1
  | .shaking => 2
  | .reefing => 3
  | .draining => 4

/-- The word of Table 13.5 for a sail on a die; 0 where it is not defined. -/
def State.sailWord (s : State) (k : SailKey) (die : Nat) : Nat :=
  match s.sail? k with
  | none => 0
  | some x =>
    if !x.definedOn die then 0
    else match x.part? die with
      | none => 0
      | some p =>
        let here := ((if p.phase = .shaking then p.next else p.panels).filter fun q => q.1 == die)
        let fail := here.any fun q => (s.die q.1).failed.contains q.2
        here.length + 2 ^ 13 * p.phase.code + 2 ^ 16 * (if x.cluster.isSome then 2 else x.kind) + 2 ^ 18 * x.lineCode
          + 2 ^ 20 * x.waysCode + 2 ^ 23 * x.policy + 2 ^ 31 * fail.toNat

/-- Before a sail's first change in a cycle, its words are kept for the queries of the cycle (R359). -/
def State.noteSail (s : State) (k : SailKey) : State :=
  if s.sailRegs.before.any fun b => b.1 == k.num then s
  else { s with sailRegs := { s.sailRegs with
    before := (List.range 6).map (fun d => (k.num, d, s.sailWord k d)) ++ s.sailRegs.before } }

/-- Before a panel fails or a die is reset, the words of every sail are kept. -/
def State.noteSails (s : State) : State := (s.sails.map Sail.key).foldl State.noteSail s

/-- The word of a sail at the end of the previous cycle (R359). -/
def State.sailShown (s : State) (k : SailKey) (die : Nat) : Nat :=
  match s.sailRegs.before.find? fun b => b.1 == k.num && b.2.1 == die with
  | some b => b.2.2
  | none => s.sailWord k die

/-! ### Failed panels -/

/-- A panel becomes failed (R367): its lines are dropped without write-back, and SL_STATUS reports it. -/
def State.failPanel (s : State) (pl : Nat × Nat) : State :=
  let part (p : SailPart) : SailPart := { p with lines := p.lines.filter fun l => panelAt p l.entry != pl }
  let sails : List Sail := s.sails.map fun (x : Sail) => { x with parts := x.parts.map part }
  let s := { s.noteSails with
    sails := sails
    sailRegs := { s.noteSails.sailRegs with faild := s.sailRegs.faild ||| 1#6 <<< pl.1 } }
  s.modDie pl.1 fun d =>
    { d with failed := if d.failed.contains pl.2 then d.failed else d.failed ++ [pl.2], struck := d.struck.filter (· != pl.2) }

/-- What an access to a line meets at a sail on a die (Table 13.6): the cause of PANEL_FAULT and the panel; none where it is
served. -/
def State.sailFault (s : State) (k : SailKey) (die flat : Nat) : Option (Nat × (Nat × Nat)) :=
  match s.sail? k with
  | none => some (0, (die, 0))
  | some x =>
    match x.part? die with
    | none => some (0, (die, 0))
    | some p =>
      if p.phase = .draining ∨ p.panels = [] then some (0, (die, 0))
      else
        let pl := panelAt p (placeOf x p flat).1
        let d := s.die pl.1
        if d.failed.contains pl.2 then some (1, pl) else if d.struck.contains pl.2 then some (2, pl) else none

/-! ### Lines -/

/-- Bytes `[off, off + n)` are set in a mask of bytes. -/
def maskHas (m off n : Nat) : Bool := m / 2 ^ off % 2 ^ n == 2 ^ n - 1
/-- Sets bytes of a mask. -/
def maskSet (m off n : Nat) : Nat := m ||| (2 ^ n - 1) * 2 ^ off
/-- Clears bytes of a mask. -/
def maskClear (m off n : Nat) : Nat := m - (m &&& (2 ^ n - 1) * 2 ^ off)

/-- Replaces bytes from an offset. -/
def patch (data : List Byte) (off : Nat) (bs : List Byte) : List Byte :=
  data.take off ++ bs ++ data.drop (off + bs.length)

def SailPart.find? (p : SailPart) (line : Nat) : Option SailLine := p.lines.find? fun l => l.line == line

/-- Puts a line first in the recency order, in place of the line of the same number. -/
def SailPart.putFirst (p : SailPart) (l : SailLine) : SailPart :=
  { p with lines := l :: p.lines.filter fun m => m.line != l.line }

/-- A line that is present takes bytes, and is the most recently used (R356). -/
def SailPart.patchFirst (p : SailPart) (line off : Nat) (bs : List Byte) : SailPart :=
  match p.find? line with
  | some l => p.putFirst { l with data := patch l.data off bs }
  | none => p

def SailPart.drop (p : SailPart) (line : Nat) : SailPart :=
  { p with lines := p.lines.filter fun m => m.line != line }

/-- The least recently used line of a full set. -/
def SailPart.victim (x : Sail) (p : SailPart) (pl : Nat × Nat) : Option SailLine :=
  let here := p.lines.filter fun m => m.entry == pl.1 && m.set == pl.2
  if here.length < x.ways then none else here.getLast?

/-- Runs of the bytes a mask selects: offset and bytes. -/
def runsOf (mask : Nat) : Nat → List Byte → List (Nat × List Byte)
  | _, [] => []
  | off, b :: bs =>
    let rest := runsOf mask (off + 1) bs
    if mask / 2 ^ off % 2 = 1 then
      match rest with
      | (o, r) :: tail => if o = off + 1 then (off, b :: r) :: tail else (off, [b]) :: rest
      | [] => [(off, [b])]
    else rest

/-! ### Messages -/

/-- The current incarnation of a die; die 6 is the hub (R372). -/
def State.incOf (s : State) (d : Nat) : BitVec 8 := if d = 6 then s.fabric.hubInc else (s.die d).inc

/-- Sends a message on a channel, with the reference that travels with its line (R370, R450). -/
def State.send (s : State) (chan src dst : Nat) (b : Body) (ref : Option Nat := none) : State :=
  { s with fabric := { s.fabric with
      msgs := s.fabric.msgs ++ [{ chan := chan, src := src, dst := dst, at_ := src, inc := s.incOf src, body := b, ref := ref }] } }

/-! ### Routes -/

/-- What an access's path is made of: its core, the cluster when it has a sail, the page's sail, location, home die
and the read-only hint. -/
structure Route where
  core : CoreRef
  /-- The stream it is for. -/
  idx : Nat := 64
  cluster : Option Nat := none
  sail : Nat
  loc : Nat
  home : Nat
  roh : Bool := false
  deriving DecidableEq, Repr

/-- The cluster of a core's team, when it has a cluster sail. -/
def State.clusterSail (s : State) (c : CoreRef) : Option Nat :=
  match s.team? c with
  | some t => if (s.sail? (.cluster t.cluster)).isSome then some t.cluster else none
  | none => none

/-- The page's sail is replicated. -/
def State.isReplicated (s : State) (id : Nat) : Bool :=
  match s.sail? (.sys id) with
  | some x => x.kind == 1
  | none => false

/-- The route of an access by a core under a leaf. -/
def State.routeOf (s : State) (c : CoreRef) (e : Nat) : Route :=
  let id := leafSail e
  { core := c, cluster := s.clusterSail c, sail := id, loc := entryLoc e, roh := leafRoh e,
    home := match s.sail? (.sys id) with
      | some x => x.homeOf (entryLoc e) (entryDie e)
      | none => entryDie e }

/-! ### The home sail -/

/-- The quantity that payload read from or written to memory at a location adds to (Table 18.6): HBM, DDR-5, and what is sent on
the host link and on device links; 64 is none. -/
def memQuantity (loc : Nat) (write : Bool) : Nat :=
  match loc with
  | 0 => if write then 60 else 59
  | 1 => if write then 62 else 61
  | 2 => if write then 57 else 64
  | _ => if write then 56 else 64

/-- Payload read from or written to memory below a home, for a core's team. What is not HBM crosses the hub's bridge as well
(R12). -/
def State.memTally (s : State) (c : CoreRef) (home : Nat) (write : Bool) (flat n : Nat) : State :=
  let k := payloadBlocks flat n
  (s.teamTally c (memQuantity (locOf flat) write) k).bridgeTally c home 6 (if locOf flat = 0 then 0 else k)

/-- Writes bytes to memory as they stand, checks apart. -/
def State.rawWrite (s : State) (a : Nat) (bs : List Byte) : State := { s with mem := memWrites s.mem a bs }

/-- Marks the granules of a store (R34). -/
def State.markAll (s : State) (a n : Nat) (bad : Bool) : State :=
  (granulesOf a n).foldl (fun s g => s.mark a n bad g) s

/-- Writes the dirty bytes of a home sail's line to memory, for a core's team. -/
def State.writeBack (s : State) (x : Sail) (core : CoreRef) (home : Nat) (l : SailLine) : State :=
  (runsOf l.dirty 0 l.data).foldl (fun s r =>
    (s.rawWrite (l.line * x.lineBytes + r.1) r.2).memTally core home true (l.line * x.lineBytes + r.1) r.2.length) s

/-- Brings a line into a home sail's part, from memory, for a core's team; a full set writes its oldest line back. -/
def State.homeLine (s : State) (core : CoreRef) (id home flat : Nat) : State × Option SailLine :=
  match s.sail? (.sys id) with
  | none => (s, none)
  | some x =>
    match x.part? home with
    | none => (s, none)
    | some p =>
      let line := flat / x.lineBytes
      match p.find? line with
      | some l => ((s.teamTally core 29 1).modSail (.sys id) fun x => x.modPart home fun p => p.putFirst l, some l)
      | none =>
        let pl := placeOf x p flat
        let s := (s.teamTally core 30 1).memTally core home false (line * x.lineBytes) x.lineBytes
        let s := match p.victim x pl with
          | some v => (s.writeBack x core home v).modSail (.sys id) fun x => x.modPart home fun p => p.drop v.line
          | none => s
        let l : SailLine := { entry := pl.1, set := pl.2, line := line, valid := 2 ^ x.lineBytes - 1,
                              data := s.bytesAt (line * x.lineBytes) x.lineBytes }
        (s.modSail (.sys id) fun x => x.modPart home fun p => p.putFirst l, some l)

/-- Reads bytes of one 64-byte block at a page's home. -/
def State.homeRead (s : State) (r : Route) (flat n : Nat) : State × List Byte :=
  let s := s.bridgeTally r.core r.home r.core.die (payloadBlocks flat n)
  let direct : State × List Byte := (s.memTally r.core r.home false flat n, s.bytesAt flat n)
  match s.sail? (.sys r.sail) with
  | none => direct
  | some x =>
    if x.policyFor r.loc = 2 then direct
    else
      match s.homeLine r.core r.sail r.home flat with
      | (s, some l) => (s, (l.data.drop (flat % x.lineBytes)).take n)
      | (_, none) => direct

/-- Writes bytes of one 64-byte block at a page's home, under its policy (R356). -/
def State.homeWrite (s : State) (r : Route) (flat : Nat) (bs : List Byte) (bad : Bool) : State :=
  let s := (s.markAll flat bs.length bad).bridgeTally r.core r.core.die r.home (payloadBlocks flat bs.length)
  let direct (s : State) : State := (s.rawWrite flat bs).memTally r.core r.home true flat bs.length
  match s.sail? (.sys r.sail) with
  | none => direct s
  | some x =>
    let off := flat % x.lineBytes
    match x.policyFor r.loc with
    | 0 =>
      match s.homeLine r.core r.sail r.home flat with
      | (s, some l) =>
        let l := { l with data := patch l.data off bs, dirty := maskSet l.dirty off bs.length }
        s.modSail (.sys r.sail) fun x => x.modPart r.home fun p => p.putFirst l
      | (s, none) => direct s
    | _ =>
      let here := (x.part? r.home).any fun p => (p.find? (flat / x.lineBytes)).isSome
      let s := if here then s.teamTally r.core 29 1 else s
      (direct s).modSail (.sys r.sail) fun x => x.modPart r.home fun p => p.patchFirst (flat / x.lineBytes) off bs

/-! ### Sweeps (R361) -/

/-- The line's panel is being swept. -/
def SailPart.sweeps (x : Sail) (p : SailPart) (flat : Nat) : Bool :=
  p.sweeping && flat % 2 ^ 64 / x.lineBytes / x.setsPerPanel % Nat.max 1 p.panels.length == p.swept

/-- The line's panel of a sail on a die is being swept: an access there waits for the end of the sweep. -/
def State.sweptAt (s : State) (k : SailKey) (die flat : Nat) : Bool :=
  (s.sail? k).any fun x => (x.part? die).any fun p => p.sweeps x flat

/-! ### Replicas (R374) -/

/-- The core's die keeps a replica of the page's lines. -/
def State.usesReplica (s : State) (r : Route) : Bool :=
  match s.sail? (.sys r.sail) with
  | some x => x.kind == 1 && x.policyFor r.loc != 2 && r.core.die != r.home && (x.part? r.core.die).isSome
  | none => false

/-- What a read finds: bytes, or a wait for a fetch or for an OPEN. -/
inductive Found where
  | bytes (s : State) (bs : List Byte)
  | wait (s : State)

/-- A fetch of the line from this die is on its way, or waits at the home for a round. -/
def State.fetching (s : State) (id line die : Nat) : Bool :=
  (s.fabric.msgs.any fun m =>
    match m.body with
    | .fetch i l => i == id && l == line && m.src == die
    | .fetchResponse i l _ => i == id && l == line && m.dst == die
    | _ => false) ||
  (match s.sail? (.sys id) with
    | some x => x.rounds.any fun r => r.line == line && r.fetches.contains die
    | none => false)

/-- The home as a point: it keeps an access waiting during a sweep alone. -/
def homeFound (s : State) (r : Route) (flat n : Nat) : Found :=
  if s.sweptAt (.sys r.sail) r.home flat then .wait s
  else
    let q := s.homeRead r flat n
    .bytes q.1 q.2

/-- Reads a block at this die's replica, sending a fetch on a miss. -/
def State.dieRead (s : State) (r : Route) (flat n : Nat) : Found :=
  if s.usesReplica r then
    if s.sweptAt (.sys r.sail) r.core.die flat then .wait s else
    match s.sail? (.sys r.sail) with
    | none => .wait s
    | some x =>
      let line := flat / x.lineBytes
      match (x.part? r.core.die).bind fun p => p.find? line with
      | some l =>
        if l.hidden.isSome then .wait s
        else .bytes ((s.teamTally r.core 31 1).modSail (.sys r.sail) fun x => x.modPart r.core.die fun p => p.putFirst l)
              ((l.data.drop (flat % x.lineBytes)).take n)
      | none =>
        .wait (if s.fetching r.sail line r.core.die then s
               else ((s.teamTally r.core 32 1).bridgeTally r.core r.home r.core.die (x.lineBytes / 64)).send 0 r.core.die r.home
                 (.fetch r.sail line))
  else homeFound s r flat n

/-! ### References of lines (R450) -/

/-- A line of a sail takes the reference of a release that has written it. -/
def State.setLineRef (s : State) (k : SailKey) (die flat : Nat) (ref : Option Nat) : State :=
  if ref.isNone then s
  else s.modSail k fun x => x.modPart die fun p =>
    { p with lines := p.lines.map fun l => if l.line = flat / x.lineBytes then { l with ref := ref } else l }

/-- The reference of a line; none where the sail does not hold it. -/
def State.lineRef (s : State) (k : SailKey) (die flat : Nat) : Option Nat :=
  (s.sail? k).bind fun x => (x.part? die).bind fun p => (p.find? (flat / x.lineBytes)).bind SailLine.ref

/-- The later of two references of one line (log entry 115). -/
def laterRef (a b : Option Nat) : Option Nat :=
  match a, b with
  | some x, some y => if linkTime x < linkTime y then b else a
  | some _, none => a
  | none, _ => b

/-! ### Cluster sails -/

/-- Bytes that travel to a replicated page from a cache: an access of no stream. A cluster sail's travel as a .mca store
(R377), a core's with the bit of their store (R219). -/
def State.spawnWriteBack (s : State) (r : Route) (flat : Nat) (bs : List Byte) (ef : Bool := false) (bad : Bool := false)
    (stage : LaneStage := .sent) (link : Option Nat := none) : State :=
  { s with
    nextId := s.nextId + 1
    flights := s.flights ++ [{
      id := s.nextId, ref := ⟨r.core.die, r.core.core, 99⟩, asid := 0, kind := .store, scope := 3, ef := ef,
      size := bs.length, pos := ⟨0, 0⟩, wb := true, born := s.now, link := link,
      lanes := [{ lane := 0, va := 0, pa := flat, data := bs, sail := r.sail, loc := r.loc, home := r.home
                  poison := bad, stage := stage }] }] }

/-- Writes bytes at their home that have travelled there from a cache: the marks of their granules stand since the store
that wrote them (R34). -/
def State.homeReturn (s : State) (r : Route) (flat : Nat) (bs : List Byte) : State :=
  { s.homeWrite r flat bs false with poison := s.poison }

/-- Bytes travel from a cluster sail or a core to the home, and a release's reference with them (R356, R377, R450). -/
def State.pushHome (s : State) (r : Route) (flat : Nat) (bs : List Byte) (ef : Bool := false) (link : Option Nat := none) :
    State :=
  if s.isReplicated r.sail then s.spawnWriteBack r flat bs ef false .sent link
  else (s.homeReturn r flat bs).setLineRef (.sys r.sail) r.home flat link

/-- Writes the dirty bytes of a cluster sail's line onward, and with them its reference. -/
def State.pushLine (s : State) (x : Sail) (core : CoreRef) (l : SailLine) : State :=
  (runsOf l.dirty 0 l.data).foldl (fun s r =>
    s.pushHome { core := core, sail := l.homeSail, loc := 0, home := l.homeDie } (l.line * x.lineBytes + r.1) r.2 false l.ref) s

/-- A write-back of the line has not been acknowledged: the sail waits for it (R356). -/
def State.writingBack (s : State) (x : Sail) (flat : Nat) : Bool :=
  s.flights.any fun a => a.wb && a.lanes.any fun l => l.pa / x.lineBytes == flat / x.lineBytes

/-- Puts a line into a cluster sail; a full set writes its oldest line onward. -/
def State.clusterPut (s : State) (key : Nat) (core : CoreRef) (l : SailLine) : State :=
  match s.sail? (.cluster key) with
  | none => s
  | some x =>
    match x.part? 255 with
    | none => s
    | some p =>
      let s := match p.find? l.line, p.victim x (l.entry, l.set) with
        | none, some v =>
          (s.pushLine x core v).modSail (.cluster key) fun x => x.modPart 255 fun p => p.drop v.line
        | _, _ => s
      s.modSail (.cluster key) fun x => x.modPart 255 fun p => p.putFirst l

/-- Reads a whole line's bytes at the die, 64 bytes at a time. -/
def State.dieReadMany (s : State) (r : Route) (flat : Nat) : Nat → Found
  | 0 => .bytes s []
  | k + 1 =>
    match s.dieRead r flat 64 with
    | .wait s => .wait s
    | .bytes s bs =>
      match s.dieReadMany r (flat + 64) k with
      | .wait s => .wait s
      | .bytes s cs => .bytes s (bs ++ cs)

/-- The reference that a line has where `dieReadMany` reads it. -/
def State.dieRef (s : State) (r : Route) (flat : Nat) : Option Nat :=
  s.lineRef (.sys r.sail) (if s.usesReplica r then r.core.die else r.home) flat

/-- Reads a block at the cluster sail when one is bound; otherwise by `below`. -/
def State.clusterRead (s : State) (r : Route) (flat n : Nat) (below : State → Route → Nat → Nat → Found) : Found :=
  match r.cluster with
  | none => below s r flat n
  | some key =>
    match s.sail? (.cluster key) with
    | none => below s r flat n
    | some x =>
      if x.policyFor r.loc = 2 then below s r flat n
      else
        match x.part? 255 with
        | none => below s r flat n
        | some p =>
          let line := flat / x.lineBytes
          let off := flat % x.lineBytes
          if p.sweeps x flat then .wait s else
          match p.find? line with
          | some l =>
            if maskHas l.valid off n then
              .bytes ((s.teamTally r.core 27 1).modSail (.cluster key) fun x => x.modPart 255 fun p => p.putFirst l)
                ((l.data.drop off).take n)
            else
              match s.dieReadMany r (line * x.lineBytes) (x.lineBytes / 64) with
              | .wait s => .wait s
              | .bytes s bs =>
                let s := s.teamTally r.core 28 1
                let data := (List.range x.lineBytes).map fun k =>
                  if l.dirty / 2 ^ k % 2 = 1 then (l.data[k]?).getD 0 else (bs[k]?).getD 0
                let l := { l with data := data, valid := 2 ^ x.lineBytes - 1, ref := laterRef l.ref (s.dieRef r flat) }
                .bytes (s.clusterPut key r.core l) ((data.drop off).take n)
          | none =>
            if s.writingBack x flat then .wait s
            else
              match s.dieReadMany r (line * x.lineBytes) (x.lineBytes / 64) with
              | .wait s => .wait s
              | .bytes s bs =>
                let s := s.teamTally r.core 28 1
                let pl := placeOf x p flat
                let l : SailLine := { entry := pl.1, set := pl.2, line := line, valid := 2 ^ x.lineBytes - 1,
                                      data := bs, homeSail := r.sail, homeDie := r.home, ref := s.dieRef r flat }
                .bytes (s.clusterPut key r.core l) ((bs.drop off).take n)

/-- A store that misses in a cluster's sail on a line whose write-back has not performed yet waits for it (R356). -/
def State.clusterHeld (s : State) (key flat : Nat) : Bool :=
  match s.sail? (.cluster key) with
  | none => false
  | some x => s.writingBack x flat && !((x.part? 255).any fun p => (p.find? (flat / x.lineBytes)).isSome)

/-- A store, an atomic or a copy waits at a cluster's sail: for a write-back (R356), or for the sweep of the line's panel
(R361). -/
def State.clusterWaits (s : State) (key flat : Nat) : Bool :=
  s.clusterHeld key flat || s.sweptAt (.cluster key) 255 flat

/-- Stores to a block at the cluster sail (R356): under wb the bytes stay dirty there; under the other policies a
present line is updated and the bytes travel on. `link` is the reference of a release (R450). -/
def State.clusterWrite (s : State) (r : Route) (key flat : Nat) (bs : List Byte) (bad : Bool) (link : Option Nat := none) :
    State :=
  match s.sail? (.cluster key) with
  | none => s.pushHome r flat bs false link
  | some x =>
    let s := s.markAll flat bs.length bad
    match x.part? 255 with
    | none => s.pushHome r flat bs false link
    | some p =>
      let line := flat / x.lineBytes
      let s := if x.policyFor r.loc = 2 then s else s.teamTally r.core (if (p.find? line).isSome then 27 else 28) 1
      let off := flat % x.lineBytes
      if x.policyFor r.loc = 0 then
        let l : SailLine := (p.find? line).getD
          (let pl := placeOf x p flat
           { entry := pl.1, set := pl.2, line := line, valid := 0, data := List.replicate x.lineBytes 0,
             homeSail := r.sail, homeDie := r.home })
        s.clusterPut key r.core { l with
          data := patch l.data off bs, valid := maskSet l.valid off bs.length, dirty := maskSet l.dirty off bs.length
          ref := link.orElse fun _ => l.ref }
      else
        let s := s.modSail (.cluster key) fun x => x.modPart 255 fun p => p.patchFirst line off bs
        (s.setLineRef (.cluster key) 255 flat link).pushHome r flat bs false link

/-- A store of wider scope passes the cluster sail: a present line takes the bytes, clean, and the reference of a release
(R227, R450). -/
def State.clusterPass (s : State) (r : Route) (flat : Nat) (bs : List Byte) (link : Option Nat := none) : State :=
  match r.cluster with
  | none => s
  | some key => s.modSail (.cluster key) fun x => x.modPart 255 fun p =>
      { p with lines := p.lines.map fun l =>
          if l.line = flat / x.lineBytes then
            { l with data := patch l.data (flat % x.lineBytes) bs,
                     valid := maskSet l.valid (flat % x.lineBytes) bs.length,
                     dirty := maskClear l.dirty (flat % x.lineBytes) bs.length
                     ref := link.orElse fun _ => l.ref }
          else l }

/-- The line of a cluster's sail that holds an address. -/
def State.clusterLine (s : State) (key flat : Nat) : Option SailLine :=
  (s.sail? (.cluster key)).bind fun x => (x.part? 255).bind fun p => p.find? (flat / x.lineBytes)

/-- Changes the line of a cluster's sail that holds an address; `f` is given the address's offset there. -/
def State.modClusterLine (s : State) (key flat : Nat) (f : Nat → SailLine → SailLine) : State :=
  s.modSail (.cluster key) fun x => x.modPart 255 fun p =>
    { p with lines := p.lines.map fun l => if l.line = flat / x.lineBytes then f (flat % x.lineBytes) l else l }

/-- The bytes that are dirty in the core's cluster sail, over bytes read beyond it: they are newer (R229). -/
def State.clusterDirty (s : State) (r : Route) (flat : Nat) (bs : List Byte) : List Byte :=
  match r.cluster.bind fun k => (s.sail? (.cluster k)).bind fun x => (s.clusterLine k flat).map fun l => (x.lineBytes, l) with
  | none => bs
  | some (n, l) => (List.range bs.length).map fun k =>
      if l.dirty / 2 ^ (flat % n + k) % 2 = 1 then (l.data[flat % n + k]?).getD 0 else (bs[k]?).getD 0

/-- A cluster sail with bytes dirty among some of a replicated page writes their line onward, ahead of a store of wider scope
(R229, R377). -/
def State.pushDirty (s : State) (r : Route) (flat n : Nat) : State :=
  match r.cluster with
  | none => s
  | some k =>
    match s.sail? (.cluster k), s.clusterLine k flat with
    | some x, some l =>
      if l.dirty / 2 ^ (flat % x.lineBytes) % 2 ^ n = 0 then s
      else (s.pushLine x r.core l).modClusterLine k flat fun _ l => { l with dirty := 0 }
    | _, _ => s

/-- The bytes of a store that has performed beyond a cluster's sail, or that an atomic has read there: a line present takes
them, except where it is dirty (R228, R229, R248); `late` says that newer bytes of the cluster are on their way, and
the line is then read again. -/
def State.clusterSee (s : State) (key : Nat) (late : Bool) (flat : Nat) (bs : List Byte) : State :=
  s.modClusterLine key flat fun off l =>
    if late then { l with valid := maskClear l.valid off bs.length ||| l.dirty }
    else
      let new := bs.zipIdx.map fun b =>
        if l.dirty / 2 ^ (off + b.2) % 2 = 1 then (l.data[off + b.2]?).getD 0 else b.1
      { l with data := patch l.data off new, valid := maskSet l.valid off bs.length }

/-- Writes every dirty byte of a cluster's sail to the home sails, keeping the lines clean (R231). -/
def State.clusterFlush (s : State) (key : Nat) (core : CoreRef) : State :=
  match s.sail? (.cluster key) with
  | none => s
  | some x =>
    let lines := (x.parts.map fun p => p.lines).flatten
    let s := lines.foldl (fun s l => s.pushLine x core l) s
    s.modSail (.cluster key) fun x => x.modPart 255 fun p =>
      { p with lines := p.lines.map fun l => { l with dirty := 0 } }

/-- Drops the clean bytes of a cluster's sail; dirty bytes stay (R231). -/
def State.clusterRefresh (s : State) (key : Nat) : State :=
  s.modSail (.cluster key) fun x => x.modPart 255 fun p =>
    { p with lines := (p.lines.filter fun l => l.dirty != 0).map fun l => { l with valid := l.dirty } }

/-! ### L1 -/

/-- Lines of L1 are 128 bytes, in 4 ways of L1 bytes ÷ 512 sets (R211). -/
def Core.l1Sets (c : Core) : Nat := c.split.l1Bytes / 512

def Core.l1Find (c : Core) (flat : Nat) : Option L1Line := c.l1.find? fun l => l.line == flat / 128

/-- Puts a line first; the oldest of a full set leaves. -/
def Core.l1Put (c : Core) (l : L1Line) : Core :=
  let rest := c.l1.filter fun m => m.line != l.line
  let n := c.l1Sets
  if n = 0 then c
  else
    let mine := rest.filter fun m => m.line % n == l.line % n
    let rest := match mine[3]? with
      | some v => rest.filter fun m => m.line != v.line
      | none => rest
    { c with l1 := l :: rest }

/-- A store updates a present line (R211). -/
def Core.l1Update (c : Core) (flat : Nat) (bs : List Byte) : Core :=
  { c with l1 := c.l1.map fun l => if l.line = flat / 128 then { l with data := patch l.data (flat % 128) bs } else l }

/-- A line leaves. -/
def Core.l1Drop (c : Core) (flat : Nat) : Core := { c with l1 := c.l1.filter fun l => l.line != flat / 128 }

/-- Invalidates the lines not marked read-only, or every line. -/
def Core.l1Clear (c : Core) (all : Bool) : Core := { c with l1 := if all then [] else c.l1.filter fun l => l.ro }

/-- An acquire of a stream invalidates lines, and the fills of other streams in this cycle are not installed (R231,
R236). -/
def Core.l1Acquire (c : Core) (idx : Nat) (all : Bool) : Core :=
  let c := c.l1Clear all
  { c with l1 := c.l1.filter fun l => !(c.filled.any fun f => f.2 == l.line && f.1 != idx), dropped := some idx }

/-- A fill for a stream is installed, unless another's acquire has invalidated L1 in this cycle (R211, R236). -/
def Core.l1Fill (c : Core) (idx : Nat) (l : L1Line) : Core :=
  if c.dropped.any fun i => i != idx then c
  else
    let c := c.l1Put l
    { c with filled := (idx, l.line) :: c.filled }

/-- Bytes of a core's stores that have performed at the core and travel onward, over bytes read below them. -/
def State.overlay (s : State) (c : CoreRef) (flat : Nat) (bs : List Byte) : List Byte :=
  s.onward.foldl (fun bs o =>
    if o.core = c then
      (List.range bs.length).map fun k =>
        let a := flat + k
        if o.lane.pa ≤ a ∧ a < o.lane.pa + o.lane.data.length then (o.lane.data[a - o.lane.pa]?).getD 0
        else (bs[k]?).getD 0
    else bs) bs

/-- Reads `k` blocks of 64 bytes by a reader. -/
def readBlocks (read : State → Nat → Found) (s : State) (flat : Nat) : Nat → Found
  | 0 => .bytes s []
  | k + 1 =>
    match read s flat with
    | .wait s => .wait s
    | .bytes s bs =>
      match readBlocks read s (flat + 64) k with
      | .wait s => .wait s
      | .bytes s cs => .bytes s (bs ++ cs)

/-- Reads at the core: L1, filled on a miss. -/
def State.coreRead (s : State) (r : Route) (flat n : Nat) (ro : Bool) : Found :=
  match (s.core r.core).l1Find flat with
  | some l =>
    .bytes ((s.teamTally r.core 21 1).modCore r.core fun c => c.l1Put l)
      (s.overlay r.core flat ((l.data.drop (flat % 128)).take n))
  | none =>
    match readBlocks (fun s a => s.clusterRead r a 64 State.dieRead) s (flat / 128 * 128) 2 with
    | .wait s => .wait s
    | .bytes s bs =>
      let bs := s.overlay r.core (flat / 128 * 128) bs
      let l : L1Line := { line := flat / 128, data := bs, ro := ro || r.roh }
      .bytes ((s.teamTally r.core 22 1).modCore r.core fun c => c.l1Fill r.idx l) (s.overlay r.core flat ((bs.drop (flat % 128)).take n))

/-- What an access meets on its path to the point of a scope (R354, R362, R366): at the cluster's sail, at this die's
replica, at the home. -/
def State.pathFault (s : State) (r : Route) (scope flat : Nat) : Option (Nat × (Nat × Nat)) :=
  let near := if scope ≤ 1 then
      (match r.cluster.filter fun k => ((s.sail? (.cluster k)).map fun x => x.policyFor r.loc).getD 2 != 2 with
      | some k => s.sailFault (.cluster k) 255 flat
      | none => none)
    else none
  let here := if scope ≤ 2 && s.usesReplica r then s.sailFault (.sys r.sail) r.core.die flat else none
  (near.orElse fun _ => here).orElse fun _ => s.sailFault (.sys r.sail) r.home flat

/-- Reads a block at the point of a scope (R227, Table 1.7). -/
def State.pointRead (s : State) (r : Route) (scope flat n : Nat) (ro : Bool) : Found :=
  match scope with
  | 0 => s.coreRead r flat n ro
  | 1 => s.clusterRead r flat n homeFound
  | 2 => s.dieRead r flat n
  | _ => homeFound s r flat n

end Sys2Proof.Machine
end

