-- ==== Sys2Proof/Machine/Flight.lean ====
section
/-! DEFINITION. Accesses in flight: what orders them, binding loads and performing stores at their points, acquire,
release and fences (spec/07_load_store_engine.md R226 to R234; spec/14_fabric_engine.md R375 to R378). Ordering is kept
per instruction, between instructions that share a lane (log entry 23). -/
namespace Sys2Proof.Machine

/-! ### Kinds of access -/

def Acc.isLoad (a : Acc) : Bool := match a.kind with
  | .load => true
  | _ => false
def Acc.isStore (a : Acc) : Bool := match a.kind with
  | .store => true
  | _ => false
/-- An atomic or a reduction. -/
def Acc.isAtomic (a : Acc) : Bool := match a.kind with
  | .atomic .. => true
  | _ => false
def Acc.isFence (a : Acc) : Bool := match a.kind with
  | .fence _ => true
  | _ => false
def Acc.isPrefetch (a : Acc) : Bool := match a.kind with
  | .prefetch | .prefetchL1 => true
  | _ => false
/-- A reduction: no result (R240). -/
def Acc.isReduction (a : Acc) : Bool := match a.kind with
  | .atomic o .. => 0xA4 ≤ o
  | _ => false
/-- The counter path of an access (Table 1.6). -/
def Acc.pathOf (a : Acc) : Nat := match a.kind with
  | .load => if a.isLocal then 0 else 1
  | .prefetch | .prefetchL1 => 1
  | .store => 2
  | .atomic .. => 3
  | .fence _ => 6

def Acc.laneMask (a : Acc) : BitVec 32 := maskOfList (a.lanes.map AccLane.lane)

/-- The group and position in which a lane of an access stands now (R275). -/
def Acc.ownerOf (a : Acc) (l : AccLane) : Nat × Nat := l.owner.getD (a.ref.idx, l.lane)

/-- No lane of the access has been moved by regroup since its issue. -/
def Acc.unmoved (a : Acc) : Bool := a.lanes.all fun l => l.owner.isNone

/-- Two accesses of one core that share a lane. -/
def Acc.meets (o y : Acc) : Bool :=
  coreOf o.ref == coreOf y.ref &&
    (if o.unmoved && y.unmoved then o.ref.idx == y.ref.idx && (o.laneMask &&& y.laneMask) != 0
     else o.lanes.any fun l => y.lanes.any fun m => o.ownerOf l == y.ownerOf m)

/-- The lane's address has been translated. -/
def AccLane.placed (l : AccLane) : Bool := l.stage != .parked && l.stage != .mapped && l.stage != .denied

/-- One lane names a common byte in both. -/
def Acc.touches (o y : Acc) : Bool :=
  o.lanes.any fun l => y.lanes.any fun m =>
    o.ownerOf l == y.ownerOf m && l.placed && m.placed && decide (l.pa < m.pa + y.size)
      && decide (m.pa < l.pa + o.size)

/-- The class of an access is in a fence's mask (R234). -/
def inMask (mask : BitVec 16) (cls : Nat) : Bool := mask.getLsbD cls

/-- An older access, or fence, still in flight keeps a younger one of the same lanes from binding or performing: class
order (R230), coherence per byte (R229), acquire and release (R231), fences (R234), and an atomic as a load against
later accesses and a store against earlier ones (R247). -/
def Acc.blocks (o y : Acc) : Bool :=
  o.meets y &&
  match o.kind with
  | .prefetch | .prefetchL1 => false
  | .fence mask =>
    inMask mask y.cls && !y.isPrefetch && (o.acq || (o.rel && (y.isStore || y.isAtomic)))
  | .load | .atomic .. =>
    (!y.isPrefetch && o.cls == y.cls && (o.isLoad || !o.isReduction || y.isStore || y.isAtomic || y.rel))
      || (o.touches y && !y.isPrefetch)
  | .store =>
    (o.cls == y.cls && (y.isStore || y.isAtomic || y.rel)) || (o.touches y && (y.isStore || y.isAtomic))

/-- The accesses issued before one. -/
def olderThan (id : Nat) : List Acc → List Acc
  | [] => []
  | a :: rest => if a.id = id then [] else a :: olderThan id rest

/-- Nothing in flight keeps an access from its point. -/
def State.clear (s : State) (a : Acc) : Bool := !((olderThan a.id s.flights).any fun o => o.blocks a)

def State.acc? (s : State) (id : Nat) : Option Acc := s.flights.find? fun a => a.id == id

def State.modAcc (s : State) (id : Nat) (f : Acc → Acc) : State :=
  { s with flights := s.flights.map fun a => if a.id = id then f a else a }

def State.dropAcc (s : State) (id : Nat) : State := { s with flights := s.flights.filter fun a => a.id != id }

/-- The route of a lane. -/
def laneRoute (s : State) (a : Acc) (l : AccLane) : Route :=
  { core := coreOf a.ref, idx := a.ref.idx, cluster := if a.wb then none else s.clusterSail (coreOf a.ref), sail := l.sail, loc := l.loc,
    home := l.home, roh := l.roh }

/-! ### Write-backs on their way (R356, R377) -/

/-- A write-back of a core's or a cluster sail's bytes to a replicated page; a copy's bytes are of stream 98, a peer
module's of core 255. -/
def Acc.isReturn (a : Acc) : Bool := a.wb && a.ref.idx == 99 && a.ref.core != 255

/-- A lane that has not performed names a byte of `[flat, flat + n)`. -/
def Acc.owes (a : Acc) (flat n : Nat) : Bool :=
  a.lanes.any fun l => l.stage != .done && decide (l.pa < flat + n) && decide (flat < l.pa + l.data.length)

/-- A write-back to a block of 512 bytes is on its way: a load that misses there waits for it (R356). -/
def State.returning (s : State) (flat : Nat) : Bool := s.flights.any fun a => a.isReturn && a.owes (flat / 512 * 512) 512

/-- Newer bytes of the core's stores than one performed at the home are on their way (R229). -/
def State.laterBytes (s : State) (c : CoreRef) (flat n : Nat) : Bool :=
  (s.flights.any fun a => a.isReturn && a.owes flat n) ||
    s.onward.any fun o => o.core == c && decide (o.lane.pa < flat + n) && decide (flat < o.lane.pa + o.lane.data.length)

/-- A store has performed at the home, or an atomic has read there: the core's L1 and its cluster's sail hold nothing older
(R211, R228, R229); the line there takes the reference of a release (R450). -/
def State.seenBy (s : State) (c : CoreRef) (flat : Nat) (bs : List Byte) (link : Option Nat) : State :=
  let late := s.laterBytes c flat bs.length
  let s := s.modCore c fun k => if late then k.l1Drop flat else k.l1Update flat bs
  match s.clusterSail c with
  | some k => (s.clusterSee k late flat bs).setLineRef (.cluster k) 255 flat link
  | none => s

/-- What the cores near an access see once it has performed at the home of a replicated page; a copy bypasses L1. -/
def State.seenAfter (s : State) (a : Acc) (flat : Nat) (bs : List Byte) : State :=
  if a.isReturn then s
  else if a.wb then
    match s.clusterSail (coreOf a.ref) with
    | some k => s.clusterSee k (s.laterBytes (coreOf a.ref) flat bs.length) flat bs
    | none => s
  else s.seenBy (coreOf a.ref) flat bs a.link

/-- The bytes read at the point of a scope, under those that the core and its cluster sail hold newer (R229). -/
def State.newest (s : State) (r : Route) (scope flat : Nat) (bs : List Byte) : List Byte :=
  s.overlay r.core flat (if 2 ≤ scope then s.clusterDirty r flat bs else bs)

/-- Commits a store at the home of its page (R375, R376): its bytes are written, their line takes its reference, and the core
sees them. -/
def State.commit (s : State) (a : Acc) (r : Route) (flat : Nat) (bs : List Byte) (bad : Bool) : State :=
  let s := if a.isReturn then s.homeReturn r flat bs else s.homeWrite r flat bs bad
  (s.setLineRef (.sys r.sail) r.home flat a.link).seenAfter a flat bs

/-! ### Onward travel, release and acquire -/

/-- Sends one store that has performed at its core onward, to the cluster sail or the home (R227). Where the cluster sail
would have to wait for a write-back of the line, the bytes follow it home (R356). -/
def State.pushOnward (s : State) (o : Onward) : State :=
  let r : Route := { core := o.core, cluster := s.clusterSail o.core, sail := o.lane.sail, loc := o.lane.loc,
                     home := o.lane.home }
  match r.cluster.filter fun k => !s.clusterHeld k o.lane.pa with
  | some k => s.clusterWrite r k o.lane.pa o.lane.data o.lane.poison o.link
  | none => (s.markAll o.lane.pa o.lane.data.length o.lane.poison).pushHome r o.lane.pa o.lane.data
      (o.ef && r.cluster.isNone) o.link

/-- Sends every coalesced byte of a core onward (R211). -/
def State.flushCore (s : State) (c : CoreRef) : State :=
  let mine := s.onward.filter fun o => o.core == c
  let s := mine.foldl (fun s o => s.pushOnward o) s
  { s with
    onward := s.onward.filter fun o => o.core != c
    flights := s.flights.map fun a =>
      if coreOf a.ref = c then
        { a with lanes := a.lanes.map fun l => if l.stage = .coalescing then { l with stage := .sent } else l }
      else a }

/-- What a release at a scope writes out: the core's coalesced bytes (R211), and from .die on the cluster sail's dirty
bytes (R231). The second result names the write-backs to wait for, those already on their way among them. -/
def State.releaseFlush (s : State) (c : CoreRef) (scope : Nat) : State × List Nat :=
  let s := s.flushCore c
  let s := match s.clusterSail c with
    | some k => if 2 ≤ scope then s.clusterFlush k c else s
    | none => s
  let mates := match (s.team? c).bind fun t => s.walker.clusters.find? fun k => k.key == t.cluster with
    | some k => k.cores
    | none => []
  (s, (s.flights.filter fun a => a.isReturn && (coreOf a.ref == c || mates.contains (coreOf a.ref))).map Acc.id)

/-- Makes a core's caches below a scope's point current for a stream (R231, R212). -/
def State.acquireAt (s : State) (c : CoreRef) (idx scope : Nat) : State :=
  let s := if 1 ≤ scope then s.modCore c fun k => k.l1Acquire idx (scope == 4) else s
  match s.clusterSail c with
  | some k => if 2 ≤ scope then s.clusterRefresh k else s
  | none => s

/-- The die holds replica panels (R378). -/
def State.hasReplicas (s : State) (d : Nat) : Bool :=
  s.sails.any fun x => x.kind == 1 && (x.part? d).isSome

/-- Starts a replica sync (R378). -/
def State.startSync (s : State) (a : Acc) : State :=
  let d := a.ref.die
  let s := s.teamTally (coreOf a.ref) 35 1
  let others := (List.range 6).filter fun e => e != d
  let s := others.foldl (fun s e => s.send 0 d e (.syncRequest a.id)) s
  s.modAcc a.id fun a => { a with syncing := true, markers := others, born := s.now, resends := 0 }

/-- The acquire of an access needs a sync. -/
def State.needsSync (s : State) (a : Acc) : Bool := a.acq && decide (3 ≤ a.scope) && s.hasReplicas a.ref.die

/-! ### Delivering to streams -/

/-- Removes a location from the pending ones. -/
def Stream.landed (st : Stream) (l : Loc) : Stream := { st with pending := st.pending.filter fun x => x != l }

/-- A result issued earlier that is still on its way to these lanes of a location: the later instruction's value stands
(R403), whichever comes first. -/
def Stream.overtake (st : Stream) (m : BitVec 32) (l : Loc) : Stream :=
  { st with landings := st.landings.map fun x => if x.dst == l then { x with lanes := x.lanes &&& ~~~m } else x }

/-- The registers a destination of some width takes: a pair for 64 bits in the native form (R397). -/
def locParts (l : Loc) (bits : Nat) : List Loc :=
  match l with
  | .reg n => if bits = 64 then [.reg n, .reg (n + 1)] else [.reg n]
  | .val .. | .pred _ | .spill _ => [l]

/-- Writes lanes of a destination, whatever its form: a 64-bit result takes a register pair. -/
def Stream.putWide (st : Stream) (l : Loc) (m : BitVec 32) (v : TVal) : Stream :=
  match l with
  | .reg n =>
    if tyBits v.ty = 64 then
      (st.put (.reg n) m ⟨tI32, v.lanes.map fun (w : Word) => w &&& 0xFFFFFFFF⟩).put (.reg (n + 1)) m
        ⟨tI32, v.lanes.map fun (w : Word) => (w >>> (32 : Nat) : Word)⟩
    else st.put l m v
  | .val .. | .pred _ | .spill _ => st.put l m v

/-- Reads a location of a width. -/
def Stream.getWide (st : Stream) (l : Loc) (w lane : Nat) : Nat :=
  match l with
  | .reg n => if w = 64 then (st.get l).lane lane % 2 ^ 32 + 2 ^ 32 * ((st.get (.reg (n + 1))).lane lane % 2 ^ 32)
              else (st.get l).lane lane % 2 ^ w
  | .val .. | .pred _ | .spill _ => (st.get l).lane lane % 2 ^ w

/-- Delivers an access's results to its stream's destinations and clears their pending bits (R404, R220). `vals` gives
each lane's bytes, which the destinations take in order; register 255 discards its part. -/
def deliverLoad (a : Acc) (st : Stream) : Stream :=
  let m := a.laneMask
  let go := fun (acc : Stream × Nat) (d : Loc × Nat) =>
    let n := tyBytes d.2
    let lanes := (List.range 32).map fun k =>
      match a.lanes.find? fun l => l.lane == k with
      | some l => (BitVec.ofNat 64 (ofBytes ((l.got.drop acc.2).take n)) : Word)
      | none => 0
    let st := if d.1 = .reg 255 then acc.1 else acc.1.putWide d.1 m ⟨d.2, lanes⟩
    ((locParts d.1 (tyBits d.2)).foldl (fun st l => (st.landed l).overtake m l) st, acc.2 + n)
  (a.dsts.foldl go (st, 0)).1

/-- The reference of an access's completion (R445, R448): the core's own memory, the host link, the replica whose HOLD
acknowledgement came last, the atomic place, or the sail. -/
def State.accRef (s : State) (a : Acc) : Nat :=
  let ref (die core eng : Nat) : Nat := linkRef s.fabric.devid.toNat die core 63 eng none s.now
  match a.lanes.getLast? with
  | none => ref a.ref.die a.ref.core 4
  | some l =>
    let eng := if a.isAtomic then 5 else 4
    if a.isLocal then ref a.ref.die a.ref.core eng
    else if l.loc = 2 then ref 6 255 10
    else match a.acker with
      | some d => ref d 255 7
      | none => ref l.home 255 eng

/-- Removes a finished access and lowers its counter (R226, R27). -/
def State.finishAcc (s : State) (a : Acc) : State :=
  (s.dropAcc a.id).modStream a.ref fun st => if a.wb then st else st.lower a.pathOf a.id (s.accRef a)

/-- What a request asks of a peer: a bit of its access list (R387). -/
inductive PeerAsk where
  | read | write | atomic
  deriving DecidableEq, Repr

def PeerAsk.bit : PeerAsk → Nat
  | .read => 0
  | .write => 1
  | .atomic => 2

/-- A peer device serves a request: the route table leads to it through a port that is up (R386 to R388), and its access
list does not refuse this module (R387). -/
def State.peerServes (s : State) (ask : PeerAsk) (flat : Nat) : Bool :=
  let dev := flatTag flat - 8
  let b := (s.byteAt (flatHost (s.fabric.route.toNat + dev))).toNat % 16
  b < 12 && ((s.fabric.ports[b]?).map Port.up).getD false
    && !((s.fabric.refused.lookup dev).getD 0).getLsbD ask.bit

/-- A peer's refusal of a store: ACCESS_VIOLATION with cause 4 at the stream's next wait on the ST path (R387). -/
def State.peerRefused (s : State) (a : Acc) (l : AccLane) : State :=
  s.modStream a.ref fun st =>
    { st with due := st.due ++ [{ code := 0x21, path := 2, cause := 4, issued := a.pos, detail := l.va }] }

/-! ### Loads -/

/-- Bytes of the lane's own older stores that have not performed, over bytes read below (R228). -/
def State.forward (s : State) (a : Acc) (l : AccLane) (bs : List Byte) : List Byte :=
  (olderThan a.id s.flights).foldl (fun bs o =>
    if o.isStore && coreOf o.ref == coreOf a.ref then
      match o.lanes.find? fun m => o.ownerOf m == a.ownerOf l && m.placed && m.stage != .done with
      | some m =>
        (List.range bs.length).map fun k =>
          let x := l.pa + k
          if m.pa ≤ x ∧ x < m.pa + m.data.length then (m.data[x - m.pa]?).getD 0 else (bs[k]?).getD 0
      | none => bs
    else bs) bs

/-- The scope at whose point a load binds: a plain one may bind at its core (R228, R231). -/
def Acc.bindScope (a : Acc) : Nat := if a.acq then a.scope else 0

/-- A load that bound beyond L1 and missed there leaves a line marked read-only, when it is to be marked so: another's would
not outlive the acquire (R211, R212). -/
def State.fillFrom (s : State) (a : Acc) (l : AccLane) : State :=
  if a.bindScope = 0 || !(a.ro || l.roh) || ((s.core (coreOf a.ref)).l1Find l.pa).isSome then s
  else
    let r := laneRoute s a l
    let base := l.pa / 128 * 128
    match readBlocks (fun s x => s.pointRead r a.bindScope x 64 a.ro) s base 2 with
    | .wait s => s
    | .bytes s bs => s.modCore r.core fun c =>
        c.l1Fill r.idx { line := base / 128, data := s.newest r a.bindScope base bs, ro := true }

/-- Binds one lane of a load: reads at its point. -/
def State.bindLane (s : State) (a : Acc) (l : AccLane) : Found :=
  if a.isLocal then .bytes s (s.forward a l (s.bytesAt l.pa a.size))
  else if s.returning l.pa then .wait s
  else
    let r := laneRoute s a l
    match s.pointRead r a.bindScope l.pa a.size a.ro with
    | .wait s => .wait s
    | .bytes s bs => .bytes (s.fillFrom a l) (s.forward a l (s.newest r a.bindScope l.pa bs))

/-- A load at .clu without a cluster sail binds at the home of a replicated page: what the home has sent its die before
must be applied there first, or a later load could return an older value from the replica (R229, R371). -/
def State.homeAhead (s : State) (a : Acc) (l : AccLane) : Bool :=
  !a.isLocal && a.bindScope == 1 && (s.clusterSail (coreOf a.ref)).isNone && s.usesReplica (laneRoute s a l)

/-- One of two numbers by the kind of a die. -/
def State.byKind (s : State) (die c b : Nat) : Nat := if (s.die die).isB then b else c

/-- The sail has the line that holds an address. -/
def State.holdsLine (s : State) (k : SailKey) (die flat : Nat) : Bool :=
  (s.sail? k).any fun x => (x.part? die).any fun p => (p.find? (flat / x.lineBytes)).isSome

/-- Cycles a lane's access to a core's local memory takes (Table 15.7). -/
def State.localLatency (s : State) (own : CoreRef) (flat : Nat) : Nat :=
  let n := flatTag flat - 5000
  let t : CoreRef := ⟨n / 160, n % 160⟩
  if t = own then s.byKind own.die 10 12
  else s.byKind own.die 36 40 + 2 * meshHops own t + (if t.die = own.die then 0 else 180)

/-- The unloaded latency of a lane of a load (R408, Table 15.7), by where its line stands. What the table does not give, DDR-5
and peers, is as HBM and as host memory: log entry 116 (DESIGN CHOICE). -/
def State.readLatency (s : State) (a : Acc) (l : AccLane) : Nat :=
  let d := a.ref.die
  if a.isLocal then s.localLatency (coreOf a.ref) l.pa
  else
    let r := laneRoute s a l
    if a.bindScope = 0 && ((s.core r.core).l1Find l.pa).isSome then s.byKind d 24 28
    else if 2 ≤ l.loc then s.byKind d 90 96 + 180 * bridgesTo 6 d 6
    else if (a.bindScope ≤ 1 && r.cluster.any fun k => s.holdsLine (.cluster k) 255 l.pa) || (a.bindScope ≤ 2 && s.usesReplica r) then
      s.byKind d 90 96
    else
      (if s.holdsLine (.sys l.sail) l.home l.pa then s.byKind d 90 96 else s.byKind d 600 640) + 180 * bridgesTo 6 d l.home

/-- The unloaded latency of a lane of an atomic: it does not depend on where the line stands. -/
def State.atomicLatency (s : State) (a : Acc) (l : AccLane) : Nat :=
  let d := a.ref.die
  if a.isLocal then s.localLatency (coreOf a.ref) l.pa + 2
  else if 2 ≤ l.loc then s.byKind d 90 96 + 180 * bridgesTo 6 d 6
  else s.byKind d 100 106 + (if l.place = 2 then 0 else 180 * bridgesTo 6 d l.home)

/-- The cycle before which nothing returns to the stream of an access: the latest of its lanes' by `f`. In the portable form
nothing is held back (log entry 17). -/
def State.dueBy (s : State) (a : Acc) (f : AccLane → Nat) : Nat :=
  if (s.stream? a.ref).any Stream.native then (a.lanes.map fun l => if f l = 0 then 0 else a.cycle + f l).foldl Nat.max 0 else 0

/-- That of a load whose lanes bind now. -/
def State.loadDue (s : State) (a : Acc) : Nat :=
  Nat.max a.due (s.dueBy a fun l => if l.stage = .sent then s.readLatency a l else 0)

/-- That of an atomic with a result. -/
def State.atomicDue (s : State) (a : Acc) : Nat := if a.isReduction then 0 else s.dueBy a (s.atomicLatency a)

/-- That of a store to host memory, whose count falls then (R390). -/
def State.storeDue (s : State) (a : Acc) : Nat :=
  s.dueBy a fun l => if !a.isLocal && l.loc == 2 then s.byKind a.ref.die 45 48 + 90 * bridgesTo 6 a.ref.die 6 else 0

/-- The result of an access cannot return in this cycle (R408). -/
def State.early (s : State) (a : Acc) (due : Nat) : Bool := decide ((s.die a.ref.die).clock < due)

/-- The page of a lane is being migrated: a request that arrives is refused (R346, R348). -/
def State.movingAt (s : State) (a : Acc) (l : AccLane) : Bool :=
  match s.pages.cmd with
  | some k =>
    k.op == 1 && k.asid == a.asid && !a.isLocal && !a.wb &&
      (match k.todo with
      | (va, _) :: _ => (match (s.walk 7 k.asid va).1 with
        | .leaf f _ => leafMov f.entry && decide (va ≤ l.va % 2 ^ 56) && decide (l.va % 2 ^ 56 < va + f.bytes)
        | _ => false)
      | [] => false)
  | none => false

/-- A core's own coalesced stores hold a poisoned byte among some (R34). -/
def State.onwardPoison (s : State) (c : CoreRef) (flat n : Nat) : Bool :=
  s.onward.any fun o => o.core == c && o.lane.poison && decide (o.lane.pa < flat + n)
    && decide (flat < o.lane.pa + o.lane.data.length)

/-- A lane of a load receives poisoned data (R34, R387). -/
def State.bindPoison (s : State) (a : Acc) (l : AccLane) : Bool :=
  s.anyPoison l.pa a.size ||
    (!a.isLocal && ((l.loc == 3 && !s.peerServes .read l.pa) || s.onwardPoison (coreOf a.ref) l.pa a.size))

/-- The reference that a lane of an access with .acq finds with the line at which it has bound (R450). -/
def State.refFound (s : State) (a : Acc) (l : AccLane) : Option Nat :=
  if !a.acq || a.isLocal then l.ref
  else
    let r := laneRoute s a l
    let home := s.lineRef (.sys l.sail) l.home l.pa
    let below := if a.isAtomic || a.bindScope == 1 || 3 ≤ a.bindScope then home else s.dieRef r l.pa
    match (if a.scope ≤ 1 then r.cluster else none).bind fun k => s.clusterLine k l.pa with
    | some m => m.ref
    | none => below

/-- Binds the lanes that have been sent, each as soon as it can: a lane that waits for a page keeps no other (R222). -/
def State.bindLanes (s : State) (a : Acc) : List AccLane → State × List AccLane
  | [] => (s, [])
  | l :: rest =>
    if l.stage ≠ .sent then
      let t := s.bindLanes a rest
      (t.1, l :: t.2)
    else if s.movingAt a l then
      let t := s.bindLanes a rest
      (t.1, { l with stage := .refused } :: t.2)
    else
      match s.bindLane a l with
      | .wait s =>
        let t := s.bindLanes a rest
        (t.1, l :: t.2)
      | .bytes s bs =>
        let ahead := s.homeAhead a l
        let s := if ahead then s.send 3 l.home a.ref.die (.storeAck a.id l.lane false l.sail 0 0 []) else s
        let m := { l with got := bs, stage := if ahead then .round else .done, poison := s.bindPoison a l, ref := s.refFound a l }
        let t := s.bindLanes a rest
        (t.1, m :: t.2)

/-! ### Stores -/

/-- Dies that hold a replica of a line, as a list (R374). -/
def sharersOf (x : Sail) (line : Nat) : List Nat :=
  (List.range 6).filter fun d => countOf line x.sharers / 2 ^ d % 2 == 1

/-- Drops a key's entry. -/
def dropKey (k : Nat) (xs : List (Nat × Nat)) : List (Nat × Nat) := xs.filter fun p => p.1 != k

/-- Sets the sharer mask of a line. -/
def setSharers (k m : Nat) (xs : List (Nat × Nat)) : List (Nat × Nat) :=
  if m = 0 then dropKey k xs else (k, m) :: dropKey k xs

/-- Opens a HOLD round for a store at the home of a replicated page (R375); with no sharer it commits at once and its
acknowledgement leaves on the update channel. -/
def State.openRound (s : State) (a : Acc) (l : AccLane) : State :=
  let r := laneRoute s a l
  match s.sail? (.sys l.sail) with
  | none => s.commit a r l.pa l.data l.poison
  | some x =>
    let line := l.pa / x.lineBytes
    let off := l.pa % x.lineBytes
    let sharers := sharersOf x line
    if sharers = [] then
      (s.commit a r l.pa l.data l.poison).send 3 l.home a.ref.die
        (.storeAck a.id l.lane false l.sail line off [])
    else
      let n := s.fabric.nextRound
      let s := s.teamTally (coreOf a.ref) 33 1
      let s := sharers.foldl (fun s d => s.send 0 l.home d (.hold l.sail line n off l.data)) s
      let s := { s with fabric := { s.fabric with nextRound := n + 1 } }
      s.modSail (.sys l.sail) fun x => { x with rounds := x.rounds ++
        [{ id := n, acc := a.id, lane := l.lane, line := line, off := off, bytes := l.data, waiting := sharers,
           home := l.home, start := s.now }] }

/-- A round is open for the line: later stores to it wait (R375). -/
def State.roundOpen (s : State) (sail line : Nat) : Bool :=
  match s.sail? (.sys sail) with
  | some x => x.rounds.any fun r => r.line == line
  | none => false

/-- What would change the line at its home waits: a round is open for the line of a replicated page (R375), or its panel is
being swept (R361). -/
def State.lineBusy (s : State) (r : Route) (flat : Nat) : Bool :=
  s.sweptAt (.sys r.sail) r.home flat || match s.sail? (.sys r.sail) with
  | some x => x.kind == 1 && s.roundOpen r.sail (flat / x.lineBytes)
  | none => false

/-- Performs one lane of a store at its own point (R227); at the home of a replicated page it starts a round (R375) or
sends its updates (R376), and waits for the acknowledgement. -/
def State.performLane (s : State) (a : Acc) (l : AccLane) : State × AccLane :=
  if a.isLocal then (s.writeBytes l.pa l.data l.poison, { l with stage := .done })
  else if l.loc = 3 && !s.peerServes .write l.pa then (s.peerRefused a l, { l with stage := .done })
  else
    let r := laneRoute s a l
    let c := coreOf a.ref
    if a.scope = 0 ∧ !a.wb then
      let s := s.modCore c fun k => k.l1Update l.pa l.data
      ({ s with onward := s.onward ++ [⟨c, { l with stage := .coalescing }, a.ef, (s.die c.die).clock, a.link⟩] }, { l with stage := .done })
    else
      let s := if a.wb then s else s.flushCore c
      match (if a.scope = 1 ∧ !a.wb then r.cluster else none) with
      | some key =>
        ((s.modCore c fun k => k.l1Update l.pa l.data).clusterWrite r key l.pa l.data l.poison a.link, { l with stage := .done })
      | none =>
        if s.isReplicated l.sail then
          if a.ef then
            match s.sail? (.sys l.sail) with
            | none => (s, { l with stage := .done })
            | some x =>
              let line := l.pa / x.lineBytes
              let off := l.pa % x.lineBytes
              let s := if a.isReturn then s.homeReturn r l.pa l.data else s.homeWrite r l.pa l.data l.poison
              let s := s.setLineRef (.sys l.sail) l.home l.pa a.link
              let s := s.send 3 l.home a.ref.die (.storeAck a.id l.lane false l.sail line off l.data) a.link
              let s := (sharersOf x line).foldl (fun s d =>
                if d = a.ref.die then s
                else ((s.teamTally (coreOf a.ref) 34 1).bridgeTally (coreOf a.ref) l.home d (payloadBlocks off l.data.length)).send 3
                  l.home d (.efUpdate l.sail line off l.data) a.link) s
              (s, { l with stage := .round })
          else (s.openRound a l, { l with stage := .round })
        else
          let s := ((s.clusterPass r l.pa l.data a.link).homeWrite r l.pa l.data l.poison).setLineRef (.sys l.sail) l.home l.pa a.link
          (if a.wb then s else s.modCore c fun k => k.l1Update l.pa l.data, { l with stage := .done })

/-- The lane's store goes to the home: it is wider than the cluster's sail. -/
def State.goesHome (s : State) (a : Acc) : Bool :=
  !a.isLocal && (a.wb || 2 ≤ a.scope || (a.scope == 1 && (s.clusterSail (coreOf a.ref)).isNone))

/-- Older bytes that a store to a replicated page follows to the home leave first (R229): the core's coalesced ones, and those
dirty in its cluster's sail. -/
def State.leadUp (s : State) (a : Acc) (l : AccLane) : State :=
  if !s.goesHome a || a.wb then s
  else
    let s := s.flushCore (coreOf a.ref)
    if s.isReplicated l.sail then s.pushDirty (laneRoute s a l) l.pa l.data.length else s

/-- A store to a replicated page follows the bytes on their way to its own: a write-back follows older ones, another store every
one (R229). -/
def State.followsBytes (s : State) (a : Acc) (l : AccLane) : Bool :=
  s.goesHome a && s.flights.any fun o => o.wb && o.id != a.id && (!a.wb || decide (o.id < a.id)) && o.owes l.pa l.data.length

/-- Performs the lanes that have been sent, in ascending lane order (R221); a lane whose line has an open round, or older
bytes on their way, or stands in a panel being swept, waits. -/
def State.performLanes (s : State) (a : Acc) : List AccLane → State × List AccLane
  | [] => (s, [])
  | l :: rest =>
    let s := if l.stage = .sent then s.leadUp a l else s
    let busy := !a.isLocal && ((match s.sail? (.sys l.sail) with
      | some x => s.roundOpen l.sail (l.pa / x.lineBytes)
      | none => false) || (s.goesHome a && s.sweptAt (.sys l.sail) l.home l.pa) || (a.scope == 1 && !a.wb && (s.clusterSail (coreOf a.ref)).any fun k => s.clusterWaits k l.pa))
    if l.stage = .sent ∧ s.movingAt a l then
      let t := s.performLanes a rest
      (t.1, { l with stage := .refused } :: t.2)
    else if l.stage = .sent ∧ !busy ∧ !s.followsBytes a l then
      let q := s.performLane a l
      let t := q.1.performLanes a rest
      (t.1, q.2 :: t.2)
    else
      let t := s.performLanes a rest
      (t.1, l :: t.2)

/-! ### Fences and releases -/

/-- The older accesses an access with release, or a fence, waits for (R231, R234). -/
def State.waitsFor (s : State) (a : Acc) : List Acc :=
  (olderThan a.id s.flights).filter fun o =>
    o.meets a && !o.isPrefetch &&
      match a.kind with
      | .fence mask =>
        (if o.isFence then true else inMask mask o.cls) && (a.rel || o.isLoad || o.isFence || (o.isAtomic && !o.isReduction))
      | _ => a.rel && o.cls == a.cls

/-- Writes out what a release covers, once, when nothing older is left. -/
def State.flushFor (s : State) (a : Acc) : State :=
  if a.flushed then s
  else
    let q := s.releaseFlush (coreOf a.ref) a.scope
    q.1.modAcc a.id fun a => { a with flushed := true, waits := q.2 }

/-- The write-backs of a release have been acknowledged. -/
def State.flushDone (s : State) (a : Acc) : Bool :=
  a.flushed && !(s.flights.any fun b => a.waits.contains b.id)

/-- Takes one fence as far as it can go: waits, writes out, makes the caches current, syncs, and leaves. -/
def State.settleFence (s : State) (id : Nat) : State :=
  match s.acc? id with
  | none => s
  | some a =>
    if s.waitsFor a != [] then s
    else
      let s := if a.rel then s.flushFor a else s
      match s.acc? id with
      | none => s
      | some a =>
        if a.rel && !s.flushDone a then s
        else if a.syncing then
          (if a.markers = [] then (s.acquireAt (coreOf a.ref) a.ref.idx a.scope).dropAcc id else s)
        else if s.needsSync a then s.startSync a
        else (if a.acq then s.acquireAt (coreOf a.ref) a.ref.idx a.scope else s).dropAcc id

/-- Settles every fence that can complete, oldest first. -/
def State.settleFences (s : State) : State :=
  (s.flights.filter Acc.isFence).foldl (fun s a => s.settleFence a.id) s

end Sys2Proof.Machine
end

