-- ==== Sys2Proof/Machine/Ops.lean ====
section
/-! DEFINITION. The shared operations: time, engine accesses by virtual address, events and trace records, launch
completion and the end of a job, taking an exception and returning from one. -/
namespace Sys2Proof.Machine

/-! ### Time -/

/-- Ticks of one cycle at a DVFS point (Table 1.3): 2.7, 2.2 and 1.6 GHz. -/
def cycleTicks (point : Nat) : Nat :=
  match point with
  | 0 => 176
  | 1 => 216
  | _ => 297

/-! ### Accesses of engines, by virtual address, at the home -/

/-- Reads up to `n` bytes in pieces that stay in one 64-byte block. -/
def State.readPieces (s : State) (c : CoreRef) (asid : Nat) : Nat → Nat → Nat → Option (State × List Byte × Bool)
  | 0, _, _ => some (s, [], false)
  | fuel + 1, va, n =>
    if n = 0 then some (s, [], false)
    else
      match s.translate c asid va with
      | (.leaf f _, s) =>
        let k := Nat.min n (64 - va % 64)
        let a := f.flat va
        let bad := s.anyPoison a k
        let q := s.homeRead (s.routeOf c f.entry) a k
        match q.1.readPieces c asid fuel (va + k) (n - k) with
        | some (s, bs, b) => some (s, q.2 ++ bs, bad || b)
        | none => none
      | _ => none

/-- Reads bytes at a virtual address at their homes: the bytes, and whether any is poisoned; none where a page is not
mapped. -/
def State.vread (s : State) (c : CoreRef) (asid va n : Nat) : Option (State × List Byte × Bool) :=
  s.readPieces c asid (n / 64 + 2) va n

/-- Writes bytes in pieces that stay in one 64-byte block; those of a page that is not mapped are dropped, log entry 104
(DESIGN CHOICE). -/
def State.writePieces (s : State) (c : CoreRef) (asid : Nat) : Nat → Nat → List Byte → State
  | 0, _, _ => s
  | fuel + 1, va, bs =>
    if bs = [] then s
    else
      match s.translate c asid va with
      | (.leaf f _, s) =>
        let k := 64 - va % 64
        (s.homeWrite (s.routeOf c f.entry) (f.flat va) (bs.take k) false).writePieces c asid fuel (va + k) (bs.drop k)
      | _ => s

/-- Writes bytes at a virtual address at their homes, at .sys. -/
def State.vwrite (s : State) (c : CoreRef) (asid va : Nat) (bs : List Byte) : State :=
  s.writePieces c asid (bs.length / 64 + 2) va bs

/-- The core the walker and the other hub engines translate for: they use die 3's walker, the first joined to the
hub. -/
def hubCore : CoreRef := ⟨3, 159⟩

/-! ### Events and trace records (R36, R463, R464, R467) -/

/-! ### Bank conflicts (R210, R470) -/

/-- Cycles that distinct words lose to conflicts in each bank: all but one of a bank's words wait. -/
def bankLoss (words : List Nat) : List (Nat × Nat) :=
  let ws := words.eraseDups
  ((List.range 32).map fun b => (b, (ws.filter fun w => w % 32 == b).length - 1)).filter fun x => x.2 != 0

/-- A requester of a core's local memory loses cycles at some banks. -/
def State.lose (s : State) (c : CoreRef) (req : Nat) (ls : List (Nat × Nat)) : State :=
  if ls = [] then s
  else (s.teamTally c 24 (ls.foldl (fun n x => n + x.2) 0)).modCore c fun k => { k with
    matrix := ls.foldl (fun m x =>
      let i := 32 * req + x.1
      setAt m i (Nat.min ((m[i]?).getD 0 + x.2) (2 ^ 32 - 1))) (k.matrix ++ List.replicate (256 - k.matrix.length) 0) }

/-- Adds to a word of a partition's event counters. -/
def State.countEvent (s : State) (part code : Nat) : State :=
  { s with trace := { s.trace with pages := modAt s.trace.pages part fun p =>
      { p with events := addCount code 1 p.events } } }

/-- The trace context entry of an address space (R462): buffer address, size in bytes, EN and SAMPLE. -/
def State.traceBuf (s : State) (asid : Nat) : Option (Nat × Nat × Bool) :=
  if s.trace.ctx = 0 then none
  else
    let a := flatHost (s.trace.ctx.toNat + 32 * asid)
    let f := s.natAt (a + 12) 1
    if f % 2 = 1 then some (s.natAt a 8, s.natAt (a + 8) 4 * 65536, f / 2 % 2 == 1) else none

/-- What a trace record says beside time and sequence (Table 18.1). -/
structure TraceRec where
  type : Nat
  code : Nat := 0
  core : CoreRef
  stream : Nat := 63
  asid : Nat
  pos : Position := ⟨0, 0⟩
  payload : List Byte := []

/-- Writes a trace record into the buffer of its address space, when one is enabled (R462, R463). -/
def State.traceWrite (s : State) (r : TraceRec) : State :=
  match s.traceBuf r.asid with
  | none => s
  | some (va, size, _) =>
    let n := (size - 64) / 64
    match s.vread r.core r.asid va 24 with
    | none => s
    | some (s, ctl, _) =>
      let wr := ofBytes (ctl.take 8)
      let rd := ofBytes ((ctl.drop 8).take 8)
      if n - (wr - rd) = 0 then
        s.vwrite r.core r.asid (va + 16) (toBytes 8 (ofBytes ((ctl.drop 16).take 8) + 1))
      else
        let seq := (s.die r.core.die).seq
        let bytes := toBytes 1 r.type ++ toBytes 1 r.code ++ toBytes 1 r.core.die ++ toBytes 1 r.core.core
          ++ toBytes 1 r.stream ++ [0] ++ toBytes 2 r.asid ++ toBytes 8 s.now ++ toBytes 2 r.pos.func ++ [0, 0]
          ++ toBytes 4 r.pos.off ++ toBytes 8 seq ++ (r.payload ++ List.replicate 32 0).take 32
        let s := s.modDie r.core.die fun d => { d with seq := (d.seq + 1) % 2 ^ 64 }
        (s.vwrite r.core r.asid (va + 64 + 64 * (wr % n)) bytes).vwrite r.core r.asid va (toBytes 8 (wr + 1))

/-- Counts an event of a team, and traces it while the team's window is open (R464). -/
def State.teamEvent (s : State) (c : CoreRef) (stream code : Nat) (pos : Position) (payload : List Byte := []) : State :=
  match s.team? c with
  | none => s.countEvent 0 code
  | some t =>
    let s := s.countEvent (s.partOf t.launch) code
    if t.capture.isSome then
      s.traceWrite { type := 0, code := code, core := c, stream := stream, asid := t.asid, pos := pos, payload := payload }
    else s

/-- Counts an event tied to no team in a partition; the open windows of that partition record it, with core 255 (R463,
R464), on the die of the window: log entry 102 (DESIGN CHOICE). -/
def State.partEvent (s : State) (part code : Nat) (payload : List Byte := []) : State :=
  let s := s.countEvent part code
  s.cores.foldl (fun s k =>
    match k.team with
    | some t =>
      if t.capture.isSome && s.partOf t.launch == part then
        s.traceWrite { type := 0, code := code, core := ⟨k.at_.die, 255⟩, asid := t.asid, payload := payload }
      else s
    | none => s) s

/-! ### Completion counters (R91, R92) -/

def State.counter (s : State) (i : Nat) : Counter := (s.walker.counters.find? fun c => c.idx == i).getD { idx := i }

def State.setCounter (s : State) (c : Counter) : State :=
  { s with walker := { s.walker with counters := c :: s.walker.counters.filter fun d => d.idx != c.idx } }

/-- A signal (R92): COUNT saturates at 2^31 − 1. -/
def State.signal (s : State) (i : Nat) (err : Bool) : State :=
  if i = 0xFFFF then s
  else
    let c := s.counter i
    s.setCounter { c with count := if c.count = BitVec.allOnes 31 then c.count else c.count + 1, err := c.err || err }

/-! ### Completion of a launch and the end of a job (R94, R95) -/

/-- Takes an unfinished store of a core to its home (R94 step 1), unless it has committed there. A replicated line's
replicas are dropped, so that they are fetched again. -/
def State.forceStore (s : State) (a : Acc) : State :=
  let opened := s.sails.any fun x => x.rounds.any fun r => r.acc == a.id
  (a.lanes.filter fun l => l.stage == .sent || l.stage == .coalescing || (l.stage == .round && opened)).foldl (fun s l =>
    if a.isLocal then s.writeBytes l.pa l.data l.poison
    else
      let s := s.commit a (laneRoute s a l) l.pa l.data l.poison
      s.modSail (.sys l.sail) fun x =>
        if x.kind = 1 then
          { x with
            rounds := x.rounds.filter fun r => r.acc != a.id
            sharers := dropKey (l.pa / x.lineBytes) x.sharers
            parts := x.parts.map fun p => if p.die = l.home then p else p.drop (l.pa / x.lineBytes) }
        else x) s

/-- Every store of a core's team reaches its home: coalesced bytes and those of the cluster sail, then sent stores. -/
def State.releaseTeam (s : State) (c : CoreRef) : State :=
  let s := s.flushCore c
  let s := match s.clusterSail c with
    | some k => s.clusterFlush k c
    | none => s
  let mine := s.flights.filter fun a => coreOf a.ref == c && a.isStore
  let s := (mine.filter Acc.wb).foldl (fun s a => (s.forceStore a).dropAcc a.id) s
  (mine.filter fun a => !a.wb).foldl (fun s a => s.forceStore a) s

/-- What of a stream's file stands in the core: its registers, its predicates and its spill words (R82). -/
def Stream.physical (st : Stream) : List (Loc × TVal) :=
  st.file.filter fun x => match x.1 with
    | .val .. => false
    | .reg _ | .pred _ | .spill _ => true

/-- Frees a core: its team, and what the team had in flight, are gone. The free notices of its streams leave no entry of
theirs in a result store (R254). -/
def State.freeCore (s : State) (c : CoreRef) : State :=
  let s := { s with
    flights := s.flights.filter fun a => a.wb || coreOf a.ref != c
    onward := s.onward.filter fun o => o.core != c
    results := s.results.filter fun e => !(e.dev == s.fabric.devid.toNat && coreOf e.ref == c) }
  s.modCore c fun k => { k with
    team := none, hold := 0, walks := []
    left := (k.team.map fun t => t.order.filterMap fun i => (t.stream? i).map fun st => (i, st.physical)).getD k.left }

/-- Drops a cluster sail, its panels free again (R88). -/
def State.dropClusterSail (s : State) (cluster : Nat) : State :=
  let s := s.noteSail (.cluster cluster)
  { s with sails := s.sails.filter fun x => x.key != .cluster cluster }

/-- The completion record's bytes (Table 3.6). -/
def completionBytes (l : Launch) (status reason now : Nat) : List Byte :=
  toBytes 4 l.record.id ++ toBytes 1 status ++ toBytes 1 reason ++ [0, 0] ++ toBytes 8 l.copyTime
    ++ toBytes 8 l.firstPlaced ++ toBytes 8 now ++ toBytes 4 l.retired ++ toBytes 4 l.preempts ++ toBytes 8 0

/-- Writes a launch's completion record and signals its counter; the walker then holds it no more (R94 steps 2, 3). -/
def State.reportLaunch (s : State) (l : Launch) (status reason : Nat) : State :=
  let s := if l.record.completion = 0 then s
    else s.vwrite hubCore l.asid l.record.completion (completionBytes l status reason s.now)
  let s := s.signal l.record.signalCc (status != 0)
  { s with
    walker := { s.walker with launches := s.walker.launches.filter fun m => m.key != l.key }
    cores := s.cores.map fun k => if k.excl = some l.key then { k with excl := none } else k }

/-- Stops the teams of a launch and drops its clusters; `release` takes their stores to their homes first. -/
def State.stopLaunch (s : State) (key : Nat) (release : Bool) : State :=
  let cs := (s.cores.filter fun k => match k.team with
    | some t => t.launch == key
    | none => false).map Core.at_
  let s := if release then cs.foldl (fun s c => s.releaseTeam c) s else s
  let s := cs.foldl (fun s c => s.freeCore c) s
  let gone := (s.walker.clusters.filter fun k => k.launch == key).map Cluster.key
  let s := gone.foldl (fun s k => s.dropClusterSail k) s
  { s with walker := { s.walker with clusters := s.walker.clusters.filter fun k => k.launch != key } }

/-- The job ends (R95): every launch of the address space ends with the code, or with the code with which it was already
ending. -/
def State.finishJob (s : State) (asid code : Nat) (release : Bool := true) : State :=
  (s.walker.launches.filter fun l => l.asid == asid).foldl (fun s l =>
    (s.stopLaunch l.key release).reportLaunch l (l.status.getD code) 0) s

/-- The engines of a team have stopped: no chunk is in flight and the matrix engine stands at a step boundary; a trapped team's
copies that have started are done (R131, R330, R331). -/
def Team.atRest (t : Team) : Bool :=
  t.matrix.atBoundary && (t.copy.ldq.cmds ++ t.copy.stq.cmds).all fun k => k.flying == [] && (t.trapped.isNone || !k.started)

/-- A fault ends the job (R95): at once where the engines of its teams have stopped, and otherwise when they have. -/
def State.endJob (s : State) (asid code : Nat) (release : Bool := true) : State :=
  if !release || s.cores.all (fun k => k.team.all fun t => t.asid != asid || t.atRest) then s.finishJob asid code release
  else
    let mark (l : Launch) : Launch := if l.asid = asid then { l with status := some (l.status.getD code) } else l
    { s with walker := { s.walker with launches := s.walker.launches.map mark } }

/-- A code of kind F (R36): the event is counted for the job's partition, and the job ends. The trace record of PANEL_FAULT
names its cause (R366; log entry 110, DEDUCED). -/
def State.jobFault (s : State) (asid code : Nat) (payload : List Byte := []) : State :=
  match s.walker.launches.find? fun l => l.asid == asid with
  | none => s
  | some l => (s.partEvent (s.partOf l.key) code payload).endJob asid code

/-! ### Taking an exception and returning from one (R36, R37, R39, R131, R471) -/

/-- Kernel debug is unlocked for an address space (R471). -/
def State.kdbgFor (s : State) (asid : Nat) : Bool := s.trace.kdbg && s.trace.kdbgAsid.toNat == asid

/-- The codes that hold a team for the debugger (R131): TRAP_INSN, BREAKPOINT and DEBUG_STOP. -/
def holdsTeam (code : Nat) : Bool := code == 0x18 || code == 0x19 || code == 0x73

/-- The codes still due in a stream (R39): ATOMIC_POISON, ACK_LOST, and those of R37. -/
def Stream.stillDue (st : Stream) : List Nat :=
  st.poisoned.map (fun _ => 0x28) ++ (if st.ackLost then [0x50] else []) ++ st.due.map Deferred.code

/-- The codes still due in a team, its control stream first. -/
def Team.stillDue (t : Team) : List Nat := ((t.control :: t.groups).map Stream.stillDue).flatten

/-- The team of a stream is held trapped with the record, and with the codes still due in its streams. -/
def State.markTrap (s : State) (r : StreamRef) (rec : TrapRecord) : State :=
  match s.team? (coreOf r) with
  | none => s
  | some _ =>
    let s := s.teamEvent (coreOf r) r.idx rec.code rec.pos
    let s := s.modTeam (coreOf r) fun t => { t with trapped := some { rec with due := rec.due ++ t.stillDue } }
    s.modStream r fun st => { st with wait := some .held }

/-- A trapped team ends its job, unless kernel debug holds it. -/
def State.settleTrap (s : State) (c : CoreRef) : State :=
  match s.team? c with
  | none => s
  | some t =>
    match t.trapped with
    | none => s
    | some rec => if s.kdbgFor t.asid && holdsTeam rec.code then s else s.endJob t.asid rec.code

/-- A stream takes a trap of kind P or D (R131). The event is counted; the stream has stopped before its instruction
took any effect; the team is held trapped with the record, and with the codes still due. Unless kernel debug holds the
team, the job ends with the code. -/
def State.takeTrap (s : State) (r : StreamRef) (rec : TrapRecord) : State :=
  match (s.stream? r).map Stream.issuing with
  | some true => s.markTrap r rec
  | _ => (s.markTrap r rec).settleTrap (coreOf r)

/-- The trap's record for a stream at its current instruction. -/
def Stream.trapAt (st : Stream) (idx code : Nat) : TrapRecord :=
  { stream := idx, code := code, pos := ⟨st.func, st.off⟩,
    bundle := if st.native then some (st.bundle, st.slot, st.ravel) else none }

/-- The team leaves the trap (R471): it resumes, the trapping stream at the instruction it stopped before. -/
def State.resumeTeam (s : State) (c : CoreRef) : State :=
  match s.team? c with
  | none => s
  | some t =>
    match t.trapped with
    | none => s
    | some rec =>
      (s.modTeam c fun t => { t with trapped := none, heldSlot := none }).modStream ⟨c.die, c.core, rec.stream⟩ fun st =>
        { st with wait := none, stop := .running }

/-- Kernel debug releases the held teams of an address space: each resumes or ends its job (R471). -/
def State.releaseHeld (s : State) (asid : Nat) : State :=
  s.cores.foldl (fun s k =>
    match s.team? k.at_ with
    | some t =>
      match t.trapped with
      | some rec =>
        if t.asid = asid then
          (if rec.code = 0x73 || rec.code = 0x19 then s.resumeTeam k.at_ else s.endJob asid rec.code)
        else s
      | none => s
    | none => s) s

/-! ### Moving past an instruction -/

/-- The instruction is done: the portable stream stands at the next one; a native stream's bundle moves on with its
issue. What the instruction waited for is forgotten. -/
def Stream.retired (st : Stream) : Stream :=
  let st := { st with wait := none, stage := [], mark := none, headAt := none, prod := none }
  if st.native then st else { st with item := st.item + 1 }

/-- The stream blocks, and performs the instruction again when the wait is over (R106). -/
def Stream.blocked (st : Stream) (now : Nat) (w : Wait) : Stream :=
  { st with wait := some w, headAt := some (st.headAt.getD now) }

/-! ### Links of the chain recorder (R444 to R451) -/

/-- The reference a stream hands on: it always names its latest link (R448). -/
def State.streamRef (s : State) (r : StreamRef) : Nat :=
  linkRef s.fabric.devid.toNat r.die r.core r.idx 0 (some (((s.stream? r).bind Stream.link).getD 0)) s.now

/-- A terminal reference (R448): a memory point, an atomic place or a hub engine. -/
def State.terminalRef (s : State) (die core eng : Nat) : Nat :=
  linkRef s.fabric.devid.toNat die core 63 eng none s.now

/-- What a link says beside its time of recording (R447). -/
structure LinkRec where
  kind : Nat
  detail : Nat := 0
  stream : Nat
  weng : Nat := 0
  pos : Position
  start : Nat
  slack : Nat := 0
  aux : Nat := 0
  prod : Option Nat := none

/-- The bytes of a link record (Table 17.2). -/
def linkBytes (c : CoreRef) (seq : Nat) (now : Nat) (l : LinkRec) : List Byte :=
  toBytes 3 seq ++ toBytes 1 l.kind ++ toBytes 1 l.stream ++ toBytes 1 l.weng ++ toBytes 1 l.detail ++ toBytes 1 c.core
    ++ toBytes 2 l.pos.func ++ toBytes 1 c.die ++ [0] ++ toBytes 4 l.pos.off ++ toBytes 8 l.start ++ toBytes 8 now
    ++ toBytes 4 (Nat.min l.slack (2 ^ 32 - 1)) ++ toBytes 4 l.aux ++ toBytes 16 (l.prod.getD 0) ++ List.replicate 8 0

/-- Records a link in a core's store of 2,048, newest first (R451). -/
def State.addLink (s : State) (c : CoreRef) (l : LinkRec) : State × Nat :=
  let k := s.core c
  (s.modCore c fun k =>
    { k with links := ({ seq := k.nextLink, bytes := linkBytes c k.nextLink s.now l } :: k.links).take 2048
             nextLink := (k.nextLink + 1) % 2 ^ 24 }, k.nextLink)

/-- Records a link of a stream at its current instruction. The slack is the one given for an event of several parties,
and otherwise how long before the start the producer delivered (R446). -/
def State.streamLink (s : State) (r : StreamRef) (kind detail aux : Nat) (prod : Option Nat) (slack : Option Nat) :
    State :=
  match s.stream? r with
  | none => s
  | some st =>
    let start := st.headAt.getD s.now
    let q := s.addLink (coreOf r)
      { kind := kind, detail := detail, stream := r.idx, pos := ⟨st.func, st.off⟩, start := start
        slack := slack.getD (match prod with
          | some p => start - linkTime p
          | none => 0)
        aux := aux, prod := prod }
    q.1.modStream r fun st => { st with link := some q.2 }

/-- A party arrives where several meet: the new latest arrival and its slack to the one before. -/
def State.arrival (s : State) (r : StreamRef) (last : Option (Nat × Nat)) : Nat × Nat :=
  (s.streamRef r, match last with
    | some p => s.now - linkTime p.1
    | none => 0)

end Sys2Proof.Machine
end

