-- ==== Sys2Proof/Machine/Operands.lean ====
section
/-! DEFINITION. Operands, guards and results: reading every operand form of the portable and the native level,
deciding the guard per lane or per stream, and delivering results with their fallbacks (spec/02_delaro_form.md R53 to
R59; spec/15_issue_engine.md R396 to R398, R403, R404). -/
namespace Sys2Proof.Machine

/-- The stream an instruction runs in: the state, the stream's name, its team and itself. -/
structure Cx where
  s : State
  r : StreamRef
  t : Team
  st : Stream

/-- Runs a meaning in the current stream. -/
def withCx (s : State) (f : Cx → Out) : Out :=
  match s.cur with
  | none => .refused .noStream
  | some r =>
    match s.team? (coreOf r) with
    | none => .refused .noStream
    | some t =>
      match t.stream? r.idx with
      | none => .refused .noStream
      | some st => f ⟨s, r, t, st⟩

def Cx.core (c : Cx) : CoreRef := coreOf c.r

/-- The identifier of the die the stream runs on (R13). -/
def Cx.ident (c : Cx) : Nat := (c.s.die c.r.die).ident

/-- The state with the stream changed. -/
def Cx.update (c : Cx) (f : Stream → Stream) : State := c.s.modStream c.r f

/-! ### Reading operands -/

/-- The value of an operand in a lane, as a number of `w` bits (R53, R396, R397). An integer immediate is taken modulo
2^w (R54); a native literal supplies 64 bits sign-extended from bit 51, or its low bits. -/
def opndRead (st : Stream) (o : Opnd) (w lane : Nat) : Nat :=
  match o with
  | .val n => st.getWide (.val st.frame n) w lane
  | .int i => IntOps.wrap w i
  | .raw x => x % 2 ^ w
  | .idx n => n
  | .reg n => st.getWide (.reg n) w lane
  | .pred n => (st.get (.pred n)).lane lane % 2
  | .lit x => if w = 64 then IntOps.wrap 64 (IntOps.sext 52 x) else x % 2 ^ w

/-- The type of an operand's value, where it has one. -/
def opndType (st : Stream) (o : Opnd) : Nat :=
  match o with
  | .val n => (st.get (.val st.frame n)).ty
  | .int _ | .raw _ | .idx _ | .reg _ | .pred _ | .lit _ => tI32

/-- The location an operand names, for pending bits and poison. -/
def opndLocs (st : Stream) (o : Opnd) (w : Nat) : List Loc :=
  match o with
  | .val n => [.val st.frame n]
  | .reg n => locParts (.reg n) w
  | .pred n => [.pred n]
  | .int _ | .raw _ | .idx _ | .lit _ => []

/-- Source `k` of an instruction. -/
def srcOf (i : Ins) (k : Nat) : Opnd := (i.src[k]?).getD (.int 0)

/-- Source `k` in a lane, as `w` bits. -/
def Cx.arg (c : Cx) (i : Ins) (k w lane : Nat) : Nat := opndRead c.st (srcOf i k) w lane

/-- The pointer operand names global memory: its type (R238) or the native space bit (R488). -/
def Cx.isGlobal (c : Cx) (i : Ins) (k : Nat) : Bool :=
  match i.space with
  | some b => b
  | none => opndType c.st (srcOf i k) == tPtrG

/-- Width of an integer operand whose type the opcode leaves to the value (the index of lea, the offset of ptradd). A
native register carries no type: it is read as i32 (log entry 24). -/
def Cx.argBits (c : Cx) (i : Ins) (k : Nat) : Nat := tyBits (opndType c.st (srcOf i k))

/-! ### Guards -/

def guardHolds (st : Stream) (g : Guard) (lane : Nat) : Bool :=
  match g with
  | .always => true
  | .whenTrue o => opndRead st o 1 lane == 1
  | .whenFalse o => opndRead st o 1 lane == 0

/-- Lanes that are active and in which the guard holds (R58, R259). -/
def Cx.lanes (c : Cx) (i : Ins) : BitVec 32 :=
  match i.guard with
  | .always => c.st.active
  | g => maskOf fun l => c.st.active.getLsbD l && guardHolds c.st g l

/-- The lowest-numbered active lane (R59, R105). -/
def Cx.lead (c : Cx) : Nat := ((lanesOf c.st.active).head?).getD 0

/-- A stream-wide instruction is performed: the guard holds in the lowest active lane (R59). -/
def Cx.performs (c : Cx) (i : Ins) : Bool := guardHolds c.st i.guard c.lead

/-- A stream-wide operand: the value in the lowest active lane (R105). -/
def Cx.warg (c : Cx) (i : Ins) (k w : Nat) : Nat := c.arg i k w c.lead

/-! ### Results -/

/-- Where result `k`, of a type, goes; none where a native destination discards it (R395). -/
def Stream.dest (st : Stream) (i : Ins) (k ty : Nat) : Option Loc :=
  if st.native then
    match i.dst[k]? with
    | none => none
    | some d => if d = 255 then none else some (if ty = tI1 then .pred d else .reg d)
  else some (.val st.frame (st.nextVal + k))

/-- ORs exceptions into the sticky flags (R180, Table 4.2). -/
def Stream.orFlags (st : Stream) (f : BitVec 5) : Stream := { st with mode := st.mode ||| (f.setWidth 32 <<< (16 : Nat)) }

/-- The landings of a native result: one for each register of a pair (R411). -/
def landingsOf (dst : Loc) (m : BitVec 32) (v : TVal) (left : Nat) (var : Bool) : List Landing :=
  match dst with
  | .reg n =>
    if tyBits v.ty = 64 then
      [{ dst := .reg n, lanes := m, val := ⟨tI32, v.lanes.map fun (w : Word) => w &&& 0xFFFFFFFF⟩, left := left,
         var := var },
       { dst := .reg (n + 1), lanes := m, val := ⟨tI32, v.lanes.map fun (w : Word) => (w >>> (32 : Nat) : Word)⟩,
         left := left, var := var }]
    else [{ dst := dst, lanes := m, val := v, left := left, var := var }]
  | .val .. | .pred _ | .spill _ => [{ dst := dst, lanes := m, val := v, left := left, var := var }]

/-- Delivers one result: at once in the portable form (log entry 17); in the native form after its latency, pending
meanwhile when that is variable (R403, R404). -/
def Cx.deliver (c : Cx) (opc ty src : Nat) (st : Stream) (dst : Loc) (m : BitVec 32) (v : TVal) : Stream :=
  let cycles := if [0xDA, 0xE8, 0xFA].contains opc then st.recordCycles else variableLatency c.ident opc
  if st.native then
    let tag (x : Landing) : Landing := { x with ins := c.s.ticks * 8 + st.slot }
    if isFixed opc then
      { st with landings := st.landings ++ (landingsOf dst m v (fixedLatency c.ident opc ty src) false).map tag }
    else
      { st with
        landings := st.landings ++ (landingsOf dst m v cycles true).map tag
        pending := st.pending ++ locParts dst (tyBits v.ty) }
  else st.put dst m v

/-- Sets sticky flags: at once in the portable form; in the native form with the result's latency, as a landing of no
lane (R180, R403). -/
def Cx.raise (c : Cx) (opc ty src : Nat) (st : Stream) (flags : BitVec 5) : Stream :=
  if st.native && flags != 0 then
    let n := if isFixed opc then fixedLatency c.ident opc ty src else variableLatency c.ident opc
    let x : Landing := { dst := .reg 255, lanes := 0, val := ⟨tI32, []⟩, flags := flags, left := n
                         ins := c.s.ticks * 8 + st.slot }
    { st with landings := st.landings ++ [x] }
  else st.orFlags flags

/-- What one lane of an instruction gives: its results, the exceptions raised, and the new state of its generator. -/
structure LaneOut where
  vals : List Nat
  flags : BitVec 5 := 0
  rng : Option (BitVec 32) := none

/-- Fallback `k` of an instruction in a lane (R58). -/
def Cx.fall (c : Cx) (i : Ins) (k w lane : Nat) : Nat :=
  match i.falls[k]? with
  | some o => opndRead c.st o w lane
  | none => 0

/-- The lane words of result `k`: the lanes that execute take their own, the others their fallback. -/
def Cx.column (c : Cx) (i : Ins) (m : BitVec 32) (outs : List (Nat × LaneOut)) (k ty : Nat) : TVal :=
  ⟨ty, (List.range (laneCount c.r.idx)).map fun l =>
    if m.getLsbD l then BitVec.ofNat 64 ((((outs.lookup l).map LaneOut.vals).getD [])[k]?.getD 0)
    else BitVec.ofNat 64 (c.fall i k (tyBits ty) l)⟩

/-- Delivers the results of lanes `m`, and in the portable form the fallbacks of the other active lanes. -/
def Cx.deliverAll (c : Cx) (opc src : Nat) (i : Ins) (m : BitVec 32) (outs : List (Nat × LaneOut)) :
    Stream → Nat → List Nat → Stream
  | st, _, [] => st
  | st, k, ty :: tys =>
    let st :=
      match st.dest i k ty with
      | none => st
      | some d =>
        let w := if st.native then m else st.active
        if w = 0 then st else c.deliver opc i.form.toNat src st d w (c.column i m outs k ty)
    c.deliverAll opc src i m outs st (k + 1) tys

/-- The exceptions of all lanes. -/
def allFlags (outs : List (Nat × LaneOut)) : BitVec 5 := outs.foldl (fun f o => f ||| o.2.flags) 0

/-- Trap enables of the mode register (Table 4.2). -/
def trapEn (mode : BitVec 32) : BitVec 5 := mode.extractLsb' 8 5

/-- Replaces the generators of the lanes that advanced theirs (R174). -/
def newRng (rng : List (BitVec 32)) (outs : List (Nat × LaneOut)) : List (BitVec 32) :=
  outs.foldl (fun rng o => match o.2.rng with
    | some g => setAt rng o.1 g
    | none => rng) rng

/-- What a lane-wise instruction leaves in its stream: results, generators and sticky flags, and the stream has moved on. -/
def Cx.written (c : Cx) (opc : Nat) (i : Ins) (tys : List Nat) (m : BitVec 32) (outs : List (Nat × LaneOut)) (st : Stream) :
    Stream :=
  let st := c.deliverAll opc i.attr.srcTy i m outs st 0 tys
  (c.raise opc i.form.toNat i.attr.srcTy { st with rng := newRng st.rng outs } (allFlags outs)).retired

/-- The lanes that raise an exception whose trap is enabled (R180). -/
def Cx.trapping (c : Cx) (outs : List (Nat × LaneOut)) : List (Nat × LaneOut) :=
  outs.filter fun o => (o.2.flags &&& trapEn c.st.mode) != 0

/-- Ends a lane-wise instruction: an enabled exception traps (R180, R222), and nothing takes effect; otherwise results,
flags and generators are written and the stream moves on. -/
def Cx.finish (c : Cx) (opc : Nat) (i : Ins) (tys : List Nat) (m : BitVec 32) (outs : List (Nat × LaneOut)) : Out :=
  let bad := c.trapping outs
  if bad = [] then .next (c.update (c.written opc i tys m outs))
  else
    .next (c.s.takeTrap c.r { c.st.trapAt c.r.idx 0x1C with
      lanes := maskOfList (bad.map Prod.fst), value := (allFlags outs).toNat })

/-- What the lanes of a lane-wise instruction give. -/
def Cx.outs (c : Cx) (i : Ins) (f : Cx → Nat → LaneOut) : List (Nat × LaneOut) := (lanesOf (c.lanes i)).map fun l => (l, f c l)

/-- A lane-wise instruction: each executing lane's results are a function of its operands. -/
def lanewise (opc : Nat) (i : Ins) (s : State) (tys : List Nat) (f : Cx → Nat → LaneOut) : Out :=
  withCx s fun c => c.finish opc i tys (c.lanes i) (c.outs i f)

/-- A stream-wide instruction guarded off: each active lane receives its fallbacks, and the stream moves on (R59). -/
def Cx.guardedOff (c : Cx) (opc : Nat) (i : Ins) (tys : List Nat) : Out := c.finish opc i tys 0 []

/-- Ends a stream-wide instruction in a state: its results go to every active lane (R105), and the stream moves on. -/
def Cx.finishWide (c : Cx) (opc : Nat) (i : Ins) (tys vals : List Nat) (s : State) : State :=
  s.modStream c.r fun st =>
    (c.deliverAll opc 0 i st.active ((lanesOf st.active).map fun l => (l, { vals := vals })) st 0 tys).retired

/-- A trap of the instruction. -/
def Cx.trap (c : Cx) (code : Nat) : Out := .next (c.s.takeTrap c.r (c.st.trapAt c.r.idx code))

/-- The stream waits at the instruction. -/
def Cx.block (c : Cx) (w : Wait) : Out := .next (c.update fun st => st.blocked c.s.now w)

/-! ### Deferred codes (R37, R39, R255, R293) -/

/-- The trap of an atomic whose result is poisoned (R256): it names the atomic. -/
def Cx.trapPoison (c : Cx) (p : PoisonMark) : Out :=
  let s := c.update fun st => { st with poisoned := st.poisoned.erase p }
  .next (s.takeTrap c.r { c.st.trapAt c.r.idx 0x28 with
    issued := some p.issued, arg := p.fate, value := p.addr, lanes := p.lanes, place := p.place, tag := p.tag.toNat })

/-- The trap of a code that became due after its instruction. -/
def Cx.trapDue (c : Cx) (d : Deferred) : Out :=
  let s := c.update fun st => { st with due := st.due.erase d }
  .next (s.takeTrap c.r { c.st.trapAt c.r.idx d.code with
    issued := some d.issued, arg := d.cause, value := d.detail, chunk := d.chunk })

/-- Delivers what is due at a point that covers some paths, and otherwise goes on: ATOMIC_POISON on the AT path, then
the codes of R37 in the order in which they arose. -/
def Cx.unlessDue (c : Cx) (paths : List Nat) (go : Out) : Out :=
  match (if paths.contains 3 then c.st.poisoned else []) with
  | p :: _ => c.trapPoison p
  | [] =>
    match c.st.due.find? fun d => paths.contains d.path with
    | some d => c.trapDue d
    | none => go

/-! ### Fences -/

/-- A fence of a stream over some classes (R234), issued for its active lanes. -/
def Cx.fenceOf (c : Cx) (acq rel : Bool) (scope : Nat) (mask : BitVec 16) (lanes : BitVec 32) : State × Nat :=
  let a : Acc := { id := c.s.nextId, ref := c.r, asid := c.t.asid, kind := .fence mask, scope := scope, acq := acq
                   rel := rel, lanes := (lanesOf lanes).map fun l => { lane := l, va := 0 }
                   pos := ⟨c.st.func, c.st.off⟩, link := some (c.s.streamRef c.r), born := c.s.now }
  ({ c.s with nextId := c.s.nextId + 1, flights := c.s.flights ++ [a] }, a.id)

end Sys2Proof.Machine
end

