-- ==== Sys2Proof/Machine/FloatFmt.lean ====
section
/-! DEFINITION. Number formats and rounding (spec/06_float_engine.md, R164 to R179): the bit layouts of the
floating-point and narrow formats, exact values, and the one rounding function that every engine uses. -/
namespace Sys2Proof.Machine.Fp

/-- The five exceptions, bit positions of Table 4.3 (R126). -/
abbrev Flags := BitVec 5
/-- Invalid operation. -/
def fInv : Flags := 1#5
/-- Division by zero. -/
def fDz : Flags := 2#5
/-- Overflow. -/
def fOf : Flags := 4#5
/-- Underflow. -/
def fUf : Flags := 8#5
/-- Inexact. -/
def fInx : Flags := 16#5

/-- A number format: a floating-point type of Table 6.1 or the format a format word describes (R164, R167). -/
structure Fmt where
  width : Nat
  sign : Bool
  ebits : Nat
  mbits : Nat
  bias : Int
  /-- Specials policy: 0 IEEE-style, 1 one NaN code, 2 finite only (Table 6.2). -/
  spec : Nat
  /-- A member of the narrow family. -/
  narrow : Bool
  /-- Saturate on conversion to this format (Table 6.2, SAT). -/
  sat : Bool
  deriving DecidableEq, Repr

/-- binary16 (Table 6.1). -/
def f16 : Fmt := ⟨16, true, 5, 10, 15, 0, false, false⟩
/-- bfloat16 (Table 6.1). -/
def bf16 : Fmt := ⟨16, true, 8, 7, 127, 0, false, false⟩
/-- binary32 (Table 6.1). -/
def f32 : Fmt := ⟨32, true, 8, 23, 127, 0, false, false⟩
/-- binary64 (Table 6.1). -/
def f64 : Fmt := ⟨64, true, 11, 52, 1023, 0, false, false⟩

/-- Field `[hi:lo]` of a number. -/
def field (x hi lo : Nat) : Nat := x / 2 ^ lo % 2 ^ (hi + 1 - lo)

/-- SCALE of a format word: 0 none, 1 E8M0 per 32, 2 E8M0 per 16, 3 E4M3 per 16 (Table 6.2). -/
def scaleOf (fw : Nat) : Nat := field fw 19 18

/-- The format a format word describes, when the word is valid (R167, R170). -/
def narrowFmt (fw : Nat) : Option Fmt :=
  let w := field fw 3 0
  let s := field fw 4 4
  let e := field fw 7 5
  let b := field fw 15 8
  let sp := field fw 17 16
  if 2 ≤ w ∧ w ≤ 8 ∧ s + e ≤ w ∧ 1 ≤ w - s ∧ sp ≠ 3 ∧ (sp ≠ 0 ∨ (2 ≤ e ∧ 1 ≤ w - s - e)) ∧
      fw / 2 ^ 21 % 2 ^ 11 = 0 then
    some { width := w, sign := s = 1, ebits := e, mbits := w - s - e,
           bias := if b < 128 then (b : Int) else (b : Int) - 256,
           spec := sp, narrow := true, sat := field fw 20 20 = 1 }
  else none

/-- A decoded element. The payload of a NaN is its fraction, aligned below bit 52 whatever the format, so that
carrying it to another format keeps the top bits (R178). -/
inductive FVal where
  | nan (neg : Bool) (payload : Nat) (quiet : Bool)
  | inf (neg : Bool)
  | fin (neg : Bool) (mag : Nat) (exp : Int)
  deriving DecidableEq, Repr

/-- Any NaN. -/
def FVal.isNan : FVal → Bool
  | .nan .. => true
  | _ => false
/-- A signalling NaN. -/
def FVal.isSnan : FVal → Bool
  | .nan _ _ q => !q
  | _ => false
/-- An infinity. -/
def FVal.isInf : FVal → Bool
  | .inf _ => true
  | _ => false
/-- A zero of either sign. -/
def FVal.isZero : FVal → Bool
  | .fin _ m _ => m == 0
  | _ => false
/-- The sign bit. -/
def FVal.neg : FVal → Bool
  | .nan n _ _ => n
  | .inf n => n
  | .fin n _ _ => n
/-- The value with its sign bit set to `n`. -/
def FVal.withSign (x : FVal) (n : Bool) : FVal :=
  match x with
  | .nan _ p q => .nan n p q
  | .inf _ => .inf n
  | .fin _ m e => .fin n m e
/-- The value with its sign bit inverted. -/
def FVal.negate (x : FVal) : FVal := x.withSign (!x.neg)

/-- The value 1.0. -/
def FVal.one : FVal := .fin false 1 0
/-- The value +0.0. -/
def FVal.zero : FVal := .fin false 0 0

/-- The code of the largest finite magnitude (R169; Table 6.1). -/
def Fmt.maxMag (f : Fmt) : Nat :=
  match f.spec with
  | 0 => (2 ^ f.ebits - 1) * 2 ^ f.mbits - 1
  | 1 => 2 ^ (f.ebits + f.mbits) - 2
  | _ => 2 ^ (f.ebits + f.mbits) - 1

/-- The exponent of a unit of the lowest binade (and of the whole format when EXP = 0) (R164, R168). -/
def Fmt.qmin (f : Fmt) : Int := if f.ebits = 0 then -f.bias else 1 - f.bias - f.mbits

/-- The magnitude code `m` as `(mag, exp)`: its value is `mag · 2^exp` (R164, R168). -/
def Fmt.magValue (f : Fmt) (m : Nat) : Nat × Int :=
  let e := m / 2 ^ f.mbits
  if f.ebits = 0 ∨ e = 0 then (m, f.qmin)
  else (2 ^ f.mbits + m % 2 ^ f.mbits, f.qmin + (e - 1 : Nat))

/-- The canonical quiet NaN (Table 6.1) or the NaN code of a narrow format (R169). -/
def Fmt.nanCode (f : Fmt) : Nat :=
  if f.narrow then (if f.spec = 2 then 0 else 2 ^ (f.ebits + f.mbits) - 1)
  else (2 ^ f.ebits - 1) * 2 ^ f.mbits + 2 ^ (f.mbits - 1)

/-- The sign bit's weight for a negative element. -/
def Fmt.signBit (f : Fmt) (neg : Bool) : Nat := if f.sign && neg then 2 ^ (f.width - 1) else 0

/-- The code of an infinity (IEEE-style formats). -/
def Fmt.infCode (f : Fmt) (neg : Bool) : Nat := f.signBit neg + (2 ^ f.ebits - 1) * 2 ^ f.mbits

/-- Decode an element (R164, R168, R169). -/
def Fmt.decode (f : Fmt) (x : Nat) : FVal :=
  let neg := f.sign && x / 2 ^ (f.width - 1) % 2 == 1
  let m := x % 2 ^ (f.ebits + f.mbits)
  if m ≤ f.maxMag then
    let v := f.magValue m
    .fin neg v.1 v.2
  else if f.narrow then
    if f.spec = 0 ∧ m % 2 ^ f.mbits = 0 then .inf neg else .nan false (2 ^ 51) true
  else
    let frac := m % 2 ^ f.mbits
    if frac = 0 then .inf neg
    else .nan neg (frac * 2 ^ (52 - f.mbits)) (frac ≥ 2 ^ (f.mbits - 1))

/-- A subnormal code of a floating-point type (R164). -/
def Fmt.isSubnormal (f : Fmt) (x : Nat) : Bool :=
  let m := x % 2 ^ (f.ebits + f.mbits)
  m != 0 && decide (m < 2 ^ f.mbits)

/-- Decode under FTZI: a subnormal of a floating-point type reads as a zero of its sign (R177). -/
def Fmt.decodeFtz (f : Fmt) (ftzi : Bool) (x : Nat) : FVal :=
  if ftzi && !f.narrow && f.isSubnormal x then .fin (f.decode x).neg 0 0 else f.decode x

/-- The quieted NaN of a floating-point format with a sign and an aligned payload (R166, R178). -/
def Fmt.quietNan (f : Fmt) (neg : Bool) (payload : Nat) : Nat :=
  let frac := payload / 2 ^ (52 - f.mbits)
  f.infCode neg + (if frac ≥ 2 ^ (f.mbits - 1) then frac else frac + 2 ^ (f.mbits - 1))

/-- An exact non-NaN real: `mag · 2^exp`, or a value strictly between that and `(mag + 1) · 2^exp` when
`sticky`. A sticky value keeps more than 20 bits below the precision of its destination. -/
structure Exact where
  neg : Bool
  mag : Nat
  exp : Int
  sticky : Bool := false
  deriving DecidableEq, Repr

/-- floor(log2 |x|) of a non-zero value. -/
def floorLog2 (mag : Nat) (exp : Int) : Int := (Nat.log2 mag : Int) + exp

/-- Round a magnitude to a multiple of `2^q`: the multiple, and whether it differs from the magnitude (R173,
Table 6.4; R175 for stochastic rounding with the 16 random bits `u`). -/
def roundAt (rm u : Nat) (x : Exact) (q : Int) : Nat × Bool :=
  if q ≤ x.exp ∧ ¬ x.sticky then (x.mag * 2 ^ (x.exp - q).toNat, false)
  else
    -- A magnitude far below the grid keeps only the fact that it is not zero.
    let far : Bool := decide (floorLog2 x.mag x.exp < q - 40)
    let mag := if far then 1 else x.mag * 4 + (if x.sticky then 1 else 0)
    let sh := if far then 40 else (q - (x.exp - 2)).toNat
    let k := mag / 2 ^ sh
    let r := mag % 2 ^ sh
    if r = 0 then (k, false)
    else
      let up : Bool :=
        match rm with
        | 2 => false
        | 3 => !x.neg
        | 4 => x.neg
        | 5 => decide (2 * r ≥ 2 ^ sh)
        | 6 => decide (r * 2 ^ 16 / 2 ^ sh + u ≥ 2 ^ 16)
        | _ => decide (2 * r > 2 ^ sh) || (decide (2 * r = 2 ^ sh) && k % 2 == 1)
      (if up then k + 1 else k, true)

/-- The overflow result goes to infinity in these modes; stochastic rounding overflows as if it had rounded away
from zero (R175, R179). -/
def overflowsToInf (rm : Nat) (neg : Bool) : Bool :=
  match rm with
  | 2 => false
  | 3 => !neg
  | 4 => neg
  | _ => true

/-- Is a non-zero value tiny after rounding (R173, R179)? `k` is its rounding on the format's grid. With EXP = 0
tininess is judged on the exact value. Under rs the rounded value is the delivered one. -/
def tiny (f : Fmt) (rm u : Nat) (x : Exact) (k : Nat) : Bool :=
  let e := floorLog2 x.mag x.exp
  if f.ebits = 0 then decide (e < -f.bias)
  else if e ≥ 1 - f.bias then false
  else if rm = 6 then decide (k < 2 ^ f.mbits)
  else
    let r := roundAt rm u x (e - f.mbits)
    decide (floorLog2 r.1 (e - f.mbits) < 1 - f.bias)

/-- Round an exact value to a format (R173 to R179): the code and the flags. `sat` saturates an overflow; `ftzo`
flushes a subnormal result of a floating-point type. -/
def pack (f : Fmt) (rm u : Nat) (sat ftzo : Bool) (x : Exact) : Nat × Flags :=
  if x.mag = 0 ∧ ¬ x.sticky then (f.signBit x.neg, 0)
  else
    let e := floorLog2 x.mag x.exp
    let q := if f.ebits = 0 then f.qmin else max (e - f.mbits) f.qmin
    let kr := roundAt rm u x q
    let code := (q - f.qmin).toNat * 2 ^ f.mbits + kr.1
    if code > f.maxMag then
      let c := if sat || f.spec = 2 then f.signBit x.neg + f.maxMag
        else if f.spec = 1 then f.nanCode
        else if overflowsToInf rm x.neg then f.infCode x.neg
        else f.signBit x.neg + f.maxMag
      (c, fOf ||| fInx)
    else if ftzo && !f.narrow && decide (0 < code) && decide (code < 2 ^ f.mbits) then
      (f.signBit x.neg, fUf ||| fInx)
    else
      (f.signBit x.neg + code,
        if kr.2 then (if tiny f rm u x kr.1 then fInx ||| fUf else fInx) else 0)

/-- What a lane reads of the mode register and of the instruction when it computes (R125, R173, R183). -/
structure Env where
  /-- Rounding mode in use, 1 to 6. -/
  rm : Nat
  ftzi : Bool
  ftzo : Bool
  nsat : Bool
  /-- NaN propagation policy. -/
  nan : Nat
  /-- The instruction's saturate bit. -/
  sat : Bool
  deriving DecidableEq, Repr

/-- The NaN that R178 delivers in format `f` from the operands, taken in assembly order; none without a NaN. -/
def pickNan (f : Fmt) (policy : Nat) (ops : List FVal) : Option (Nat × Flags) :=
  let nans := ops.filter FVal.isNan
  match nans with
  | [] => none
  | first :: _ =>
    let fl : Flags := if nans.any FVal.isSnan then fInv else 0
    let chosen :=
      if policy = 2 then ((nans.find? fun x => !x.isSnan).getD first) else first
    match policy, chosen with
    | 1, _ => some (f.nanCode, fl)
    | _, .nan n p _ => some (f.quietNan n p, fl)
    | _, _ => some (f.nanCode, fl)

/-- `.sat` of a floating-point result: clamp to [+0.0, 1.0] after rounding; a NaN and −0.0 become +0.0 (R183). -/
def sat01 (f : Fmt) (sat : Bool) (x : Nat) : Nat :=
  if !sat then x
  else
    match f.decode x with
    | .nan .. => 0
    | .inf n => if n then 0 else (pack f 1 0 false false ⟨false, 1, 0, false⟩).1
    | .fin n m e =>
      if n then 0
      else if m ≠ 0 ∧ floorLog2 m e ≥ 0 then (pack f 1 0 false false ⟨false, 1, 0, false⟩).1
      else x

/-- A non-NaN value in format `f`: infinities as they are, zeros with their sign, others rounded (R185). -/
def deliver (f : Fmt) (v : Env) (u : Nat) (x : FVal) : Nat × Flags :=
  match x with
  | .nan .. => (f.nanCode, 0)
  | .inf n => (sat01 f v.sat (f.infCode n), 0)
  | .fin n m e =>
    let r := pack f v.rm u false v.ftzo ⟨n, m, e, false⟩
    (sat01 f v.sat r.1, r.2)

/-- The exact sum of non-NaN values, none for opposite infinities. An exact zero sum of operands of opposite sign
is +0, or −0 under rd; zeros of one sign keep it (R185). -/
def sumExact (rm : Nat) (xs : List FVal) : Option FVal :=
  let infs := xs.filter FVal.isInf
  match infs with
  | i :: rest => if rest.all (fun j => j.neg == i.neg) then some i else none
  | [] =>
    let nz := xs.filter (fun x => !x.isZero)
    let emin := nz.foldl (fun m x => match x with | .fin _ _ e => min m e | _ => m)
      (match nz with | .fin _ _ e :: _ => e | _ => 0)
    let s : Int := nz.foldl (fun a x => match x with
      | .fin n m e => a + (if n then -1 else 1) * ((m * 2 ^ (e - emin).toNat : Nat) : Int)
      | _ => a) 0
    if s ≠ 0 then some (.fin (decide (s < 0)) s.natAbs emin)
    else if nz.isEmpty then
      match xs with
      | [] => some FVal.zero
      | z :: zs => if zs.all (fun j => j.neg == z.neg) then some (.fin z.neg 0 0) else some (.fin (rm == 4) 0 0)
    else some (.fin (rm == 4) 0 0)

/-- The exact product of two non-NaN values; none for 0 × ∞ (R179). -/
def mulExact (x y : FVal) : Option FVal :=
  let s := x.neg != y.neg
  match x, y with
  | .fin _ m e, .fin _ m' e' => some (.fin s (m * m') (if m * m' = 0 then 0 else e + e'))
  | .fin _ m _, _ => if m = 0 then none else some (.inf s)
  | _, .fin _ m _ => if m = 0 then none else some (.inf s)
  | _, _ => some (.inf s)

/-- Compare two non-NaN values: -1, 0 or 1; −0 equals +0. -/
def order (x y : FVal) : Int :=
  match x, y with
  | .inf a, .inf b => if a = b then 0 else if a then -1 else 1
  | .inf a, _ => if a then -1 else 1
  | _, .inf b => if b then 1 else -1
  | _, _ =>
    match sumExact 1 [x, y.negate] with
    | some (.fin n m _) => if m = 0 then 0 else if n then -1 else 1
    | _ => 0

/-- One step of the stochastic generator: the new state and its 16 random bits (R174). -/
def rngStep (s : Nat) : Nat × Nat :=
  let a := s % 2 ^ 32
  let b := a ^^^ (a * 2 ^ 13 % 2 ^ 32)
  let c := b ^^^ (b / 2 ^ 17)
  let d := c ^^^ (c * 2 ^ 5 % 2 ^ 32)
  (d, d / 2 ^ 16)

/-- The generator of lane `l` of stream `i` at the placement of a team (R174). -/
def rngSeed (i l : Nat) : Nat := (32 * i + l + 1) * 0x9E3779B9 % 2 ^ 32

/-- Integer square root by bits, from bit `n - 1` down: the largest `r` with `r² ≤ x`. -/
def isqrtAux (x : Nat) : Nat → Nat → Nat
  | 0, r => r
  | n + 1, r => let t := r + 2 ^ n; if t * t ≤ x then isqrtAux x n t else isqrtAux x n r
/-- Integer square root. -/
def isqrt (x : Nat) : Nat := isqrtAux x (Nat.log2 x / 2 + 1) 0

/-- Integer cube root by bits. -/
def icbrtAux (x : Nat) : Nat → Nat → Nat
  | 0, r => r
  | n + 1, r => let t := r + 2 ^ n; if t * t * t ≤ x then icbrtAux x n t else icbrtAux x n r
/-- Integer cube root. -/
def icbrt (x : Nat) : Nat := icbrtAux x (Nat.log2 x / 3 + 1) 0

end Sys2Proof.Machine.Fp
end

