-- ==== Sys2Proof/Machine/FloatOps.lean ====
section
/-! DEFINITION. The float engine's operations on one element (spec/06_float_engine.md, R185 to R201): codes in,
a code and the flags out. The special functions are in `Machine/Special.lean`, the meanings in
`Machine/Float.lean`. -/
namespace Sys2Proof.Machine.Fp

/-- Exact sum of products and addends, rounded once: add, sub, mul, fma, fnma, fmaw, dot2, dot4n (R185, R186,
R198). `ops` are the operands in assembly order, for the NaN rules (R178); 0 × ∞ is invalid even beside a NaN
(R179), opposite infinities are not: log entry 106 (DEDUCED). -/
def fused (f : Fmt) (v : Env) (u : Nat) (ops : List FVal) (prods : List (FVal × FVal)) (adds : List FVal) :
    Nat × Flags :=
  let zeroInf := prods.any fun p => (p.1.isZero && p.2.isInf) || (p.1.isInf && p.2.isZero)
  let fl : Flags := if zeroInf then fInv else 0
  match pickNan f v.nan ops with
  | some (c, g) => (sat01 f v.sat c, g ||| fl)
  | none =>
    if zeroInf then (sat01 f v.sat f.nanCode, fInv)
    else
      match sumExact v.rm (prods.map (fun p => (mulExact p.1 p.2).getD .zero) ++ adds) with
      | none => (sat01 f v.sat f.nanCode, fInv)
      | some s => deliver f v u s

/-- add (R185). -/
def add (f : Fmt) (v : Env) (u a b : Nat) : Nat × Flags :=
  let x := f.decodeFtz v.ftzi a
  let y := f.decodeFtz v.ftzi b
  fused f v u [x, y] [] [x, y]
/-- sub (R185). -/
def sub (f : Fmt) (v : Env) (u a b : Nat) : Nat × Flags :=
  let x := f.decodeFtz v.ftzi a
  let y := f.decodeFtz v.ftzi b
  fused f v u [x, y] [] [x, y.negate]
/-- mul (R185). -/
def mul (f : Fmt) (v : Env) (u a b : Nat) : Nat × Flags :=
  let x := f.decodeFtz v.ftzi a
  let y := f.decodeFtz v.ftzi b
  fused f v u [x, y] [(x, y)] []
/-- fma, and fmaw with operands of a narrower format `g` (R185, R186). -/
def fma (g f : Fmt) (v : Env) (u a b c : Nat) : Nat × Flags :=
  let x := g.decodeFtz v.ftzi a
  let y := g.decodeFtz v.ftzi b
  let z := f.decodeFtz v.ftzi c
  fused f v u [x, y, z] [(x, y)] [z]
/-- fnma (R185). -/
def fnma (f : Fmt) (v : Env) (u a b c : Nat) : Nat × Flags :=
  let x := f.decodeFtz v.ftzi a
  let y := f.decodeFtz v.ftzi b
  let z := f.decodeFtz v.ftzi c
  fused f v u [x, y, z] [(x.negate, y)] [z]
/-- dot2: two exact products and the addend, one rounding (R186). -/
def dot2 (g : Fmt) (v : Env) (u a b c : Nat) : Nat × Flags :=
  let a0 := g.decodeFtz v.ftzi (a % 2 ^ 16)
  let a1 := g.decodeFtz v.ftzi (a / 2 ^ 16 % 2 ^ 16)
  let b0 := g.decodeFtz v.ftzi (b % 2 ^ 16)
  let b1 := g.decodeFtz v.ftzi (b / 2 ^ 16 % 2 ^ 16)
  let z := f32.decodeFtz v.ftzi c
  fused f32 v u [a0, a1, b0, b1, z] [(a0, b0), (a1, b1)] [z]
/-- lerp: `a + t (b − a)` with an exact inner expression (R186). -/
def lerp (f : Fmt) (v : Env) (u a b t : Nat) : Nat × Flags :=
  let x := f.decodeFtz v.ftzi a
  let y := f.decodeFtz v.ftzi b
  let z := f.decodeFtz v.ftzi t
  if x.isNan || y.isNan then fused f v u [x, y, z] [] [x, y, z]
  else
    match sumExact v.rm [y, x.negate] with
    | none =>
      match pickNan f v.nan [x, y, z] with
      | some (c, g) => (sat01 f v.sat c, g)
      | none => (sat01 f v.sat f.nanCode, fInv)
    | some d => fused f v u [x, y, z] [(z, d)] [x]

/-- The quotient of two non-NaN values, correctly rounded (R187); 0 ÷ 0 and ∞ ÷ ∞ invalid, a finite non-zero value
over zero raises division by zero (R179). -/
def quotient (f : Fmt) (v : Env) (u : Nat) (x y : FVal) : Nat × Flags :=
  let s := x.neg != y.neg
  match x, y with
  | .fin _ m e, .fin _ m' e' =>
    if m' = 0 then
      if m = 0 then (sat01 f v.sat f.nanCode, fInv) else (sat01 f v.sat (f.infCode s), fDz)
    else if m = 0 then deliver f v u (.fin s 0 0)
    else
      let k := f.mbits + 28 + Nat.log2 m'
      let r := pack f v.rm u false v.ftzo ⟨s, m * 2 ^ k / m', e - e' - k, m * 2 ^ k % m' != 0⟩
      (sat01 f v.sat r.1, r.2)
  | .fin .., _ => deliver f v u (.fin s 0 0)
  | _, .fin .. => deliver f v u (.inf s)
  | _, _ => (sat01 f v.sat f.nanCode, fInv)

/-- div (R187). -/
def div (f : Fmt) (v : Env) (u a b : Nat) : Nat × Flags :=
  let x := f.decodeFtz v.ftzi a
  let y := f.decodeFtz v.ftzi b
  match pickNan f v.nan [x, y] with
  | some (c, g) => (sat01 f v.sat c, g)
  | none => quotient f v u x y
/-- rcp is div of 1.0 (R187). -/
def rcp (f : Fmt) (v : Env) (u a : Nat) : Nat × Flags :=
  let x := f.decodeFtz v.ftzi a
  match pickNan f v.nan [x] with
  | some r => r
  | none => quotient f v u .one x
/-- sqrt, correctly rounded; the canonical NaN with invalid below −0 (R187). -/
def sqrt (f : Fmt) (v : Env) (u a : Nat) : Nat × Flags :=
  let x := f.decodeFtz v.ftzi a
  match pickNan f v.nan [x] with
  | some r => r
  | none =>
    match x with
    | .fin n m e =>
      if m = 0 then deliver f v u x
      else if n then (f.nanCode, fInv)
      else
        let k := 2 * (f.mbits + 30) + (e % 2).toNat
        let t := m * 2 ^ k
        let r := isqrt t
        pack f v.rm u false v.ftzo ⟨false, r, (e - k) / 2, r * r != t⟩
    | .inf n => if n then (f.nanCode, fInv) else deliver f v u x
    | .nan .. => (f.nanCode, 0)

/-- One of two operands with the NaN rules of min and max (R188); the result keeps the operand's code as read
under FTZI. -/
def pick (f : Fmt) (v : Env) (nanVar isMax : Bool) (x y : FVal) : FVal × Flags :=
  let fl : Flags := if x.isSnan || y.isSnan then fInv else 0
  let q (z : FVal) : FVal := match z with | .nan n p _ => .nan n p true | _ => z
  if x.isNan || y.isNan then
    if !nanVar && !(x.isNan && y.isNan) then (if x.isNan then y else x, fl)
    else
      let ops := if nanVar then [x, y] else [q x, q y]
      match pickNan f v.nan ops with
      | some (c, _) => (f.decode c, fl)
      | none => (x, fl)
  else
    let o := order x y
    let o' : Int := if o = 0 ∧ x.isZero ∧ y.isZero then
      (if x.neg then 1 else 0) * (-1) + (if y.neg then 1 else 0) else o
    (if (if isMax then decide (o' ≥ 0) else decide (o' ≤ 0)) then x else y, fl)

/-- The code of a value that stands in the format already (no rounding). -/
def codeOf (f : Fmt) (x : FVal) : Nat :=
  match x with
  | .nan n p q => if q then f.quietNan n p else f.infCode n + p / 2 ^ (52 - f.mbits)
  | .inf n => f.infCode n
  | .fin n m e => (pack f 2 0 false false ⟨n, m, e, false⟩).1

/-- Fold of min or max over operands (R188): `steps` says which of the two each further operand takes. -/
def pickSeq (f : Fmt) (v : Env) (nanVar : Bool) (x : FVal) (steps : List (Bool × FVal)) : Nat × Flags :=
  let r := steps.foldl (fun acc st =>
    let p := pick f v nanVar st.1 acc.1 st.2
    (p.1, acc.2 ||| p.2)) (x, (0 : Flags))
  (codeOf f r.1, r.2)

/-- min and max (R188). -/
def minmax (f : Fmt) (v : Env) (nanVar isMax : Bool) (a b : Nat) : Nat × Flags :=
  pickSeq f v nanVar (f.decodeFtz v.ftzi a) [(isMax, f.decodeFtz v.ftzi b)]
/-- amax: the larger magnitude (R188). -/
def amax (f : Fmt) (v : Env) (nanVar : Bool) (a b : Nat) : Nat × Flags :=
  pickSeq f v nanVar ((f.decodeFtz v.ftzi a).withSign false) [(true, (f.decodeFtz v.ftzi b).withSign false)]
/-- max3 and min3 (R188). -/
def minmax3 (f : Fmt) (v : Env) (nanVar isMax : Bool) (a b c : Nat) : Nat × Flags :=
  pickSeq f v nanVar (f.decodeFtz v.ftzi a)
    [(isMax, f.decodeFtz v.ftzi b), (isMax, f.decodeFtz v.ftzi c)]
/-- clamp = min(max(a, lo), hi) (R188). -/
def clamp (f : Fmt) (v : Env) (nanVar : Bool) (a lo hi : Nat) : Nat × Flags :=
  pickSeq f v nanVar (f.decodeFtz v.ftzi a)
    [(true, f.decodeFtz v.ftzi lo), (false, f.decodeFtz v.ftzi hi)]

/-- neg inverts the sign bit, NaNs included (R189). -/
def neg (f : Fmt) (a : Nat) : Nat := (a + 2 ^ (f.width - 1)) % 2 ^ f.width
/-- abs clears the sign bit (R189). -/
def abs (f : Fmt) (a : Nat) : Nat := a % 2 ^ (f.width - 1)
/-- copysign: `a` with the sign of `b` (R189). -/
def copysign (f : Fmt) (a b : Nat) : Nat :=
  a % 2 ^ (f.width - 1) + b / 2 ^ (f.width - 1) % 2 * 2 ^ (f.width - 1)
/-- canon (R189). -/
def canon (f : Fmt) (v : Env) (a : Nat) : Nat × Flags :=
  match f.decode a with
  | .nan _ _ q => (f.nanCode, if q then 0 else fInv)
  | x => if (v.ftzi || v.ftzo) && f.isSubnormal a then (f.signBit x.neg, 0) else (a % 2 ^ f.width, 0)

/-- The comparisons of Table 6.9 (R190). -/
def cmp (f : Fmt) (v : Env) (cc a b : Nat) : Bool × Flags :=
  let x := f.decodeFtz v.ftzi a
  let y := f.decodeFtz v.ftzi b
  let un := x.isNan || y.isNan
  let fl : Flags := if x.isSnan || y.isSnan || (un && 2 ≤ cc && cc ≤ 5) then fInv else 0
  let o := order x y
  let r : Bool :=
    if un then cc == 1 || cc == 6
    else
      match cc with
      | 0 => decide (o = 0)
      | 1 => decide (o ≠ 0)
      | 2 => decide (o < 0)
      | 3 => decide (o ≤ 0)
      | 4 => decide (o > 0)
      | 5 => decide (o ≥ 0)
      | 6 => false
      | _ => true
  (r, fl)

/-- The class bit of R191 of a code, read without FTZI. -/
def classBit (f : Fmt) (a : Nat) : Nat :=
  match f.decode a with
  | .nan _ _ q => if q then 1 else 0
  | .inf n => if n then 2 else 9
  | .fin n m _ =>
    if m = 0 then (if n then 5 else 6)
    else if f.isSubnormal a then (if n then 4 else 7) else (if n then 3 else 8)

/-- cvt from float to float, pack2 and unpack2's element rule (R192, R197; NaNs as R178). -/
def convert (g f : Fmt) (v : Env) (u a : Nat) : Nat × Flags :=
  let x := g.decodeFtz v.ftzi a
  match pickNan f v.nan [x] with
  | some r => r
  | none => deliver f v u x

/-- Round a finite value to an integer (R193, R199): the integer and whether it differs. -/
def toIntegral (rm u : Nat) (neg : Bool) (mag : Nat) (exp : Int) : Int × Bool :=
  if mag = 0 then (0, false)
  else
    let r := roundAt rm u ⟨neg, mag, exp, false⟩ 0
    (if neg then -(r.1 : Int) else r.1, r.2)

/-- cvt from float to integer of `w` bits (R193). -/
def toInt (g : Fmt) (v : Env) (sx : Bool) (w u a : Nat) : Nat × Flags :=
  let lo : Int := if sx then -(2 ^ (w - 1) : Nat) else 0
  let hi : Int := if sx then (2 ^ (w - 1) : Nat) - 1 else (2 ^ w : Nat) - 1
  let out (z : Int) : Nat := (z % (2 ^ w : Nat)).toNat
  match g.decodeFtz v.ftzi a with
  | .nan .. => (0, fInv)
  | .inf n => (out (if n then lo else hi), fInv)
  | .fin n m e =>
    let r := toIntegral v.rm u n m e
    if r.1 < lo then (out lo, fInv)
    else if r.1 > hi then (out hi, fInv)
    else (out r.1, if r.2 then fInx else 0)

/-- cvt from a `w`-bit integer to float (R194). -/
def fromInt (f : Fmt) (v : Env) (sx : Bool) (w u a : Nat) : Nat × Flags :=
  let m := a % 2 ^ w
  let neg := sx && decide (m ≥ 2 ^ (w - 1))
  deliver f v u (.fin neg (if neg then 2 ^ w - m else m) 0)

/-- One element of cvt.nf and pack4 (R195): `x` is the source read under FTZI. -/
def toNarrow (nf : Fmt) (v : Env) (u : Nat) (x : FVal) : Nat × Flags :=
  let sat := v.sat || nf.sat || v.nsat || nf.spec == 2
  match x with
  | .nan _ _ q => (nf.nanCode, if !q || nf.spec == 2 then fInv else 0)
  | .inf n =>
    if n && !nf.sign then (0, fInv)
    else if nf.spec == 0 && !sat then (nf.infCode n, 0)
    else if sat then (nf.signBit n + nf.maxMag, fInv)
    else (nf.nanCode, fInv)
  | .fin n m e =>
    if n && !nf.sign then (0, if m = 0 then 0 else fInv)
    else pack nf v.rm u sat false ⟨n, m, e, false⟩

/-- One element of cvt from nf and unpack4 (R196). -/
def fromNarrow (nf f : Fmt) (v : Env) (u code : Nat) : Nat × Flags :=
  match nf.decode code with
  | .nan .. => (f.nanCode, 0)
  | x => deliver f { v with sat := false } u x

/-- Element `k` of an nf word; an element that would extend beyond bit 31 reads as 0 (R196). -/
def element (w x k : Nat) : Nat := if w * (k + 1) ≤ 32 then x / 2 ^ (w * k) % 2 ^ w else 0

/-- dot4n (R198). -/
def dot4n (nf : Fmt) (v : Env) (u a b c : Nat) : Nat × Flags :=
  let ea := (List.range 4).map fun k => nf.decode (element nf.width a k)
  let eb := (List.range 4).map fun k => nf.decode (element nf.width b k)
  let z := f32.decodeFtz v.ftzi c
  fused f32 v u (ea ++ eb ++ [z]) (ea.zip eb) [z]

/-- rnd: an integral value of the same type; only a signalling NaN raises a flag (R199). -/
def rnd (f : Fmt) (v : Env) (u a : Nat) : Nat × Flags :=
  let x := f.decodeFtz v.ftzi a
  match pickNan f v.nan [x] with
  | some r => r
  | none =>
    match x with
    | .fin n m e =>
      let r := toIntegral v.rm u n m e
      ((pack f 2 0 false false ⟨n, r.1.natAbs, 0, false⟩).1, 0)
    | _ => (codeOf f x, 0)

/-- fract (R199): the exact difference to the floor, to nearest even, below 1.0. -/
def fract (f : Fmt) (v : Env) (a : Nat) : Nat × Flags :=
  let x := f.decodeFtz v.ftzi a
  match pickNan f v.nan [x] with
  | some r => r
  | none =>
    match x with
    | .fin n m e =>
      let fl := (toIntegral 4 0 n m e).1
      let d := (sumExact 1 [x, .fin (decide (fl > 0)) fl.natAbs 0]).getD .zero
      let d' := d.withSign false
      let top : FVal := .fin false (2 ^ (f.mbits + 1) - 1) (-((f.mbits : Int) + 1))
      if order d' top ≥ 0 then (codeOf f top, if order d' top > 0 then fInx else 0)
      else
        match d' with
        | .fin _ dm de => pack f 1 0 false v.ftzo ⟨false, dm, de, false⟩
        | _ => (0, 0)
    | _ => (f.nanCode, fInv)

/-- Scale a value by `2^n`: ldexp and scl's core (R200, R201). -/
def scaleBy (f : Fmt) (v : Env) (u a : Nat) (n : Int) : Nat × Flags :=
  let x := f.decodeFtz v.ftzi a
  match pickNan f v.nan [x] with
  | some r => r
  | none =>
    match x with
    | .fin s m e => deliver f v u (.fin s m (if m = 0 then 0 else e + n))
    | _ => deliver f v u x

/-- frexp: `m` and the 32-bit `e` (R200). -/
def frexp (f : Fmt) (v : Env) (a : Nat) : Nat × Nat × Flags :=
  let x := f.decodeFtz v.ftzi a
  match pickNan f v.nan [x] with
  | some (c, fl) => (c, 0, fl)
  | none =>
    match x with
    | .fin s m e =>
      if m = 0 then (f.signBit s, 0, 0)
      else
        let k := floorLog2 m e + 1
        ((pack f 2 0 false false ⟨s, m, e - k, false⟩).1, (k % (2 ^ 32 : Nat)).toNat, 0)
    | _ => (codeOf f x, 0, 0)

/-- The largest exponent of a normal element of a narrow format (R201). -/
def emaxOf (nf : Fmt) : Int :=
  if nf.ebits = 0 then (nf.mbits : Int) - 1 - nf.bias
  else if nf.spec = 0 then (2 ^ nf.ebits - 2 : Nat) - nf.bias
  else (2 ^ nf.ebits - 1 : Nat) - nf.bias

/-- scx: the E8M0 scale code for a block's largest magnitude (R201); 255 for a format word that is not valid, log entry
105 (DEDUCED). -/
def scx (f : Fmt) (v : Env) (fw a : Nat) : Nat × Flags :=
  match narrowFmt fw with
  | none => (255, fInv)
  | some nf =>
    match f.decodeFtz v.ftzi a with
    | .nan _ _ q => (255, if q then 0 else fInv)
    | .inf _ => (255, 0)
    | .fin _ m e =>
      if m = 0 then (0, 0)
      else ((min (max (floorLog2 m e - emaxOf nf + 127) 0) 254).toNat, 0)
/-- scl: scale by `2^(c − 127)`; the canonical NaN for the code 255 (R201). -/
def scl (f : Fmt) (v : Env) (u a s : Nat) : Nat × Flags :=
  let c := s % 256
  if c = 255 then (f.nanCode, if (f.decode a).isSnan then fInv else 0)
  else scaleBy f v u a ((c : Int) - 127)

end Sys2Proof.Machine.Fp
end

