-- ==== Sys2Proof/Machine/Special.lean ====
section
/-! DEFINITION. The special functions and rsqrt (spec/06_float_engine.md, R187, R202, R203). Special values are exact.
Every other result is the free value of `Config.specialValue` where that lies within the bound of Table 6.11 of the
exact value, and the exact value rounded to nearest where it does not, so a result is constrained by the bound and by
nothing else. The exact value is computed in fixed point with far more bits than the bound needs (log entry 6). -/
namespace Sys2Proof.Machine.Fp

/-- A dyadic real `num · 2^exp`. -/
structure Dy where
  num : Int
  exp : Int
  deriving DecidableEq, Repr

/-- Working precision in bits for a format: its subnormals and the intermediate sums lie far above it. -/
def workBits (f : Fmt) : Nat :=
  if f.width = 64 then 3072 else if f.ebits = 5 then 512 else 1024

/-- Product of two numbers in fixed point with `p` fraction bits. -/
def fxMul (p : Nat) (a b : Int) : Int := a * b / (2 ^ p : Nat)
/-- Quotient in fixed point. -/
def fxDiv (p : Nat) (a b : Int) : Int := a * (2 ^ p : Nat) / b
/-- One in fixed point. -/
def fxOne (p : Nat) : Int := (2 ^ p : Nat)
/-- Square root in fixed point of a non-negative number. -/
def fxSqrt (p : Nat) (a : Int) : Int := (isqrt (a.toNat * 2 ^ p) : Int)
/-- A real `± mag · 2^exp` in fixed point. -/
def fxOf (p : Nat) (neg : Bool) (mag : Nat) (exp : Int) : Int :=
  let e := exp + p
  let m : Nat := if e ≥ 0 then mag * 2 ^ e.toNat else mag / 2 ^ (-e).toNat
  if neg then -(m : Int) else m

/-- Sum over odd powers `z^(2j+1)/(2j+1)`, with alternating signs when `alt`. -/
def oddSeries (p : Nat) (z2 : Int) (alt : Bool) : Nat → Nat → Int → Int → Int
  | 0, _, _, acc => acc
  | fuel + 1, j, zp, acc =>
    let t := zp / ((2 * j + 1 : Nat) : Int)
    oddSeries p z2 alt fuel (j + 1) (fxMul p zp z2) (if alt && j % 2 == 1 then acc - t else acc + t)

/-- `2 atanh z` for `0 ≤ z ≤ 1/3`. -/
def atanh2 (p : Nat) (z : Int) : Int := 2 * oddSeries p (fxMul p z z) false (p / 3 + 10) 0 z 0
/-- ln 2. -/
def ln2 (p : Nat) : Int := atanh2 p (fxOne p / 3)
/-- atan of a small argument by its series. -/
def atanSmall (p : Nat) (z : Int) : Int := oddSeries p (fxMul p z z) true (p / 4 + 10) 0 z 0
/-- π, by Machin's formula. -/
def pi (p : Nat) : Int := 16 * atanSmall p (fxOne p / 5) - 4 * atanSmall p (fxOne p / 239)

/-- Taylor series of exp. -/
def expSeries (p : Nat) (r : Int) : Nat → Nat → Int → Int → Int
  | 0, _, _, acc => acc
  | fuel + 1, j, t, acc => expSeries p r fuel (j + 1) (fxMul p t r / ((j + 1 : Nat) : Int)) (acc + t)
/-- `n` squarings. -/
def squarings (p : Nat) : Nat → Int → Int
  | 0, x => x
  | n + 1, x => squarings p n (fxMul p x x)
/-- e^t. -/
def expDy (p : Nat) (t : Int) : Dy :=
  let l := ln2 p
  let n := t / l
  let r := t - n * l
  ⟨squarings p 8 (expSeries p (r / 256) (p / 8 + 20) 0 (fxOne p) 0), n - p⟩
/-- ln of `mag · 2^exp`, `mag` not zero. -/
def lnFx (p mag : Nat) (exp : Int) : Int :=
  let k := Nat.log2 mag
  let m := fxOf p false mag (-(k : Int))
  floorLog2 mag exp * ln2 p + atanh2 p (fxDiv p (m - fxOne p) (m + fxOne p))

/-- Taylor series of sine (from `t`, `j = 1`) and cosine (from 1, `j = 0`). -/
def trigSeries (p : Nat) (z2 : Int) : Nat → Nat → Int → Int → Int
  | 0, _, _, acc => acc
  | fuel + 1, j, t, acc =>
    trigSeries p z2 fuel (j + 2) (-(fxMul p t z2) / (((j + 1) * (j + 2) : Nat) : Int)) (acc + t)
/-- An argument reduced to [−π, π). -/
def reduce (p : Nat) (t : Int) : Int :=
  let tp := 2 * pi p
  let r := t % tp
  if r > pi p then r - tp else r
/-- Sine. -/
def sinFx (p : Nat) (t : Int) : Int :=
  let r := reduce p t
  trigSeries p (fxMul p r r) (p / 4 + 40) 1 r 0
/-- Cosine. -/
def cosFx (p : Nat) (t : Int) : Int :=
  let r := reduce p t
  trigSeries p (fxMul p r r) (p / 4 + 40) 0 (fxOne p) 0

/-- One halving of an arc tangent's argument. -/
def atanHalve (p : Nat) (z : Int) : Int := fxDiv p z (fxOne p + fxSqrt p (fxOne p + fxMul p z z))
/-- atan of a non-negative argument. -/
def atanFx (p : Nat) (z : Int) : Int :=
  let base (y : Int) : Int := 8 * atanSmall p (atanHalve p (atanHalve p (atanHalve p y)))
  if z > fxOne p then pi p / 2 - base (fxDiv p (fxOne p) z) else base z

/-- The sum Σ x^(2n+1)/(2n+1)!!. -/
def oddFactorialSeries (p : Nat) (x2 : Int) : Nat → Nat → Int → Int → Int
  | 0, _, _, acc => acc
  | fuel + 1, j, t, acc =>
    oddFactorialSeries p x2 fuel (j + 1) (fxMul p t x2 / ((2 * j + 3 : Nat) : Int)) (acc + t)
/-- A dyadic in fixed point. -/
def Dy.toFx (p : Nat) (d : Dy) : Int := fxOf p (decide (d.num < 0)) d.num.natAbs d.exp
/-- The standard normal distribution function, for |x| ≤ 40: at most 2^1155 in its series, and its value at least
2^−1160, both well within the working precision of f64. -/
def phiFx (p : Nat) (x : Int) : Int :=
  let e := (expDy p (-(fxMul p x x) / 2)).toFx p
  let c := fxDiv p e (fxSqrt p (2 * pi p))
  fxOne p / 2 + fxMul p c (oddFactorialSeries p (fxMul p x x) 4000 0 x 0)

/-- A value in fixed point kept strictly below 1: the functions that approach 1 do not reach it. -/
def below1 (p : Nat) (v : Int) : Int := min v (fxOne p - 1)

/-- 1/(1 + e^(−x)), for |x| < 2^12. -/
def sigmFx (p : Nat) (x : Int) : Int :=
  let e := (expDy p (-x)).toFx p
  below1 p (fxDiv p (fxOne p) (fxOne p + e))

/-- |x| ≥ 2^12. -/
def isLarge (mag : Nat) (exp : Int) : Bool := mag != 0 && decide (floorLog2 mag exp ≥ 12)

/-- A vanishing value of a sign: below every subnormal. -/
def vanish (p : Nat) (neg : Bool) : Dy := ⟨if neg then -1 else 1, -(4 * p : Nat)⟩
/-- A value beyond every finite number. -/
def huge (neg : Bool) : Dy := ⟨if neg then -1 else 1, 5000⟩
/-- `± mag · 2^exp`, less a part of it far below every unit in the last place. -/
def justBelow (p : Nat) (neg : Bool) (mag : Nat) (exp : Int) : Dy :=
  let m : Int := mag * 2 ^ p - 1
  ⟨if neg then -m else m, exp - p⟩

/-- A finite value is an integer; the second component says that it is odd. -/
def integrality (mag : Nat) (exp : Int) : Bool × Bool :=
  if mag = 0 then (true, false)
  else if exp ≥ 1 then (true, false)
  else
    let s := (-exp).toNat
    if s > Nat.log2 mag then (false, false) else (mag % 2 ^ s == 0, mag / 2 ^ s % 2 == 1 && mag % 2 ^ s == 0)

/-- The value of a one-operand function on a finite non-special operand: exact where the function gives a dyadic number
(exp2 of an integer, log2 of a power of two, roots of squares and cubes), and elsewhere to working precision on the
side of every dyadic number on which it lies. -/
def exactOf (fn : SpecialFn) (p : Nat) (neg : Bool) (mag : Nat) (exp : Int) : Dy :=
  let x := fxOf p neg mag exp
  let ax := fxOf p false mag exp
  let fx (v : Int) : Dy := if v = 0 then vanish p neg else ⟨v, -(p : Int)⟩
  let odd (v : Int) : Dy := fx (if neg then -v else v)
  let big := isLarge mag exp
  let tiny : Bool := decide (floorLog2 mag exp < -(p : Int) / 4)
  match fn with
  | .rsqrt =>
    let e2 := exp - exp % 2
    let m := mag * 2 ^ (exp % 2).toNat
    let n := 2 ^ (2 * p + 2 * Nat.log2 m)
    let r := isqrt (n / m)
    ⟨2 * r + (if r * r * m = n then 0 else 1), -(p : Int) - Nat.log2 m - e2 / 2 - 1⟩
  | .exp2 =>
    if big then (if neg then vanish p false else huge false)
    else if (integrality mag exp).1 then ⟨1, x / fxOne p⟩ else expDy p (fxMul p x (ln2 p))
  | .exp => if big then (if neg then vanish p false else huge false) else expDy p x
  | .log2 => if mag = 2 ^ Nat.log2 mag then ⟨floorLog2 mag exp, 0⟩ else fx (fxDiv p (lnFx p mag exp) (ln2 p))
  | .log => fx (lnFx p mag exp)
  | .sin => if tiny then justBelow p neg mag exp else fx (sinFx p x)
  | .cos => fx (cosFx p x)
  | .tanh =>
    if tiny then justBelow p neg mag exp
    else if big then odd (fxOne p - 1)
    else
      let t := (expDy p (2 * ax)).toFx p
      odd (below1 p (fxDiv p (t - fxOne p) (t + fxOne p)))
  | .sigm => if big then (if neg then vanish p false else ⟨fxOne p - 1, -(p : Int)⟩) else fx (sigmFx p x)
  | .erf =>
    if isLarge mag (exp + 9) then odd (fxOne p - 1)
    else odd (below1 p (2 * phiFx p (fxMul p ax (fxSqrt p (2 * fxOne p))) - fxOne p))
  | .gelu =>
    if big || decide (40 * fxOne p ≤ ax) then (if neg then vanish p true else justBelow p false mag exp)
    else fx (fxMul p x (below1 p (phiFx p x)))
  | .geluTanh =>
    if isLarge mag (exp + 7) then (if neg then vanish p true else justBelow p false mag exp)
    else
      let k := fxSqrt p (fxDiv p (2 * fxOne p) (pi p))
      let y := fxMul p k (x + fxMul p (fxMul p x (fxMul p x x)) (44715 * fxOne p / 1000000))
      fx (fxMul p x (sigmFx p (2 * y)))
  | .silu =>
    if big then (if neg then vanish p true else justBelow p false mag exp) else fx (fxMul p x (sigmFx p x))
  | .cbrt =>
    let s := 3 * p + ((exp - 3 * p) % 3).toNat
    let r := icbrt (mag * 2 ^ s)
    let v : Int := 2 * r + (if r * r * r = mag * 2 ^ s then 0 else 1)
    ⟨if neg then -v else v, (exp - s) / 3 - 1⟩
  | .atan2 | .pow => ⟨0, 0⟩

/-- The bound of Table 6.11 and R187 in units in the last place; none where no bound holds. -/
def ulpBound (fn : SpecialFn) (f : Fmt) (mag : Nat) (exp : Int) : Option Nat :=
  let wide := f.width ≥ 32
  match fn with
  | .rsqrt | .exp2 | .log2 | .cbrt => some 1
  | .exp | .log | .tanh | .sigm | .erf | .atan2 => some (if wide then 2 else 1)
  | .sin | .cos =>
    if !wide then some 1
    else
      let lim : Int := if f.width = 64 then 48 else 24
      let e := floorLog2 mag exp
      if e < lim ∨ (e = lim ∧ mag = 2 ^ Nat.log2 mag) then some 2 else none
  | .gelu | .geluTanh | .silu | .pow => some (if wide then 3 else 1)

/-- |a − b| for dyadic `a`, `b`, in units of 2^e, `e` not above either's exponent. -/
def apart (a b : Dy) (e : Int) : Nat :=
  (a.num * (2 ^ (a.exp - e).toNat : Nat) - b.num * (2 ^ (b.exp - e).toNat : Nat)).natAbs

/-- |a − b| ≤ n·2^q for dyadic `a`, `b`. -/
def within (a b : Dy) (n : Nat) (q : Int) : Bool :=
  let e := min (min a.exp b.exp) q
  decide (apart a b e ≤ n * 2 ^ (q - e).toNat)

/-- A dyadic number is a finite value. -/
def FVal.isDy (v : FVal) (y : Dy) : Bool :=
  match v with
  | .fin s m e => apart ⟨if s then -(m : Int) else m, e⟩ y (min e y.exp) == 0
  | .inf _ | .nan .. => false

/-- The delivered code of a bounded function (R202): `free` where it lies within `n` units in the last place of
`y`, else `y` to nearest. It raises inexact, `always` (R202) or where it differs from `y` (R187), and underflow where it
differs from `y` and `y` is tiny (R179, R203). -/
def bounded (f : Fmt) (ftzo always : Bool) (n : Nat) (free : Nat) (y : Dy) : Nat × Flags :=
  let ex : Exact := ⟨decide (y.num < 0), y.num.natAbs, y.exp, false⟩
  let base := pack f 1 0 false false ex
  if base.2 &&& fOf ≠ 0 then (base.1, base.2 ||| fInx)
  else
    let q := max (floorLog2 ex.mag ex.exp - f.mbits) f.qmin
    let code := match f.decode free with
      | .fin s m e => if within ⟨if s then -(m : Int) else m, e⟩ y n q then free % 2 ^ f.width else base.1
      | _ => base.1
    if ftzo && f.isSubnormal code then (f.signBit (f.decode code).neg, fUf ||| fInx)
    else if FVal.isDy (f.decode code) y then (code, if always then fInx else 0)
    else (code, fInx ||| (if base.2 &&& fUf ≠ 0 ∨ f.isSubnormal base.1 then fUf else 0))

/-- A special value: exact (R203). -/
def exactly (f : Fmt) (neg : Bool) (mag : Nat) (exp : Int) : Nat × Flags :=
  ((pack f 1 0 false false ⟨neg, mag, exp, false⟩).1, 0)

/-- The special values of the one-operand functions (R203, and R187 for rsqrt); none where no special value
applies. The operand is not a NaN. -/
def specialCase (fn : SpecialFn) (f : Fmt) (x : FVal) : Option (Nat × Flags) :=
  let zero (n : Bool) := exactly f n 0 0
  match fn, x with
  | _, .nan .. => none
  | .rsqrt, .inf n => some (if n then (f.nanCode, fInv) else zero false)
  | .rsqrt, .fin n m _ => if m = 0 then some (f.infCode n, fDz) else if n then some (f.nanCode, fInv) else none
  | .exp2, .inf n | .exp, .inf n => some (if n then zero false else (f.infCode false, 0))
  | .exp2, .fin _ m _ | .exp, .fin _ m _ => if m = 0 then some (exactly f false 1 0) else none
  | .log2, .inf n | .log, .inf n => some (if n then (f.nanCode, fInv) else (f.infCode false, 0))
  | .log2, .fin n m e | .log, .fin n m e =>
    if m = 0 then some (f.infCode true, fDz)
    else if n then some (f.nanCode, fInv)
    else if order x .one = 0 ∧ e ≤ 0 then some (zero false) else none
  | .sin, .inf _ | .cos, .inf _ => some (f.nanCode, fInv)
  | .sin, .fin n m _ => if m = 0 then some (zero n) else none
  | .cos, .fin _ m _ => if m = 0 then some (exactly f false 1 0) else none
  | .tanh, .inf n | .erf, .inf n => some (exactly f n 1 0)
  | .tanh, .fin n m _ | .erf, .fin n m _ => if m = 0 then some (zero n) else none
  | .sigm, .inf n => some (if n then zero false else exactly f false 1 0)
  | .sigm, .fin _ m _ => if m = 0 then some (exactly f false 1 (-1)) else none
  | .gelu, .inf n | .geluTanh, .inf n | .silu, .inf n => some (if n then zero true else (f.infCode false, 0))
  | .gelu, .fin n m _ | .geluTanh, .fin n m _ | .silu, .fin n m _ => if m = 0 then some (zero n) else none
  | .cbrt, .inf n => some (f.infCode n, 0)
  | .cbrt, .fin n m _ => if m = 0 then some (zero n) else none
  | .atan2, _ | .pow, _ => none

/-- A one-operand special function (R202, R203, R178). -/
def special1 (fn : SpecialFn) (f : Fmt) (v : Env) (a : Nat) : Nat × Flags :=
  let x := f.decodeFtz v.ftzi a
  match pickNan f v.nan [x] with
  | some r => r
  | none =>
    match specialCase fn f x with
    | some r => r
    | none =>
      match x with
      | .fin n m e =>
        let free := Config.specialValue fn f.width f.mbits a 0
        match ulpBound fn f m e with
        | some b =>
          bounded f v.ftzo (fn != .rsqrt) b free (exactOf fn (workBits f) n m e)
        | none =>
          -- Outside the domain of sin and cos: some value in [−1, 1] (R202).
          match f.decode free with
          | .fin s fm fe =>
            if order (.fin false fm fe) .one ≤ 0 then
              (if v.ftzo && f.isSubnormal free then (f.signBit s, fUf ||| fInx) else (free % 2 ^ f.width, fInx))
            else (0, fInx)
          | _ => (0, fInx)
      | _ => (f.nanCode, 0)

/-- π·(k/4) as a dyadic with a sign. -/
def piQuarters (p k : Nat) (neg : Bool) : Dy :=
  let v := pi p * (k : Int) / 4
  ⟨if neg then -v else v, -(p : Int)⟩

/-- atan2(y, x) (R203; IEEE 754-2019 clause 9.2). -/
def atan2 (f : Fmt) (v : Env) (a b : Nat) : Nat × Flags :=
  let y := f.decodeFtz v.ftzi a
  let x := f.decodeFtz v.ftzi b
  match pickNan f v.nan [y, x] with
  | some r => r
  | none =>
    let p := workBits f
    let free := Config.specialValue .atan2 f.width f.mbits a b
    let out (d : Dy) := bounded f v.ftzo true ((ulpBound .atan2 f 0 0).getD 1) free d
    let s := y.neg
    match y, x with
    | .inf _, .inf n => out (piQuarters p (if n then 3 else 1) s)
    | .inf _, _ => out (piQuarters p 2 s)
    | _, .inf n => if n then out (piQuarters p 4 s) else exactly f s 0 0
    | .fin _ my ey, .fin n mx ex =>
      if my = 0 then (if n then out (piQuarters p 4 s) else exactly f s 0 0)
      else if mx = 0 then out (piQuarters p 2 s)
      else
        let dl := floorLog2 my ey - floorLog2 mx ex
        if dl > p / 2 then out (piQuarters p 2 s)
        else if dl < -(p : Int) / 4 then
          (if n then out (piQuarters p 4 s)
           else
            -- Just below y/x, far within the bound.
            let k := p + Nat.log2 mx
            out (justBelow p s (my * 2 ^ k / mx) (ey - ex - k)))
        else
          let k := p + Nat.log2 mx
          let t := atanFx p (fxOf p false (my * 2 ^ k / mx) (ey - ex - k))
          let r := if n then pi p - t else t
          out ⟨if s then -r else r, -(p : Int)⟩
    | _, _ => (f.nanCode, 0)

/-- `mag · 2^exp` with its magnitude odd. -/
def oddPart (mag : Nat) (exp : Int) : Nat × Int :=
  let k := ((List.range (Nat.log2 mag + 1)).find? fun k => mag / 2 ^ k % 2 == 1).getD 0
  (mag / 2 ^ k, exp + k)

/-- `|x|^y` for finite operands, `|x|` not 0, given to working precision: the dyadic number of at most `bits` bits that it
is, where it is one. With odd parts `mx`, `my`, `mg` and `y = ± my·2^−k`, equality means `mg^(2^k) = mx^my`, which a
number `mx > 1` meets for small `k` and `my` only. -/
def powExact (bits mx : Nat) (ex : Int) (ny : Bool) (my : Nat) (ey : Int) (d : Dy) : Dy :=
  let sh : Int := (Nat.log2 d.num.natAbs : Int) - bits
  let m : Nat := if sh ≤ 0 then d.num.natAbs else (d.num.natAbs + 2 ^ (sh - 1).toNat) / 2 ^ sh.toNat
  let g := oddPart m (d.exp + max sh 0)
  let x := oddPart mx ex
  let y := oddPart my ey
  let ys : Int := if ny then -(y.1 : Int) else y.1
  let scales : Bool := if y.2 ≥ 0 then g.2 == x.2 * ys * (2 ^ y.2.toNat : Nat) else g.2 * (2 ^ (-y.2).toNat : Nat) == x.2 * ys
  let odds : Bool :=
    if x.1 = 1 then g.1 == 1
    else !ny && (if y.2 ≥ 0 then decide (y.1 * 2 ^ y.2.toNat < 4096) && g.1 == x.1 ^ (y.1 * 2 ^ y.2.toNat)
      else decide (y.1 < 4096) && decide (-y.2 ≤ 6) && g.1 ^ 2 ^ (-y.2).toNat == x.1 ^ y.1)
  if scales && odds then ⟨g.1, g.2⟩ else d

/-- pow(x, y) (R203; IEEE 754-2019 clause 9.2.1). -/
def pow (f : Fmt) (v : Env) (a b : Nat) : Nat × Flags :=
  let x := f.decodeFtz v.ftzi a
  let y := f.decodeFtz v.ftzi b
  let one := exactly f false 1 0
  let snan := x.isSnan || y.isSnan
  if !snan && (y.isZero || (!x.isNan && order x .one == 0)) then one
  else
    match pickNan f v.nan [x, y] with
    | some r => r
    | none =>
      let yi := match y with | .fin _ m e => integrality m e | _ => (false, false)
      let inf (n : Bool) : Nat × Flags := (f.infCode n, 0)
      let zero (n : Bool) := exactly f n 0 0
      match x, y with
      | _, .inf ny =>
        let o := order (x.withSign false) .one
        if o = 0 then one
        else if (decide (o > 0)) != ny then inf false else zero false
      | .inf nx, _ => if y.neg then zero (nx && yi.2) else inf (nx && yi.2)
      | .fin nx mx ex, .fin ny my ey =>
        if mx = 0 then
          (if ny then (f.infCode (nx && yi.2), fDz) else zero (nx && yi.2))
        else if nx && !yi.1 then (f.nanCode, fInv)
        else
          let neg := nx && yi.2
          let p := workBits f
          let free := Config.specialValue .pow f.width f.mbits a b
          let out (d : Dy) := bounded f v.ftzo true ((ulpBound .pow f 0 0).getD 1) free d
          -- log2 |x^y| = y log2 |x|; far outside the format it decides alone.
          let l := lnFx p mx ex
          let l' : Dy := ⟨l, -(p : Int)⟩
          let tn := l'.num * (my : Int) * (if ny then -1 else 1)
          let te := l'.exp + ey
          if tn ≠ 0 ∧ floorLog2 tn.natAbs te ≥ 12 then
            (if tn < 0 then out (vanish p neg) else out (huge neg))
          else
            let e := powExact (f.mbits + 9) mx ex ny my ey (expDy p (fxOf p (decide (tn < 0)) tn.natAbs te))
            out ⟨if neg then -e.num else e.num, e.exp⟩
      | _, _ => (f.nanCode, 0)

end Sys2Proof.Machine.Fp
end

