-- ==== Sys2Proof/Machine/Flags.lean ====
section
/-! DEFINITION. What the float engine takes from the mode register and the lane's generator, and how an instruction's
elements draw from it (spec/06_float_engine.md R165, R173 to R180; spec/04_control_engine.md R125, R126). -/
namespace Sys2Proof.Machine

/-- Fields of the mode register (Table 4.2). -/
def modeRm (m : BitVec 32) : Nat := (m.extractLsb' 0 3).toNat
def modeFtzi (m : BitVec 32) : Bool := m.getLsbD 3
def modeFtzo (m : BitVec 32) : Bool := m.getLsbD 4
def modeNsat (m : BitVec 32) : Bool := m.getLsbD 5
def modeNan (m : BitVec 32) : Nat := (m.extractLsb' 6 2).toNat
def modeFlags (m : BitVec 32) : BitVec 5 := m.extractLsb' 16 5

/-- The number format of a floating-point type, or of the elements of a packed type (Table 6.1, R165). -/
def fmtOf (t : Nat) : Fp.Fmt :=
  if t = tF16 ∨ t = tF16x2 then Fp.f16
  else if t = tBf16 ∨ t = tBf16x2 then Fp.bf16
  else if t = tF64 then Fp.f64
  else Fp.f32

/-- The opcodes that round by their field or by RM: those Table 6.8 marks "yes" under rounding. -/
def rounds (opc : Nat) : Bool :=
  (0x40 ≤ opc && opc ≤ 0x47) || (0x50 ≤ opc && opc ≤ 0x55) || [0x57, 0x68, 0x69, 0x6C, 0x6F, 0x70, 0x71, 0x72, 0x77,
    0x78, 0x79, 0x7A, 0x7F].contains opc

/-- What an instruction computes under: its rounding field or RM, and the mode register's fields (R173). -/
def Cx.env (c : Cx) (i : Ins) : Fp.Env :=
  { rm := if i.attr.rmField = 0 then modeRm c.st.mode else i.attr.rmField
    ftzi := modeFtzi c.st.mode
    ftzo := modeFtzo c.st.mode
    nsat := modeNsat c.st.mode
    nan := modeNan c.st.mode
    sat := i.attr.satBit }

/-- The instruction is in mode rs (R174). -/
def Cx.inRs (c : Cx) (opc : Nat) (i : Ins) : Bool :=
  i.attr.rmField == 6 || (i.attr.rmField == 0 && rounds opc && modeRm c.st.mode == 6)

/-- Produces the elements of a lane in order, each with its own random bits in mode rs (R174): the codes, the union of
the flags, and the generator after them. -/
def produce (rs : Bool) : Nat → List (Nat → Nat × Fp.Flags) → List Nat × Fp.Flags × Nat
  | g, [] => ([], 0, g)
  | g, e :: es =>
    let d := if rs then Fp.rngStep g else (g, 0)
    let x := e d.2
    let r := produce rs d.1 es
    (x.1 :: r.1, x.2 ||| r.2.1, r.2.2)

/-- The lane's elements put together by `join` into the instruction's results. -/
def Cx.elements (c : Cx) (opc : Nat) (i : Ins) (lane : Nat) (es : List (Nat → Nat × Fp.Flags))
    (join : List Nat → List Nat) : LaneOut :=
  let rs := c.inRs opc i
  let r := produce rs (((c.st.rng[lane]?).getD 0).toNat) es
  { vals := join r.1, flags := r.2.1, rng := if rs then some (BitVec.ofNat 32 r.2.2) else none }

/-- The two elements of a packed result as one word (R165). -/
def packed (xs : List Nat) : List Nat := [(xs[0]?).getD 0 % 2 ^ 16 + 2 ^ 16 * ((xs[1]?).getD 0 % 2 ^ 16)]

/-- An instruction on a scalar or packed floating-point type, element by element. The function gets the format, the
environment, the random bits and the source operands of the element. -/
def floatwise (opc : Nat) (i : Ins) (s : State) (f : Fp.Fmt → Fp.Env → Nat → (Nat → Nat) → Nat × Fp.Flags) : Out :=
  lanewise opc i s [i.form.toNat] fun c l =>
    let t := i.form.toNat
    let v := c.env i
    let x (k : Nat) : Nat := c.arg i k (tyBits t) l
    if isPackedTy t then
      c.elements opc i l [fun u => f (fmtOf t) v u fun k => x k % 2 ^ 16, fun u => f (fmtOf t) v u fun k => x k / 2 ^ 16]
        packed
    else c.elements opc i l [fun u => f (fmtOf t) v u x] id

end Sys2Proof.Machine
end

