-- ==== Sys2Proof/Machine/Access.lean ====
section
/-! DEFINITION. Checking and issuing an access of a stream: local and global pointers, permissions, faults in lanes,
parking on a missing page (spec/07_load_store_engine.md R207 to R209, R220 to R222, R226; spec/12_page_engine.md R336
to R340). -/
namespace Sys2Proof.Machine

/-! ### Faults of pages -/

/-- A batch of a die still takes faults: it holds fewer than 64, and 4 µs have not passed since its first (R340, R348). -/
def State.takesFaults (s : State) (die : Nat) (b : Batch) : Bool :=
  b.die == die && !b.closed && decide (b.faults.length < 64) && decide (s.since b.start < 4000)

/-- Adds a fault to the open batch of a die, or opens one (R340). -/
def State.gather (s : State) (die : Nat) (f : PageFault) : State :=
  let s := s.tally (((s.walker.launches.find? fun l => l.asid == f.asid).map fun l => s.partOf l.key).getD 0) 53 1
  let join (b : Batch) : Batch := if s.takesFaults die b then { b with faults := b.faults ++ [f] } else b
  if s.pages.batches.any (s.takesFaults die) then { s with pages := { s.pages with batches := s.pages.batches.map join } }
  else
    let n := (s.pages.nextBatch[die]?).getD 0
    { s with pages := { s.pages with
        nextBatch := setAt s.pages.nextBatch die (n + 1)
        batches := s.pages.batches ++ [{ die := die, number := n, faults := [f], start := s.now }] } }

/-- The 64 KiB block of an address. -/
def blockOf (va : Nat) : Nat := va % 2 ^ 56 / 65536

/-- Kinds of a range record (Table 12.3). -/
def kindRead : Nat := 1
def kindWrite : Nat := 2
def kindExecute : Nat := 4
def kindAtomic : Nat := 8
def kindCopy : Nat := 16
def kindKnitter : Nat := 32

/-! ### Checking one lane -/

/-- What a check finds: an access that may go on, a code with its cause, or a page that is missing. -/
inductive Check where
  | lane (l : AccLane)
  | bad (code cause : Nat)
  | miss
  deriving DecidableEq, Repr

/-- What a global access needs of its page, and the scope of the point to which it goes: beyond .clu, no nearer cache than
the home serves it (R227). -/
structure Need where
  read : Bool := false
  write : Bool := false
  scope : Nat := 3
  deriving DecidableEq, Repr

/-- Checks a global address (R207, R221, R336, R337, R356, R366). A leaf with MOV set refuses the access,
which translates again later (R346). -/
def State.checkGlobal (s : State) (c : CoreRef) (asid : Nat) (need : Need) (align va lane : Nat) : Check × State :=
  if va % align ≠ 0 then (.bad 0x24 0, s)
  else if va / 2 ^ 56 ≠ 0 then (.bad 0x21 5, s)
  else
    match s.translate c asid va with
    | (.malformed, s) => (.bad 0x21 2, s)
    | (.refused, s) => (.bad 0x21 1, s)
    | (.missing, s) => (if s.pages.en then .miss else .bad 0x21 1, s)
    | (.leaf f _, s) =>
      let e := f.entry
      let r := s.routeOf c e
      if (need.read && !leafRd e) || (need.write && !leafWr e) then (.bad 0x21 0, s)
      else if need.write && ((s.sail? (.sys r.sail)).map Sail.policy).getD 0 == 3 then (.bad 0x21 3, s)
      else
        match s.pathFault r need.scope (f.flat va) with
        | some (cause, panel) => (.bad 0x31 cause, if cause = 2 then s.failPanel panel else s)
        | none =>
          let l : AccLane := { lane := lane, va := va, pa := f.flat va, sail := r.sail, loc := r.loc, home := r.home,
                               roh := r.roh, stage := if leafMov e then .refused else .sent }
          (.lane l, s)

/-- The core that a local pointer names, where its fields are in order (R209). -/
def Cx.localCore (c : Cx) (p : Nat) : Option CoreRef :=
  let member := p / 2 ^ 24 % 16
  if p / 2 ^ 30 ≠ 0 then none
  else if p / 2 ^ 29 % 2 = 0 then (if p / 2 ^ 24 % 32 = 0 then some c.core else none)
  else
    match (c.s.walker.clusters.find? fun k => k.key == c.t.cluster).bind fun k => k.cores[member]? with
    | some t => if p / 2 ^ 28 % 2 = (if t.die = c.r.die then 0 else 1) then some t else none
    | none => none

/-- Checks a local pointer (R209, R221). -/
def Cx.checkLocal (c : Cx) (size align p lane : Nat) : Check :=
  match c.localCore p with
  | none => .bad 0x23 0
  | some t =>
    if (c.s.core t).split.locBytes < p % 2 ^ 24 + size then .bad 0x23 0
    else if p % align ≠ 0 then .bad 0x24 0
    else .lane { lane := lane, va := p, pa := c.s.flatLocal t (p % 2 ^ 24), home := t.die }

/-! ### Checking every lane -/

/-- The lanes checked so far: those that may go on, those whose page is missing, and the faults. -/
structure Tried where
  s : State
  lanes : List AccLane := []
  missed : List AccLane := []
  bad : List (Nat × Nat × Nat × Nat) := []

/-- Checks lanes in ascending order; `addr` gives a lane's address. -/
def Cx.tryLanes (c : Cx) (ls : List Nat) (addr : Nat → Nat) (check : State → Nat → Nat → Check × State) : Tried :=
  ls.foldl (fun t l =>
    match check t.s (addr l) l with
    | (.lane a, s) => { t with s := s, lanes := t.lanes ++ [a] }
    | (.miss, s) => { t with s := s, missed := t.missed ++ [{ lane := l, va := addr l, stage := .parked }] }
    | (.bad code cause, s) => { t with s := s, bad := t.bad ++ [(l, code, cause, addr l)] }) { s := c.s }

/-- The order in which codes of one instruction are raised (R39, entries 5, 6 and 8). -/
def codeRank (code : Nat) : Nat :=
  match code with
  | 0x23 => 0
  | 0x24 => 1
  | 0x27 => 2
  | 0x21 => 3
  | _ => 4

/-- The least rank among some faults. -/
def leastRank (bad : List (Nat × Nat × Nat × Nat)) : Nat := bad.foldl (fun r b => Nat.min r (codeRank b.2.1)) 4

/-- PAGE_FAULT comes first: it stands between ACCESS_VIOLATION and PANEL_FAULT (R39, entries 6 to 8). -/
def missFirst (bad : List (Nat × Nat × Nat × Nat)) (missed : List AccLane) : Bool :=
  missed != [] && leastRank bad == 4

/-- The record of a trap some lanes raise: the first code in the order of R39, the lowest lane that raised it, and the
mask of all such lanes (R222). `place` gives the executing place of an atomic's address (R246). -/
def TrapRecord.forLanes (rec : TrapRecord) (bad : List (Nat × Nat × Nat × Nat)) (place : Nat → Nat) : Option TrapRecord :=
  match bad.filter fun b => codeRank b.2.1 == leastRank bad with
  | [] => none
  | b :: rest => some { rec with code := b.2.1, arg := b.2.2.1, value := b.2.2.2, place := place b.2.2.2
                                 lanes := maskOfList ((b :: rest).map Prod.fst) }

/-- The trap of an instruction some lanes of which fault. -/
def Cx.laneTrap (c : Cx) (s : State) (bad : List (Nat × Nat × Nat × Nat)) (place : Nat → Nat) : Out :=
  match (c.st.trapAt c.r.idx 0).forLanes bad place with
  | none => .next s
  | some rec => .next (s.takeTrap c.r rec)

/-! ### Issuing -/

/-- The fallbacks of the active lanes that do not execute, in the portable form (R58). -/
def Cx.fallbacks (c : Cx) (i : Ins) (m : BitVec 32) (tys : List Nat) (st : Stream) : Stream :=
  let rest := st.active &&& ~~~m
  if st.native || rest = 0 then st
  else (tys.zipIdx).foldl (fun st t =>
    match st.dest i t.2 t.1 with
    | some d => st.put d rest (c.column i 0 [] t.2 t.1)
    | none => st) st

/-- The destinations of the results an access brings, with their types; register 255 discards. -/
def Stream.destinations (st : Stream) (i : Ins) (tys : List Nat) : List (Loc × Nat) :=
  tys.zipIdx.map fun t => ((st.dest i t.2 t.1).getD (.reg 255), t.1)

/-- The locations that destinations make pending (R404). -/
def pendingOf (ds : List (Loc × Nat)) : List Loc :=
  ((ds.filter fun d => d.1 != .reg 255).map fun d => locParts d.1 (tyBits d.2)).flatten

/-- A post-incremented pointer: `a + inc` in the lanes that execute, the pointer unchanged in the others (R220, R58);
written after the latency of an integer result. -/
def Cx.postInc (c : Cx) (i : Ins) (m : BitVec 32) (k ty : Nat) (addr : Nat → Nat) (inc : Int) (st : Stream) : Stream :=
  match st.dest i k ty with
  | none => st
  | some d =>
    let v : TVal := ⟨ty, (List.range (laneCount c.r.idx)).map fun l =>
      BitVec.ofNat 64 (if m.getLsbD l then IntOps.wrap (tyBits ty) ((addr l : Int) + inc) else addr l)⟩
    let w := if st.native then m else st.active
    if w = 0 then st else c.deliver 0x29 ty 0 st d w v

/-- Blocks of the lanes that wait for a translation. -/
def parkedBlocks (ls : List AccLane) : List Nat := ((ls.filter fun l => l.stage == .parked).map fun l => blockOf l.va).eraseDups

/-- Parks the group on missing pages of an access (R222, R339): one fault for each distinct block. -/
def State.park (s : State) (r : StreamRef) (a : Acc) (kinds : Nat) (blocks : List Nat) : State :=
  if blocks = [] then s
  else
    let s := s.teamEvent (coreOf r) r.idx 0x20 a.pos
    let s := blocks.foldl (fun s b =>
      s.gather r.die { asid := a.asid, block := b, kinds := kinds, who := .stream a.id, time := s.now }) s
    s.modStream r fun st => { st with parked := some a.id }

/-- The conflicts of a local access (R210): the words of its lanes at each core they name, on a B-die half-group by
half-group. Those at the stream's own core are the losses of slot M, others of window accesses (R470). -/
def Cx.loseBanks (c : Cx) (a : Acc) (s : State) : State :=
  if a.isLocal then
    let passes := if (s.die c.r.die).isB then [a.lanes.filter fun l => l.lane < 16, a.lanes.filter fun l => 16 ≤ l.lane] else [a.lanes]
    passes.foldl (fun s ls =>
      ((ls.filterMap fun l => c.localCore l.va).eraseDups).foldl (fun s k =>
        let words := ((ls.filter fun l => c.localCore l.va == some k).map fun l =>
          let w := l.va % 2 ^ 24
          (List.range ((w + a.size - 1) / 4 + 1 - w / 4)).map fun j => w / 4 + j).flatten
        s.lose k (if k = c.core then 0 else 5) (bankLoss words)) s) s
  else s

/-- Issues an access whose lanes have been checked: it joins the flights, raises its counter, makes its destinations
pending, and parks where pages are missing; a lane that meets PANEL_FAULT beside a missing page is checked again at
replay. `more` writes what else the instruction delivers at issue. -/
def Cx.launchAcc (c : Cx) (i : Ins) (m : BitVec 32) (t : Tried) (a : Acc) (data : Nat → List Byte) (tys : List Nat)
    (kinds : Nat) (more : Stream → Stream) (place : Nat → Nat := fun _ => 0) : Out :=
  if t.bad != [] && !missFirst t.bad t.missed then c.laneTrap t.s t.bad place
  else
    let fill (l : AccLane) : AccLane := { l with data := data l.lane }
    let later := t.bad.map fun b => ({ lane := b.1, va := b.2.2.2, stage := .mapped } : AccLane)
    let lanes := (lanesOf m).filterMap fun l => ((t.lanes ++ t.missed ++ later).find? fun x => x.lane == l).map fill
    let a := { a with id := t.s.nextId, ref := c.r, asid := c.t.asid, lanes := lanes, dsts := c.st.destinations i tys
                      pos := ⟨c.st.func, c.st.off⟩, time := t.s.now, born := t.s.now
                      cycle := (t.s.die c.r.die).clock }
    let s := c.loseBanks a { t.s with nextId := t.s.nextId + 1, flights := t.s.flights ++ [a] }
    let s := s.park c.r a kinds (parkedBlocks a.lanes)
    .next (s.modStream c.r fun st =>
      let st := (st.raise a.pathOf a.id)
      let st := { st with pending := st.pending ++ pendingOf a.dsts }
      (more (c.fallbacks i m tys st)).retired)

/-! ### Reading a record -/

/-- Reads a record that an instruction takes whole, as a load at .dev of the lowest active lane (R284, R319, R129): the
checks of R207, R209 and R221 are precise, a missing page makes the stream wait, and a poisoned byte raises
DATA_POISON (R34). -/
def Cx.readRecord (c : Cx) (glob : Bool) (size align p : Nat) (go : State → List Byte → Out) : Out :=
  let tried := c.tryLanes (List.range (size / 32)) (fun k => p + 32 * k) fun s a k =>
    let n := if k = 0 then align else 1
    if glob then s.checkGlobal c.core c.t.asid { read := true } n a k else (c.checkLocal 32 n a k, s)
  match (if missFirst tried.bad tried.missed then none else (c.st.trapAt c.r.idx 0).forLanes tried.bad fun _ => 0) with
  | some rec => .next (tried.s.takeTrap c.r { rec with lanes := maskOfList [c.lead] })
  | none =>
    if tried.missed != [] then
      let blocks := (tried.missed.map fun l => blockOf l.va).eraseDups
      let s := tried.s.teamEvent c.core c.r.idx 0x20 ⟨c.st.func, c.st.off⟩
      let s := blocks.foldl (fun s b =>
        s.gather c.r.die { asid := c.t.asid, block := b, kinds := kindRead, who := .record c.t.cluster c.t.teamid c.r.idx, time := s.now }) s
      .next (s.modStream c.r fun st => st.blocked s.now .page)
    else if tried.lanes.any fun l => l.stage == .refused || (glob && tried.s.returning l.pa) then .next (tried.s.modStream c.r fun st => st.blocked c.s.now .order)
    else if tried.lanes.any fun l => tried.s.anyPoison l.pa 32 then
      .next (tried.s.takeTrap c.r { c.st.trapAt c.r.idx 0x29 with value := p, lanes := maskOfList [c.lead] })
    else
      let a : Acc := { id := tried.s.nextId, ref := c.r, asid := c.t.asid, kind := .load, pos := ⟨0, 0⟩ }
      let r := tried.lanes.foldl (fun (acc : State × List Byte) l =>
        let q := if glob then
            let r := laneRoute acc.1 a l
            let q := acc.1.homeRead r l.pa 32
            (q.1, q.1.newest r 3 l.pa q.2)
          else (acc.1, acc.1.bytesAt l.pa 32)
        (q.1, acc.2 ++ q.1.forward a { l with lane := c.lead } q.2)) (tried.s, [])
      let cycles := (tried.lanes.map fun l => tried.s.readLatency { a with isLocal := !glob, scope := 3, acq := true } l).foldl Nat.max 0
      go (r.1.modStream c.r fun st => { st with recordCycles := cycles + 8 }) r.2

/-- The fields of the memory attribute bytes: class, scope, acquire, release, read-only, early forwarding. -/
def memAcc (a : Attr) : Acc :=
  match a with
  | .mem cls scope acq rel ro ef _ _ =>
    { id := 0, ref := ⟨0, 0, 0⟩, asid := 0, kind := .load, pos := ⟨0, 0⟩, cls := cls.toNat, scope := scope.toNat,
      acq := acq, rel := rel, ef := ef, ro := ro }
  | .none | .arith .. | .cvt .. | .ctl _ =>
    { id := 0, ref := ⟨0, 0, 0⟩, asid := 0, kind := .load, pos := ⟨0, 0⟩ }

end Sys2Proof.Machine
end

