-- ==== Sys2Proof/Machine/Atomic.lean ====
section
/-! DEFINITION. The atomic engine (spec/08_atomic_engine.md): what an atomic computes, where it executes, its checks and
its issue with an exactly-once tag. What happens to a request in flight is in `Machine/FlightEvents.lean`. -/
namespace Sys2Proof.Machine

/-! ### The operations (R240 to R242) -/

/-- The environment of the atomics' float arithmetic: rn, nothing flushed, the canonical quiet NaN (R242). -/
def atomicEnv : Fp.Env := { rm := 1, ftzi := false, ftzo := false, nsat := false, nan := 1, sat := false }

/-- A float add of atom.add and red.add, per element of a packed type (R242). -/
def atomicFadd (ty a b : Nat) : Nat :=
  let one (x y : Nat) : Nat := (Fp.add (fmtOf ty) atomicEnv 0 x y).1
  if isPackedTy ty then
    (packed [one (a % 2 ^ 16) (b % 2 ^ 16), one (a / 2 ^ 16) (b / 2 ^ 16)]).headD 0
  else one a b

/-- Minimum or maximum of the old value and the operand (R241). -/
def atomicMinmax (isMax : Bool) (ty : Nat) (sx : Bool) (old v : Nat) : Nat :=
  if isFloatTy ty then (Fp.minmax (fmtOf ty) atomicEnv false isMax old v).1
  else if isMax then IntOps.max sx (tyBits ty) old v
  else IntOps.min sx (tyBits ty) old v

/-- The value an atomic or a reduction writes for the old value and its operands; none where it writes nothing
(R240). `sel` is the operation select. -/
def atomicNew (opc sel ty : Nat) (sx : Bool) (old : Nat) (args : List Nat) : Option Nat :=
  let w := tyBits ty
  let v := (args[0]?).getD 0
  match opc with
  | 0x98 | 0xA4 => some ((old + v) % 2 ^ w)
  | 0x99 | 0xA5 => some (atomicFadd ty old v)
  | 0x9A => some (atomicMinmax false ty sx old v)
  | 0x9B => some (atomicMinmax true ty sx old v)
  | 0x9C => some (IntOps.and old v)
  | 0x9D => some (IntOps.or old v)
  | 0x9E => some (IntOps.xor old v)
  | 0x9F => some v
  | 0xA0 => if old = v then some ((args[1]?).getD 0) else none
  | 0xA1 =>
    if old = v + 2 ^ 64 * (args[1]?).getD 0 then some ((args[2]?).getD 0 + 2 ^ 64 * (args[3]?).getD 0) else none
  | 0xA2 => some (if v ≤ old then 0 else old + 1)
  | 0xA3 => some (if old = 0 ∨ v < old then v else old - 1)
  | 0xA6 => some (if sel = 0 then IntOps.and old v else if sel = 1 then IntOps.or old v else IntOps.xor old v)
  | _ => some (atomicMinmax (sel == 1) ty sx old v)

/-! ### Executing places (R246, R250) -/

/-- The place code of a lane (Table 8.4), once it has been translated. -/
def State.placeCode (s : State) (core : CoreRef) (isLocal : Bool) (scope : Nat) (l : AccLane) : Nat :=
  if isLocal then (if l.va / 2 ^ 29 % 2 = 0 then 0 else 1)
  else if l.loc = 2 then 4
  else if l.loc = 3 then 5
  else if s.isReplicated l.sail then 3
  else if scope ≤ 1 ∧ (s.clusterSail core).isSome then 2
  else 3

/-- The executing place of an address, where it is known; its fault records name it (R246). -/
def State.placeAt (s : State) (core : CoreRef) (asid : Nat) (isLocal : Bool) (scope va : Nat) : Nat :=
  if isLocal then s.placeCode core true scope { lane := 0, va := va }
  else
    match (s.translate core asid va).1 with
    | .leaf f _ => s.placeCode core false scope { lane := 0, va := va, sail := leafSail f.entry, loc := entryLoc f.entry }
    | _ => 0

/-- The PCIe AtomicOp port carries the operation (Table 8.5), with the capability enabled (R250). -/
def State.portCarries (s : State) (opc : Nat) : Bool :=
  s.fabric.atomicOps && [0x98, 0xA4, 0x9F, 0xA0, 0xA1].contains opc

/-- Checks a lane of an atomic (R244): UNSUPPORTED_ATOMIC comes before ACCESS_VIOLATION (R39). -/
def State.checkAtomic (s : State) (c : CoreRef) (asid opc scope align va lane : Nat) : Check × State :=
  let refuse := match s.translate c asid va with
    | (.leaf f _, _) => va % align == 0 && va / 2 ^ 56 == 0 && entryLoc f.entry == 2 && !s.portCarries opc
    | _ => false
  let point := if s.placeAt c asid false scope va = 2 then scope else 3
  if refuse then (.bad 0x27 0, s) else s.checkGlobal c asid { read := true, write := true, scope := point } align va lane

/-! ### Tags (R251, R252) -/

/-- A floor lies beyond a tag: tags are compared modulo 2^16 within a window of 32,768. -/
def floorBeyond (f t : BitVec 16) : Bool := f != t && decide ((f - t).toNat ≤ 32768)

/-- The tag of a stream's oldest atomic that has not completed; its next tag when there is none (R251). -/
def State.floorOf (s : State) (r : StreamRef) : Option (BitVec 16) :=
  match s.flights.find? fun a => a.isAtomic && a.ref == r with
  | some a => some a.tag
  | none => (s.stream? r).map Stream.tag

/-! ### Issue (R237 to R239, R243 to R245, R251) -/

/-- Issues an atomic or a reduction: each executing lane's operands travel to its executing place with the stream's next
tag. `sel` is the operation select the constructor stands for. -/
def atomicOp (opc sel : Nat) (i : Ins) (s : State) : Out :=
  withCx s fun c =>
    let t := i.form.toNat
    let wide := opc == 0xA1
    let size := if wide then 16 else tyBytes t
    let m := c.lanes i
    let glob := c.isGlobal i 0
    let addr (l : Nat) : Nat := c.arg i 0 (if glob then 64 else 32) l
    let args := i.src.length - 1
    let data (l : Nat) : List Byte :=
      ((List.range args).map fun k => toBytes (tyBytes t) (c.arg i (k + 1) (tyBits t) l)).flatten
    let tys := if 0xA4 ≤ opc then [] else if wide then [t, t] else [t]
    if m = 0 then .next (c.update fun st => (c.fallbacks i m tys st).retired)
    else if !c.st.hasRoom 3 then c.block (.room 3)
    else
      let tried := c.tryLanes (lanesOf m) addr fun s a l =>
        if glob then s.checkAtomic c.core c.t.asid opc (memAcc i.attr).scope size a l else (c.checkLocal size size a l, s)
      let a := memAcc i.attr
      let place (l : AccLane) : AccLane := { l with place := s.placeCode c.core (!glob) a.scope l }
      c.launchAcc i m { tried with lanes := tried.lanes.map place }
        { a with kind := .atomic opc sel t i.attr.sxBit, isLocal := !glob, size := size, tag := c.st.tag, floor := (s.floorOf c.r).getD c.st.tag
                 link := if a.rel then some (s.streamRef c.r) else none }
        data tys kindAtomic (fun st => { st with tag := st.tag + 1 }) fun va => s.placeAt c.core c.t.asid (!glob) a.scope va

/-- atom.add of integers (R240). -/
def execAtomAdd (i : Ins) (s : State) : Out := atomicOp 0x98 0 i s

/-- atom.add of floats (R242). -/
def execAtomAddFloat (i : Ins) (s : State) : Out := atomicOp 0x99 0 i s

/-- atom.min (R241). -/
def execAtomMin (i : Ins) (s : State) : Out := atomicOp 0x9A 0 i s

/-- atom.max (R241). -/
def execAtomMax (i : Ins) (s : State) : Out := atomicOp 0x9B 0 i s

/-- atom.and (R240). -/
def execAtomAnd (i : Ins) (s : State) : Out := atomicOp 0x9C 0 i s

/-- atom.or (R240). -/
def execAtomOr (i : Ins) (s : State) : Out := atomicOp 0x9D 0 i s

/-- atom.xor (R240). -/
def execAtomXor (i : Ins) (s : State) : Out := atomicOp 0x9E 0 i s

/-- atom.exch (R240). -/
def execAtomExch (i : Ins) (s : State) : Out := atomicOp 0x9F 0 i s

/-- atom.cas (R240). -/
def execAtomCas (i : Ins) (s : State) : Out := atomicOp 0xA0 0 i s

/-- atom.cas.x2 (R240). -/
def execAtomCasX2 (i : Ins) (s : State) : Out := atomicOp 0xA1 0 i s

/-- atom.inc (R240). -/
def execAtomInc (i : Ins) (s : State) : Out := atomicOp 0xA2 0 i s

/-- atom.dec (R240). -/
def execAtomDec (i : Ins) (s : State) : Out := atomicOp 0xA3 0 i s

/-- red.add of integers (R240). -/
def execRedAdd (i : Ins) (s : State) : Out := atomicOp 0xA4 0 i s

/-- red.add of floats (R242). -/
def execRedAddFloat (i : Ins) (s : State) : Out := atomicOp 0xA5 0 i s

/-- red.and (R240). -/
def execRedAnd (i : Ins) (s : State) : Out := atomicOp 0xA6 0 i s

/-- red.or (R240). -/
def execRedOr (i : Ins) (s : State) : Out := atomicOp 0xA6 1 i s

/-- red.xor (R240). -/
def execRedXor (i : Ins) (s : State) : Out := atomicOp 0xA6 2 i s

/-- red.min (R241). -/
def execRedMin (i : Ins) (s : State) : Out := atomicOp 0xA7 0 i s

/-- red.max (R241). -/
def execRedMax (i : Ins) (s : State) : Out := atomicOp 0xA7 1 i s

end Sys2Proof.Machine
end

