-- ==== Sys2Proof/Decode.lean ====
section
/-! DEFINITION. Reading and writing the portable encoding of an instruction (R48 to R54, spec/02_delaro_form.md), and
the names that tie opcodes to the constructors of `Instr`. -/
namespace Sys2Proof

/-- Which of an opcode's rows an instruction is. Five opcodes stand for several rows of the opcode table, told apart by
the form or attribute byte (Tables 7.2, 8.1, 9.1 and 4.1). -/
def rowOf (opc : Nat) (i : Ins) : Nat :=
  match opc with
  | 0x94 | 0xCC => if i.form = 0 then 0 else 1
  | 0xA6 => if i.attr.selField = 0 then 0 else if i.attr.selField = 1 then 1 else 2
  | 0xA7 => if i.attr.selField = 0 then 0 else 1
  | 0xA8 => if i.form = 0 then (if i.attr.low = 1 then 1 else 0) else 2
  | _ => 0

/-- The constructor of an opcode with its fields. `noncomputable` says only that Lean's compiled code cannot build
constructors numbered above 244, of which `Instr` has some; the kernel evaluates it. -/
noncomputable def mkInstr (opc : Nat) (i : Ins) : Option Instr :=
  match opc with
  | 0x00 => some (.add i)
  | 0x01 => some (.addc i)
  | 0x02 => some (.sub i)
  | 0x03 => some (.subb i)
  | 0x04 => some (.mul i)
  | 0x05 => some (.mulhi i)
  | 0x06 => some (.mulw i)
  | 0x07 => some (.mad i)
  | 0x08 => some (.div i)
  | 0x09 => some (.rem i)
  | 0x0A => some (.neg i)
  | 0x0B => some (.abs i)
  | 0x0C => some (.min i)
  | 0x0D => some (.max i)
  | 0x0E => some (.madhi i)
  | 0x0F => some (.idot i)
  | 0x10 => some (.sad i)
  | 0x11 => some (.and i)
  | 0x12 => some (.or i)
  | 0x13 => some (.xor i)
  | 0x14 => some (.not i)
  | 0x15 => some (.tlut i)
  | 0x16 => some (.shl i)
  | 0x17 => some (.shr i)
  | 0x18 => some (.rotl i)
  | 0x19 => some (.rotr i)
  | 0x1A => some (.fshl i)
  | 0x1B => some (.fshr i)
  | 0x1C => some (.clz i)
  | 0x1D => some (.ctz i)
  | 0x1E => some (.popc i)
  | 0x1F => some (.brev i)
  | 0x20 => some (.bfx i)
  | 0x21 => some (.bfi i)
  | 0x22 => some (.cmp i)
  | 0x23 => some (.cmpImm i)
  | 0x24 => some (.sel i)
  | 0x25 => some (.ext i)
  | 0x26 => some (.trunc i)
  | 0x27 => some (.constant i)
  | 0x28 => some (.lea i)
  | 0x29 => some (.ptradd i)
  | 0x2A => some (.ptrdiff i)
  | 0x2B => some (.ptrcvt i)
  | 0x2C => some (.addImm i)
  | 0x2D => some (.mulImm i)
  | 0x2E => some (.andImm i)
  | 0x2F => some (.orImm i)
  | 0x30 => some (.xorImm i)
  | 0x31 => some (.shlImm i)
  | 0x32 => some (.shrImm i)
  | 0x33 => some (.minImm i)
  | 0x34 => some (.maxImm i)
  | 0x35 => some (.bitcast i)
  | 0x36 => some (.cls i)
  | 0x37 => some (.bswap i)
  | 0x38 => some (.bpick i)
  | 0x39 => some (.divImm i)
  | 0x3A => some (.remImm i)
  | 0x3B => some (.rotlImm i)
  | 0x3C => some (.bfxImm i)
  | 0x3D => some (.bfiImm i)
  | 0x3E => some (.mov i)
  | 0x3F => some (.selImm i)
  | 0x40 => some (.fadd i)
  | 0x41 => some (.fsub i)
  | 0x42 => some (.fmul i)
  | 0x43 => some (.fma i)
  | 0x44 => some (.fnma i)
  | 0x45 => some (.fdiv i)
  | 0x46 => some (.sqrt i)
  | 0x47 => some (.rcp i)
  | 0x48 => some (.rsqrt i)
  | 0x49 => some (.fmin i)
  | 0x4A => some (.fmax i)
  | 0x4B => some (.fneg i)
  | 0x4C => some (.fabs i)
  | 0x4D => some (.copysign i)
  | 0x4E => some (.fcmp i)
  | 0x4F => some (.fclass i)
  | 0x50 => some (.cvtFF i)
  | 0x51 => some (.cvtFI i)
  | 0x52 => some (.cvtIF i)
  | 0x53 => some (.cvtToNf i)
  | 0x54 => some (.cvtFromNf i)
  | 0x55 => some (.rnd i)
  | 0x56 => some (.fract i)
  | 0x57 => some (.ldexp i)
  | 0x58 => some (.frexp i)
  | 0x59 => some (.exp2 i)
  | 0x5A => some (.log2 i)
  | 0x5B => some (.exp i)
  | 0x5C => some (.log i)
  | 0x5D => some (.sin i)
  | 0x5E => some (.cos i)
  | 0x5F => some (.sincos i)
  | 0x60 => some (.tanh i)
  | 0x61 => some (.sigm i)
  | 0x62 => some (.erf i)
  | 0x63 => some (.gelu i)
  | 0x64 => some (.atan2 i)
  | 0x65 => some (.pow i)
  | 0x66 => some (.cbrt i)
  | 0x67 => some (.silu i)
  | 0x68 => some (.dot2 i)
  | 0x69 => some (.pack2 i)
  | 0x6A => some (.unpack2 i)
  | 0x6B => some (.clamp i)
  | 0x6C => some (.lerp i)
  | 0x6D => some (.amax i)
  | 0x6E => some (.scx i)
  | 0x6F => some (.scl i)
  | 0x70 => some (.faddImm i)
  | 0x71 => some (.fmulImm i)
  | 0x72 => some (.fmaImm i)
  | 0x73 => some (.fminImm i)
  | 0x74 => some (.fmaxImm i)
  | 0x75 => some (.fcmpImm i)
  | 0x76 => some (.clampImm i)
  | 0x77 => some (.ldexpImm i)
  | 0x78 => some (.dot4n i)
  | 0x79 => some (.pack4 i)
  | 0x7A => some (.unpack4 i)
  | 0x7B => some (.rseed i)
  | 0x7C => some (.max3 i)
  | 0x7D => some (.min3 i)
  | 0x7E => some (.canon i)
  | 0x7F => some (.fmaw i)
  | 0x80 => some (.ldL i)
  | 0x81 => some (.ldG i)
  | 0x82 => some (.ldLPi i)
  | 0x83 => some (.ldGPi i)
  | 0x84 => some (.stL i)
  | 0x85 => some (.stG i)
  | 0x86 => some (.stLPi i)
  | 0x87 => some (.stGPi i)
  | 0x88 => some (.ldLX2 i)
  | 0x89 => some (.ldGX2 i)
  | 0x8A => some (.ldLX4 i)
  | 0x8B => some (.ldGX4 i)
  | 0x8C => some (.stLX2 i)
  | 0x8D => some (.stGX2 i)
  | 0x8E => some (.stLX4 i)
  | 0x8F => some (.stGX4 i)
  | 0x90 => some (.pf i)
  | 0x91 => some (.fence i)
  | 0x92 => some (.tagLk i)
  | 0x93 => some (.tagSet i)
  | 0x94 => if rowOf opc i = 0 then some (.tagClr i) else some (.tagClrAll i)
  | 0x95 => some (.ldc i)
  | 0x96 => some (.l1Inv i)
  | 0x97 => some (.pfL1 i)
  | 0x98 => some (.atomAdd i)
  | 0x99 => some (.atomAddFloat i)
  | 0x9A => some (.atomMin i)
  | 0x9B => some (.atomMax i)
  | 0x9C => some (.atomAnd i)
  | 0x9D => some (.atomOr i)
  | 0x9E => some (.atomXor i)
  | 0x9F => some (.atomExch i)
  | 0xA0 => some (.atomCas i)
  | 0xA1 => some (.atomCasX2 i)
  | 0xA2 => some (.atomInc i)
  | 0xA3 => some (.atomDec i)
  | 0xA4 => some (.redAdd i)
  | 0xA5 => some (.redAddFloat i)
  | 0xA6 => if rowOf opc i = 0 then some (.redAnd i) else if rowOf opc i = 1 then some (.redOr i) else some (.redXor i)
  | 0xA7 => if rowOf opc i = 0 then some (.redMin i) else some (.redMax i)
  | 0xA8 => if rowOf opc i = 0 then some (.ballot i) else if rowOf opc i = 1 then some (.ballotAt i) else some (.ballotCol i)
  | 0xA9 => some (.vote i)
  | 0xAA => some (.shfl i)
  | 0xAB => some (.bfly i)
  | 0xAC => some (.matchLanes i)
  | 0xAD => some (.gred i)
  | 0xAE => some (.gscan i)
  | 0xAF => some (.rsPush i)
  | 0xB0 => some (.rsPop i)
  | 0xB1 => some (.regroup i)
  | 0xB2 => some (.gredFloat i)
  | 0xB3 => some (.gscanFloat i)
  | 0xB4 => some (.shflImm i)
  | 0xB5 => some (.bflyImm i)
  | 0xB6 => some (.rsCnt i)
  | 0xB7 => some (.elect i)
  | 0xB8 => some (.blk i)
  | 0xB9 => some (.br i)
  | 0xBA => some (.brc i)
  | 0xBB => some (.brt i)
  | 0xBC => some (.call i)
  | 0xBD => some (.ret i)
  | 0xBE => some (.endStream i)
  | 0xBF => some (.rdv i)
  | 0xC0 => some (.bar i)
  | 0xC1 => some (.cbar i)
  | 0xC2 => some (.qpush i)
  | 0xC3 => some (.qpop i)
  | 0xC4 => some (.tokPush i)
  | 0xC5 => some (.tokPop i)
  | 0xC6 => some (.wait i)
  | 0xC7 => some (.sreg i)
  | 0xC8 => some (.modeSet i)
  | 0xC9 => some (.modeGet i)
  | 0xCA => some (.phase i)
  | 0xCB => some (.launch i)
  | 0xCC => if rowOf opc i = 0 then some (.trap i) else some (.trapValue i)
  | 0xCD => some (.brk i)
  | 0xCE => some (.yield i)
  | 0xCF => some (.sleep i)
  | 0xD0 => some (.qtry i)
  | 0xD1 => some (.qoffer i)
  | 0xD2 => some (.tokCnt i)
  | 0xD3 => some (.cntRd i)
  | 0xD4 => some (.nop i)
  | 0xD5 => some (.flagsClr i)
  | 0xD6 => some (.barArv i)
  | 0xD7 => some (.barWt i)
  | 0xD8 => some (.mxNest i)
  | 0xD9 => some (.mxGo i)
  | 0xDA => some (.mxLay i)
  | 0xDB => some (.mxZero i)
  | 0xDC => some (.mxLoad i)
  | 0xDD => some (.mxStore i)
  | 0xDE => some (.mxSpec i)
  | 0xDF => some (.mxCommit i)
  | 0xE0 => some (.mxDrop i)
  | 0xE1 => some (.mxFw i)
  | 0xE2 => some (.mxMma i)
  | 0xE3 => some (.mxConf i)
  | 0xE4 => some (.mxSclay i)
  | 0xE5 => some (.mxTcopy i)
  | 0xE6 => some (.mxTadd i)
  | 0xE7 => some (.mxStat i)
  | 0xE8 => some (.cpDesc i)
  | 0xE9 => some (.cpLd i)
  | 0xEA => some (.cpSt i)
  | 0xEB => some (.cpGg i)
  | 0xEC => some (.cpRed i)
  | 0xED => some (.cpFill i)
  | 0xEE => some (.cpBcast i)
  | 0xEF => some (.cpGat i)
  | 0xF0 => some (.cpSct i)
  | 0xF1 => some (.cpFence i)
  | 0xF2 => some (.cpRes i)
  | 0xF3 => some (.cpStat i)
  | 0xF4 => some (.chStep i)
  | 0xF5 => some (.chMark i)
  | 0xF6 => some (.trStart i)
  | 0xF7 => some (.trStop i)
  | 0xF8 => some (.trEmit i)
  | 0xF9 => some (.ctrRd i)
  | 0xFA => some (.sailDef i)
  | 0xFB => some (.sailReef i)
  | 0xFC => some (.sailShake i)
  | 0xFD => some (.sailDrop i)
  | 0xFE => some (.sailQuery i)
  | 0xFF => some (.sailWb i)
  | _ => none

/-- The opcode and the fields of an instruction of the portable form; none for a device step. -/
def Instr.fields? : Instr → Option (Nat × Ins)
  | .add i => some (0x00, i)
  | .addc i => some (0x01, i)
  | .sub i => some (0x02, i)
  | .subb i => some (0x03, i)
  | .mul i => some (0x04, i)
  | .mulhi i => some (0x05, i)
  | .mulw i => some (0x06, i)
  | .mad i => some (0x07, i)
  | .div i => some (0x08, i)
  | .rem i => some (0x09, i)
  | .neg i => some (0x0A, i)
  | .abs i => some (0x0B, i)
  | .min i => some (0x0C, i)
  | .max i => some (0x0D, i)
  | .madhi i => some (0x0E, i)
  | .idot i => some (0x0F, i)
  | .sad i => some (0x10, i)
  | .and i => some (0x11, i)
  | .or i => some (0x12, i)
  | .xor i => some (0x13, i)
  | .not i => some (0x14, i)
  | .tlut i => some (0x15, i)
  | .shl i => some (0x16, i)
  | .shr i => some (0x17, i)
  | .rotl i => some (0x18, i)
  | .rotr i => some (0x19, i)
  | .fshl i => some (0x1A, i)
  | .fshr i => some (0x1B, i)
  | .clz i => some (0x1C, i)
  | .ctz i => some (0x1D, i)
  | .popc i => some (0x1E, i)
  | .brev i => some (0x1F, i)
  | .bfx i => some (0x20, i)
  | .bfi i => some (0x21, i)
  | .cmp i => some (0x22, i)
  | .cmpImm i => some (0x23, i)
  | .sel i => some (0x24, i)
  | .ext i => some (0x25, i)
  | .trunc i => some (0x26, i)
  | .constant i => some (0x27, i)
  | .lea i => some (0x28, i)
  | .ptradd i => some (0x29, i)
  | .ptrdiff i => some (0x2A, i)
  | .ptrcvt i => some (0x2B, i)
  | .addImm i => some (0x2C, i)
  | .mulImm i => some (0x2D, i)
  | .andImm i => some (0x2E, i)
  | .orImm i => some (0x2F, i)
  | .xorImm i => some (0x30, i)
  | .shlImm i => some (0x31, i)
  | .shrImm i => some (0x32, i)
  | .minImm i => some (0x33, i)
  | .maxImm i => some (0x34, i)
  | .bitcast i => some (0x35, i)
  | .cls i => some (0x36, i)
  | .bswap i => some (0x37, i)
  | .bpick i => some (0x38, i)
  | .divImm i => some (0x39, i)
  | .remImm i => some (0x3A, i)
  | .rotlImm i => some (0x3B, i)
  | .bfxImm i => some (0x3C, i)
  | .bfiImm i => some (0x3D, i)
  | .mov i => some (0x3E, i)
  | .selImm i => some (0x3F, i)
  | .fadd i => some (0x40, i)
  | .fsub i => some (0x41, i)
  | .fmul i => some (0x42, i)
  | .fma i => some (0x43, i)
  | .fnma i => some (0x44, i)
  | .fdiv i => some (0x45, i)
  | .sqrt i => some (0x46, i)
  | .rcp i => some (0x47, i)
  | .rsqrt i => some (0x48, i)
  | .fmin i => some (0x49, i)
  | .fmax i => some (0x4A, i)
  | .fneg i => some (0x4B, i)
  | .fabs i => some (0x4C, i)
  | .copysign i => some (0x4D, i)
  | .fcmp i => some (0x4E, i)
  | .fclass i => some (0x4F, i)
  | .cvtFF i => some (0x50, i)
  | .cvtFI i => some (0x51, i)
  | .cvtIF i => some (0x52, i)
  | .cvtToNf i => some (0x53, i)
  | .cvtFromNf i => some (0x54, i)
  | .rnd i => some (0x55, i)
  | .fract i => some (0x56, i)
  | .ldexp i => some (0x57, i)
  | .frexp i => some (0x58, i)
  | .exp2 i => some (0x59, i)
  | .log2 i => some (0x5A, i)
  | .exp i => some (0x5B, i)
  | .log i => some (0x5C, i)
  | .sin i => some (0x5D, i)
  | .cos i => some (0x5E, i)
  | .sincos i => some (0x5F, i)
  | .tanh i => some (0x60, i)
  | .sigm i => some (0x61, i)
  | .erf i => some (0x62, i)
  | .gelu i => some (0x63, i)
  | .atan2 i => some (0x64, i)
  | .pow i => some (0x65, i)
  | .cbrt i => some (0x66, i)
  | .silu i => some (0x67, i)
  | .dot2 i => some (0x68, i)
  | .pack2 i => some (0x69, i)
  | .unpack2 i => some (0x6A, i)
  | .clamp i => some (0x6B, i)
  | .lerp i => some (0x6C, i)
  | .amax i => some (0x6D, i)
  | .scx i => some (0x6E, i)
  | .scl i => some (0x6F, i)
  | .faddImm i => some (0x70, i)
  | .fmulImm i => some (0x71, i)
  | .fmaImm i => some (0x72, i)
  | .fminImm i => some (0x73, i)
  | .fmaxImm i => some (0x74, i)
  | .fcmpImm i => some (0x75, i)
  | .clampImm i => some (0x76, i)
  | .ldexpImm i => some (0x77, i)
  | .dot4n i => some (0x78, i)
  | .pack4 i => some (0x79, i)
  | .unpack4 i => some (0x7A, i)
  | .rseed i => some (0x7B, i)
  | .max3 i => some (0x7C, i)
  | .min3 i => some (0x7D, i)
  | .canon i => some (0x7E, i)
  | .fmaw i => some (0x7F, i)
  | .ldL i => some (0x80, i)
  | .ldG i => some (0x81, i)
  | .ldLPi i => some (0x82, i)
  | .ldGPi i => some (0x83, i)
  | .stL i => some (0x84, i)
  | .stG i => some (0x85, i)
  | .stLPi i => some (0x86, i)
  | .stGPi i => some (0x87, i)
  | .ldLX2 i => some (0x88, i)
  | .ldGX2 i => some (0x89, i)
  | .ldLX4 i => some (0x8A, i)
  | .ldGX4 i => some (0x8B, i)
  | .stLX2 i => some (0x8C, i)
  | .stGX2 i => some (0x8D, i)
  | .stLX4 i => some (0x8E, i)
  | .stGX4 i => some (0x8F, i)
  | .pf i => some (0x90, i)
  | .fence i => some (0x91, i)
  | .tagLk i => some (0x92, i)
  | .tagSet i => some (0x93, i)
  | .tagClr i => some (0x94, i)
  | .tagClrAll i => some (0x94, i)
  | .ldc i => some (0x95, i)
  | .l1Inv i => some (0x96, i)
  | .pfL1 i => some (0x97, i)
  | .atomAdd i => some (0x98, i)
  | .atomAddFloat i => some (0x99, i)
  | .atomMin i => some (0x9A, i)
  | .atomMax i => some (0x9B, i)
  | .atomAnd i => some (0x9C, i)
  | .atomOr i => some (0x9D, i)
  | .atomXor i => some (0x9E, i)
  | .atomExch i => some (0x9F, i)
  | .atomCas i => some (0xA0, i)
  | .atomCasX2 i => some (0xA1, i)
  | .atomInc i => some (0xA2, i)
  | .atomDec i => some (0xA3, i)
  | .redAdd i => some (0xA4, i)
  | .redAddFloat i => some (0xA5, i)
  | .redAnd i => some (0xA6, i)
  | .redOr i => some (0xA6, i)
  | .redXor i => some (0xA6, i)
  | .redMin i => some (0xA7, i)
  | .redMax i => some (0xA7, i)
  | .ballot i => some (0xA8, i)
  | .ballotAt i => some (0xA8, i)
  | .ballotCol i => some (0xA8, i)
  | .vote i => some (0xA9, i)
  | .shfl i => some (0xAA, i)
  | .bfly i => some (0xAB, i)
  | .matchLanes i => some (0xAC, i)
  | .gred i => some (0xAD, i)
  | .gscan i => some (0xAE, i)
  | .rsPush i => some (0xAF, i)
  | .rsPop i => some (0xB0, i)
  | .regroup i => some (0xB1, i)
  | .gredFloat i => some (0xB2, i)
  | .gscanFloat i => some (0xB3, i)
  | .shflImm i => some (0xB4, i)
  | .bflyImm i => some (0xB5, i)
  | .rsCnt i => some (0xB6, i)
  | .elect i => some (0xB7, i)
  | .blk i => some (0xB8, i)
  | .br i => some (0xB9, i)
  | .brc i => some (0xBA, i)
  | .brt i => some (0xBB, i)
  | .call i => some (0xBC, i)
  | .ret i => some (0xBD, i)
  | .endStream i => some (0xBE, i)
  | .rdv i => some (0xBF, i)
  | .bar i => some (0xC0, i)
  | .cbar i => some (0xC1, i)
  | .qpush i => some (0xC2, i)
  | .qpop i => some (0xC3, i)
  | .tokPush i => some (0xC4, i)
  | .tokPop i => some (0xC5, i)
  | .wait i => some (0xC6, i)
  | .sreg i => some (0xC7, i)
  | .modeSet i => some (0xC8, i)
  | .modeGet i => some (0xC9, i)
  | .phase i => some (0xCA, i)
  | .launch i => some (0xCB, i)
  | .trap i => some (0xCC, i)
  | .trapValue i => some (0xCC, i)
  | .brk i => some (0xCD, i)
  | .yield i => some (0xCE, i)
  | .sleep i => some (0xCF, i)
  | .qtry i => some (0xD0, i)
  | .qoffer i => some (0xD1, i)
  | .tokCnt i => some (0xD2, i)
  | .cntRd i => some (0xD3, i)
  | .nop i => some (0xD4, i)
  | .flagsClr i => some (0xD5, i)
  | .barArv i => some (0xD6, i)
  | .barWt i => some (0xD7, i)
  | .mxNest i => some (0xD8, i)
  | .mxGo i => some (0xD9, i)
  | .mxLay i => some (0xDA, i)
  | .mxZero i => some (0xDB, i)
  | .mxLoad i => some (0xDC, i)
  | .mxStore i => some (0xDD, i)
  | .mxSpec i => some (0xDE, i)
  | .mxCommit i => some (0xDF, i)
  | .mxDrop i => some (0xE0, i)
  | .mxFw i => some (0xE1, i)
  | .mxMma i => some (0xE2, i)
  | .mxConf i => some (0xE3, i)
  | .mxSclay i => some (0xE4, i)
  | .mxTcopy i => some (0xE5, i)
  | .mxTadd i => some (0xE6, i)
  | .mxStat i => some (0xE7, i)
  | .cpDesc i => some (0xE8, i)
  | .cpLd i => some (0xE9, i)
  | .cpSt i => some (0xEA, i)
  | .cpGg i => some (0xEB, i)
  | .cpRed i => some (0xEC, i)
  | .cpFill i => some (0xED, i)
  | .cpBcast i => some (0xEE, i)
  | .cpGat i => some (0xEF, i)
  | .cpSct i => some (0xF0, i)
  | .cpFence i => some (0xF1, i)
  | .cpRes i => some (0xF2, i)
  | .cpStat i => some (0xF3, i)
  | .chStep i => some (0xF4, i)
  | .chMark i => some (0xF5, i)
  | .trStart i => some (0xF6, i)
  | .trStop i => some (0xF7, i)
  | .trEmit i => some (0xF8, i)
  | .ctrRd i => some (0xF9, i)
  | .sailDef i => some (0xFA, i)
  | .sailReef i => some (0xFB, i)
  | .sailShake i => some (0xFC, i)
  | .sailDrop i => some (0xFD, i)
  | .sailQuery i => some (0xFE, i)
  | .sailWb i => some (0xFF, i)
  | .bundleIssue _ => none
  | .streamStop _ => none
  | .translation _ _ => none
  | .translationComplete _ _ => none
  | .teCmdEvictHash _ => none
  | .teCmdEvictAll _ => none
  | .lwQdb _ _ => none
  | .lwQcfg _ _ => none
  | .lwQstat _ _ => none
  | .launchRecordCopy _ => none
  | .clusterPlacement _ => none
  | .teamRetire _ => none
  | .lwCcCount _ _ => none
  | .lwPreempt _ => none
  | .preemptWaitTimeout _ => none
  | .preemptSave _ => none
  | .clusterResume _ => none
  | .teamStall _ => none
  | .heldCompletionRelease _ _ => none
  | .sleepExpire _ => none
  | .cbarFarMessage _ _ _ => none
  | .phaseDrain _ => none
  | .phaseDrainEnd _ => none
  | .loadReturn _ => none
  | .storeAck _ => none
  | .coalesceTimeout _ _ => none
  | .atomicRequest _ _ => none
  | .atomicResult .. => none
  | .freeNotice _ => none
  | .atomicopCompletion _ _ _ => none
  | .pcieCompletionTimeout _ _ => none
  | .chunkStart _ _ => none
  | .chunkLand .. => none
  | .mxqHeadStart _ => none
  | .mxCommandComplete _ => none
  | .batchClose _ => none
  | .batchWrite _ => none
  | .pgResolve _ => none
  | .batchTimeout _ _ => none
  | .pgCmdShootdown _ => none
  | .pgCmdMigrate _ => none
  | .pgCmdUnmap _ => none
  | .pgCmdPin _ => none
  | .pgCmdUnpin _ => none
  | .shootdownComplete => none
  | .migrationCopy => none
  | .slCmdResail _ => none
  | .slCmdDefine _ => none
  | .slCmdDrop _ => none
  | .slCmdReef _ => none
  | .slCmdShake _ => none
  | .sweepPanel _ _ => none
  | .drainComplete _ _ => none
  | .bridgeFlitReceive _ _ _ _ => none
  | .fetch _ _ => none
  | .fetchResponse _ _ => none
  | .hold _ _ => none
  | .holdAck _ _ => none
  | .openMsg _ _ => none
  | .invalidate _ _ => none
  | .efUpdate _ _ => none
  | .syncRequest _ _ => none
  | .syncMarker _ _ => none
  | .holdTimeout _ => none
  | .fabricTimeout _ => none
  | .fbDiereset _ => none
  | .dieResetEnd => none
  | .flitReceive _ _ _ => none
  | .replayTimeout _ => none
  | .portTraining _ _ _ => none
  | .portDown _ => none
  | .peerRequest _ _ _ => none
  | .atsInvalidation _ _ => none
  | .walkEnd _ => none
  | .sample _ => none
  | .muxBankSwitch _ => none
  | .trMux _ _ _ => none
  | .trKdbg _ => none
  | .trDstop _ => none
  | .ptpMessage _ => none
  | .powerGood => none
  | .moduleReset => none
  | .hbDvfs _ _ => none
  | .powerMeasurement _ => none
  | .junctionTemperature _ _ => none
  | .scrub _ _ => none
  | .secCmd _ => none
  | .secChal => none
  | .secUnlock _ => none
  | .registerWrite _ _ => none
  | .pllRelock _ => none
  | .bringUpStepEnd _ _ => none
  | .attestationReportDone _ => none

/-- Which row of its opcode a constructor is. -/
def Instr.row : Instr → Nat
  | .tagClrAll _ => 1
  | .redOr _ => 1
  | .redXor _ => 2
  | .redMax _ => 1
  | .ballotAt _ => 1
  | .ballotCol _ => 2
  | .trapValue _ => 1
  | _ => 0

/-! ### LEB128 (R53) -/

/-- Unsigned LEB128 in its shortest form, of at most `fuel` bytes. -/
def ulebBytes : Nat → Nat → List Byte
  | 0, _ => []
  | fuel + 1, n =>
      if n < 128 then [BitVec.ofNat 8 n] else BitVec.ofNat 8 (n % 128 + 128) :: ulebBytes fuel (n / 128)

/-- Signed LEB128 in its shortest form, of at most `fuel` bytes. -/
def slebBytes : Nat → Int → List Byte
  | 0, _ => []
  | fuel + 1, x =>
      let low := (x % 128).toNat
      let rest := x / 128
      if (rest = 0 ∧ low < 64) ∨ (rest = -1 ∧ 64 ≤ low) then [BitVec.ofNat 8 low]
      else BitVec.ofNat 8 (low + 128) :: slebBytes fuel rest

/-- What reading a LEB128 quantity gives: its value, its length in bytes, whether it is in its shortest form. -/
structure Leb (α : Type) where
  value : α
  len : Nat
  short : Bool
  deriving DecidableEq, Repr

/-- Reads unsigned LEB128; `first` says that no byte of the quantity came before. None where the bytes run out. -/
def readUleb : Nat → Bool → List Byte → Option (Leb Nat × List Byte)
  | 0, _, bs => some (⟨0, 0, false⟩, bs)
  | _ + 1, _, [] => none
  | fuel + 1, first, b :: bs =>
      if b.toNat < 128 then some (⟨b.toNat, 1, first || b.toNat != 0⟩, bs)
      else match readUleb fuel false bs with
        | none => none
        | some (q, r) => some (⟨b.toNat - 128 + 128 * q.value, q.len + 1, q.short⟩, r)

/-- Reads signed LEB128; `prev` is bit 6 of the byte before, none at the first byte. A last byte 0x00 after a clear bit
6, or 0x7F after a set one, adds nothing and so is not the shortest form. -/
def readSleb : Nat → Option Bool → List Byte → Option (Leb Int × List Byte)
  | 0, _, bs => some (⟨0, 0, false⟩, bs)
  | _ + 1, _, [] => none
  | fuel + 1, prev, b :: bs =>
      let n := b.toNat
      if n < 128 then
        some (⟨if n < 64 then n else (n : Int) - 128, 1,
          !(prev == some false && n == 0) && !(prev == some true && n == 127)⟩, bs)
      else match readSleb fuel (some (64 ≤ n - 128)) bs with
        | none => none
        | some (q, r) => some (⟨(n : Int) - 128 + 128 * q.value, q.len + 1, q.short⟩, r)

/-- The code of a LEB128 quantity whose kind allows `longest` bytes (0x06). -/
def lebCodes {α : Type} (longest : Nat) (q : Leb α) : List Nat :=
  if q.short && q.len ≤ longest then [] else [0x06]

/-! ### Fields -/

/-- What a field reader answers: the field, the verification codes its bytes give, and the bytes after it; none where
the bytes run out. -/
abbrev Field (α : Type) := Option (α × List Nat × List Byte)

/-- An unsigned quantity of at most `longest` bytes. -/
def readNat (longest : Nat) (bs : List Byte) : Field Nat :=
  match readUleb 10 true bs with
  | none => none
  | some (q, r) => some (q.value, lebCodes longest q, r)

/-- `n` unsigned quantities of at most 3 bytes: value, block and function references. -/
def readNats : Nat → List Byte → Field (List Nat)
  | 0, bs => some ([], [], bs)
  | n + 1, bs =>
      match readNat 3 bs with
      | none => none
      | some (x, c, r) => match readNats n r with
        | none => none
        | some (xs, c', r') => some (x :: xs, c ++ c', r')

/-- Bytes as a little-endian number. -/
def leNat : List Byte → Nat
  | [] => 0
  | b :: bs => b.toNat + 256 * leNat bs

/-- The `n` low bytes of a number, little-endian. -/
def leBytes : Nat → Nat → List Byte
  | 0, _ => []
  | n + 1, x => BitVec.ofNat 8 x :: leBytes n (x / 256)

/-- The first `n` bytes. -/
def takeBytes (n : Nat) (bs : List Byte) : Option (List Byte × List Byte) :=
  if n ≤ bs.length then some (bs.take n, bs.drop n) else none

/-- One operand (Table 2.7). -/
def readOpnd (q : ArgReq) (bs : List Byte) : Field Opnd :=
  match q with
  | .v _ => match readNat 3 bs with
      | none => none
      | some (n, c, r) => some (.val n, c, r)
  | .i _ _ => match readSleb 10 none bs with
      | none => none
      | some (x, r) => some (.int x.value, lebCodes 10 x, r)
  | .f k => match takeBytes k bs with
      | none => none
      | some (xs, r) => some (.raw (leNat xs), [], r)
  | .x => match readNat 1 bs with
      | none => none
      | some (n, c, r) => some (.idx n, c, r)

/-- The operands of a signature, in order. -/
def readOpnds : List ArgReq → List Byte → Field (List Opnd)
  | [], bs => some ([], [], bs)
  | q :: qs, bs =>
      match readOpnd q bs with
      | none => none
      | some (o, c, r) => match readOpnds qs r with
        | none => none
        | some (os, c', r') => some (o :: os, c ++ c', r')

/-- A block or function reference with its argument list. -/
def readTarget (bs : List Byte) : Field Target :=
  match readNat 3 bs with
  | none => none
  | some (b, c, r) => match readNat 1 r with
    | none => none
    | some (n, c', r') => match readNats n r' with
      | none => none
      | some (args, c'', r'') => some (⟨b, args⟩, c ++ (c' ++ c''), r'')

def readTargets : Nat → List Byte → Field (List Target)
  | 0, bs => some ([], [], bs)
  | n + 1, bs =>
      match readTarget bs with
      | none => none
      | some (x, c, r) => match readTargets n r with
        | none => none
        | some (xs, c', r') => some (x :: xs, c ++ c', r')

/-- The targets of an opcode: for brt a count, the table and the default (R104). -/
def readSucc (opc : Nat) (bs : List Byte) : Field (List Target) :=
  match succCount opc with
  | some n => readTargets n bs
  | none => match readNat 1 bs with
      | none => none
      | some (n, c, r) => match readTargets (n + 1) r with
        | none => none
        | some (ts, c', r') => some (ts, c ++ c', r')

/-- The type list of blk. -/
def readTys (opc : Nat) (bs : List Byte) : Field (List Byte) :=
  if opc = 0xB8 then
    match readNat 1 bs with
    | none => none
    | some (n, c, r) => match takeBytes n r with
      | none => none
      | some (ts, r') => some (ts, c, r')
  else some ([], [], bs)

/-- The attribute bytes of an opcode (Tables 2.5, 2.6, 2.9); a reserved bit that is set gives code 0x05. -/
def readAttr (opc : Nat) (bs : List Byte) : Field Attr :=
  let fields (b : Byte) : BitVec 3 × Bool × Bool × BitVec 3 :=
    (b.extractLsb' 5 3, b.getLsbD 4, b.getLsbD 3, b.extractLsb' 0 3)
  match attrKind opc, bs with
  | .none, r => some (.none, [], r)
  | .arith, b :: r => let (rm, sat, sx, op) := fields b; some (.arith rm sat sx op, [], r)
  | .cvt, b :: c :: r =>
      let (rm, sat, sx, op) := fields b
      some (.cvt rm sat sx op (c.extractLsb' 0 6), if c.extractLsb' 6 2 = 0 then [] else [0x05], r)
  | .mem, b :: c :: r =>
      some (.mem (b.extractLsb' 0 4) (b.extractLsb' 4 3) (b.getLsbD 7) (c.getLsbD 0) (c.getLsbD 1) (c.getLsbD 2)
        (c.extractLsb' 3 2) (c.getLsbD 5), if c.extractLsb' 6 2 = 0 then [] else [0x05], r)
  | .ctl, b :: r => some (.ctl b, [], r)
  | _, _ => none

/-- The guard reference (R49). Mode 0b11 gives code 0x03 and reads no reference. -/
def readGuard (mode : Nat) (bs : List Byte) : Field Guard :=
  if mode = 1 ∨ mode = 2 then
    match readNat 3 bs with
    | none => none
    | some (n, c, r) => some (if mode = 1 then .whenTrue (.val n) else .whenFalse (.val n), c, r)
  else some (.always, if mode = 3 then [0x03] else [], bs)

/-- An instruction as read: its opcode, its fields, and every verification code that its bytes give by themselves. -/
structure Parsed where
  opc : Nat
  ins : Ins
  codes : List Nat
  rest : List Byte
  deriving DecidableEq, Repr

/-- Why no instruction was read: the bytes ended within it, or the lowest verification code of Table 2.3 that it
gives. -/
inductive DecodeError where
  | short
  | code (n : Nat)
  deriving DecidableEq, Repr

/-- The operands, targets and type list, once the signature is known. `nres` is the number of values a ret carries. -/
def readBody (opc nres : Nat) (g : Guard) (s : Sig) (bs : List Byte) :
    Field (List Nat × List Opnd × List Target × List Byte) :=
  match readNats (fallCount g s) bs with
  | none => none
  | some (fs, c1, r1) => match readOpnds (if opc = 0xBD then List.replicate nres (.v []) else s.args) r1 with
    | none => none
    | some (src, c2, r2) => match readSucc opc r2 with
      | none => none
      | some (succ, c3, r3) => match readTys opc r3 with
        | none => none
        | some (tys, c4, r4) => some ((fs, src, succ, tys), c1 ++ (c2 ++ (c3 ++ c4)), r4)

/-- Reads one instruction, as Table 2.4 orders its fields. Reading stops after the attribute bytes where the type or
variant code is not the opcode's (0x04), because the operands are then unknown. -/
def parseIns (nres : Nat) (bs : List Byte) : Option Parsed :=
  match bs with
  | b0 :: b1 :: r0 =>
      let opc := b0.toNat
      let form := b1.extractLsb' 0 6
      match readAttr opc r0 with
      | none => none
      | some (a, ca, r1) =>
          let mode := b1.toNat / 64
          match sig opc form.toNat a with
          | none =>
              let i : Ins := { form := form, attr := a }
              some ⟨opc, i, (if mode = 3 then [0x03] else []) ++ (ca ++ insCodes opc i), r1⟩
          | some s => match readGuard mode r1 with
            | none => none
            | some (g, cg, r2) => match readBody opc nres g s r2 with
              | none => none
              | some ((fs, src, succ, tys), cb, r3) =>
                  let i : Ins := { guard := g, form := form, attr := a, falls := fs.map .val, src := src, succ := succ,
                                   tys := tys }
                  let long := if bs.length - r3.length ≤ 24 then [] else [0x07]
                  some ⟨opc, i, ca ++ (cg ++ (cb ++ (long ++ insCodes opc i))), r3⟩
  | _ => none

/-- The least of some codes. -/
def leastCode : List Nat → Option Nat
  | [] => none
  | c :: cs => match leastCode cs with
      | none => some c
      | some d => some (min c d)

/-- The opcode and the fields of the instruction at the start of some bytes, and the bytes after it. It refuses by the
verification code of Table 2.3, the lowest that applies (R47). -/
def decodeFields (nres : Nat) (bs : List Byte) : Except DecodeError (Nat × Ins × List Byte) :=
  match parseIns nres bs with
  | none => .error .short
  | some p => match leastCode p.codes with
    | some c => .error (.code c)
    | none => .ok (p.opc, p.ins, p.rest)

/-- The decoder: the instruction at the start of some bytes, and the bytes after it. -/
noncomputable def decode (nres : Nat) (bs : List Byte) : Except DecodeError (Instr × List Byte) :=
  match decodeFields nres bs with
  | .error e => .error e
  | .ok (opc, f, r) => match mkInstr opc f with
    | none => .error (.code 0x04)
    | some i => .ok (i, r)

/-! ### The encoder -/

def natBytes (n : Nat) : List Byte := ulebBytes 10 n

def natsBytes (ns : List Nat) : List Byte := (ns.map natBytes).flatten

/-- The value number of an operand. -/
def Opnd.num : Opnd → Nat
  | .val n => n
  | .idx n => n
  | .int _ | .raw _ | .reg _ | .pred _ | .lit _ => 0

/-- One operand (Table 2.7). -/
def opndBytes (q : ArgReq) (o : Opnd) : List Byte :=
  match q, o with
  | .i _ _, .int x => slebBytes 10 x
  | .f k, .raw x => leBytes k x
  | _, o => natBytes o.num

def targetBytes (t : Target) : List Byte := natBytes t.num ++ (natBytes t.args.length ++ natsBytes t.args)

/-- The arithmetic attribute byte (Table 2.5). -/
def arithByte (rm : BitVec 3) (sat sx : Bool) (op : BitVec 3) : Byte := rm ++ (BitVec.ofBool sat ++ (BitVec.ofBool sx ++ op))

/-- The attribute bytes (Tables 2.5 and 2.6). -/
def attrBytes : Attr → List Byte
  | .none => []
  | .arith rm sat sx op => [arithByte rm sat sx op]
  | .cvt rm sat sx op src => [arithByte rm sat sx op, src.setWidth 8]
  | .mem cls scope acq rel ro ef sel sx =>
      [BitVec.ofBool acq ++ (scope ++ cls),
       (0 : BitVec 2) ++ (BitVec.ofBool sx ++ (sel ++ (BitVec.ofBool ef ++ (BitVec.ofBool ro ++ BitVec.ofBool rel))))]
  | .ctl b => [b]

/-- The form byte (R49). -/
def formByte (i : Ins) : Byte :=
  (match i.guard with | .always => (0 : BitVec 2) | .whenTrue _ => 1 | .whenFalse _ => 2) ++ i.form

def guardBytes : Guard → List Byte
  | .always => []
  | .whenTrue o | .whenFalse o => natBytes o.num

/-- The encoding of the fields of an opcode (Table 2.4). -/
def insBytes (opc : Nat) (i : Ins) : List Byte :=
  let s := (sig opc i.form.toNat i.attr).getD {}
  let args := if opc = 0xBD then List.replicate i.src.length (.v []) else s.args
  BitVec.ofNat 8 opc :: formByte i :: (attrBytes i.attr ++ (guardBytes i.guard ++ (natsBytes (i.falls.map Opnd.num)
    ++ ((List.zipWith opndBytes args i.src).flatten
    ++ ((if opc = 0xBB then natBytes (i.succ.length - 1) else [])
    ++ ((i.succ.map targetBytes).flatten
    ++ (if opc = 0xB8 then natBytes i.tys.length ++ i.tys else [])))))))

/-- The encoding of an instruction of the portable form; a device step has none. -/
def encode (i : Instr) : List Byte :=
  match i.fields? with
  | some (opc, f) => insBytes opc f
  | none => []

/-- The instruction whose bits are `w`, numbered from the least significant bit of its first byte; bits above `nbits`
are zero. -/
noncomputable def decodeTableWord (nbits w : Nat) : Option Instr :=
  match decode 0 (leBytes 24 (w % 2 ^ nbits)) with
  | .ok (i, _) => some i
  | .error _ => none

end Sys2Proof
end

