-- ==== Sys2Proof/Machine/Engines.lean ====
section
/-! DEFINITION. What the instructions and the asynchronous engines share: the queues of the copy engine, faults that halt
one, and the end of a speculative region (spec/10_copy_engine.md R293, R296; spec/11_matrix_engine.md R321 to R324). -/
namespace Sys2Proof.Machine

/-! ### Copy queues -/

/-- A queue by number: 0 LDQ, 1 STQ. -/
def CopyEngine.queue (e : CopyEngine) (q : Nat) : CopyQueue := if q = 0 then e.ldq else e.stq

def CopyEngine.setQueue (e : CopyEngine) (q : Nat) (x : CopyQueue) : CopyEngine :=
  if q = 0 then { e with ldq := x } else { e with stq := x }

def State.copyQueue (s : State) (c : CoreRef) (q : Nat) : CopyQueue :=
  ((s.team? c).map fun t => t.copy.queue q).getD {}

def State.modQueue (s : State) (c : CoreRef) (q : Nat) (f : CopyQueue → CopyQueue) : State :=
  s.modTeam c fun t => { t with copy := t.copy.setQueue q (f (t.copy.queue q)) }

/-- Reports the fault that halts a queue (R293): a missing page goes to the gatherers; every other code becomes due in
the issuing stream, on the CP path. A speculative command's fault waits for the end of its region (R296). -/
def State.reportCopyFault (s : State) (c : CoreRef) (q : Nat) : State :=
  match s.team? c with
  | none => s
  | some t =>
    let x := t.copy.queue q
    match x.halted with
    | none => s
    | some f =>
      match x.cmds.find? fun k => k.id == f.cmd with
      | none => s
      | some k =>
        if f.reported || k.spec.isSome then s
        else
          let s := s.modQueue c q fun x => { x with halted := some { f with reported := true } }
          if f.code = 0x20 then
            f.blocks.foldl (fun s b => s.gather c.die
              { asid := t.asid, block := b, kinds := kindCopy, who := .copy k.id q f.chunk, time := s.now })
              (s.teamEvent c 63 0x20 k.pos)
          else
            s.modStream ⟨c.die, c.core, k.stream⟩ fun st => { st with due := st.due ++
              [{ code := f.code, path := 4, cause := f.cause, issued := k.pos, detail := f.addr, chunk := f.chunk }] }

/-! ### Matrix commands -/

/-- A tile command: it pops a format word (Table 11.3). -/
def MxOp.isTile : MxOp → Bool
  | .go .. | .mma _ | .load .. | .store .. => true
  | .nest .. | .lay .. | .zero _ | .spec .. | .commit _ | .fwb _ | .sclay .. | .tcopy .. | .tadd .. => false

/-- A setup command: it executes in one cycle beside a running command (R310). -/
def MxOp.isSetup : MxOp → Bool
  | .nest .. | .lay .. | .fwb _ | .sclay .. => true
  | .go .. | .mma _ | .load .. | .store .. | .zero _ | .spec .. | .commit _ | .tcopy .. | .tadd .. => false

/-- Removes entry `n` of a list. -/
def removeAt {α : Type} : List α → Nat → List α
  | [], _ => []
  | _ :: xs, 0 => xs
  | x :: xs, n + 1 => x :: removeAt xs n

/-- Takes a dropped region's commands out of MXQ, oldest first, with their format words (R324): the commands left, the
words left and the numbers of the commands removed. `waiting` counts the older tile commands that wait for words. -/
def dropCommands (num : Nat) : List MxCmd → Nat → List (BitVec 32) → List MxCmd × List (BitVec 32) × List Nat
  | [], _, fw => ([], fw, [])
  | k :: ks, waiting, fw =>
    if k.region = some num && !k.started then
      let r := dropCommands num ks waiting (if k.op.isTile then removeAt fw waiting else fw)
      (r.1, r.2.1, k.id :: r.2.2)
    else
      let r := dropCommands num ks (if k.op.isTile && !k.started then waiting + 1 else waiting) fw
      ((if k.region = some num then { k with dead := true } else k) :: r.1, r.2.1, r.2.2)

/-- A region's copies move no further chunk; a halt at one of them is over (R296). -/
def CopyQueue.dropRegion (x : CopyQueue) (num : Nat) : CopyQueue :=
  let mine (id : Nat) : Bool := x.cmds.any fun k => k.id == id && k.spec == some num
  { x with
    cmds := x.cmds.map fun k => if k.spec = some num then { k with dead := true, spec := none } else k
    halted := match x.halted with
      | some f => if mine f.cmd then none else some f
      | none => none }

/-- Drops the open region of a team (R324, R333). -/
def State.dropRegion (s : State) (c : CoreRef) : State :=
  match s.team? c with
  | none => s
  | some t =>
    match t.matrix.region with
    | none => s
    | some g =>
      let r := dropCommands g.num t.matrix.queue 0 t.matrix.fwq
      let s := (s.teamTally c 47 1).modTeam c fun t =>
        { t with
          matrix := { t.matrix with queue := r.1, fwq := r.2.1, region := none }
          copy := { t.copy with ldq := t.copy.ldq.dropRegion g.num, stq := t.copy.stq.dropRegion g.num } }
      let ref := s.terminalRef c.die c.core 3
      r.2.2.foldl (fun s id => s.modStream ⟨c.die, c.core, 32⟩ fun st => st.lower 5 id ref) s

/-- Closes the open region by a commit: its commands and copies are ordinary from now on, and a fault held back is
reported (R323). -/
def State.commitRegion (s : State) (c : CoreRef) (num : Nat) : State :=
  let plain (x : CopyQueue) : CopyQueue :=
    { x with cmds := x.cmds.map fun k => if k.spec = some num then { k with spec := none } else k }
  let s := s.modTeam c fun t =>
    { t with
      matrix := { t.matrix with
        region := none
        queue := t.matrix.queue.map fun k => if k.region = some num then { k with region := none } else k }
      copy := { t.copy with ldq := plain t.copy.ldq, stq := plain t.copy.stq } }
  (s.reportCopyFault c 0).reportCopyFault c 1

end Sys2Proof.Machine
end

