-- ==== Sys2Proof/Machine/Exchange.lean ====
section
/-! DEFINITION. The exchange engine (spec/09_exchange_engine.md): lanes of a group exchange values, the record streams of
the team, and regroup. -/
namespace Sys2Proof.Machine

/-! ### Lanes that take part (R259) -/

/-- An exchange instruction: the results of each participating lane, from the list of those lanes. -/
def exchangewise (opc : Nat) (i : Ins) (s : State) (tys : List Nat) (f : Cx → List Nat → Nat → LaneOut) : Out :=
  withCx s fun c =>
    let m := c.lanes i
    let ls := lanesOf m
    c.finish opc i tys m (ls.map fun l => (l, f c ls l))

/-- The lowest-numbered participating lane. -/
def lowest (ls : List Nat) : Nat := (ls.head?).getD 0

/-- A mask of the lanes of a list that satisfy a test, as a number. -/
def gather (ls : List Nat) (p : Nat → Bool) : Nat := (ls.filter p).foldl (fun n l => n + 2 ^ l) 0

/-! ### Ballots, votes and election (R263, R264) -/

/-- ballot (R263). -/
def execBallot (i : Ins) (s : State) : Out :=
  exchangewise 0xA8 i s [tI32] fun c ls _ => { vals := [gather ls fun l => c.arg i 0 1 l == 1] }

/-- ballot.at (R263). -/
def execBallotAt (i : Ins) (s : State) : Out :=
  exchangewise 0xA8 i s [tI32] fun c ls l =>
    { vals := [if l = c.arg i 1 32 (lowest ls) then gather ls fun l => c.arg i 0 1 l == 1 else c.arg i 2 32 l] }

/-- ballot.col (R263). -/
def execBallotCol (i : Ins) (s : State) : Out :=
  exchangewise 0xA8 i s [tI32] fun c ls l =>
    let n := c.arg i 1 32 (lowest ls)
    { vals := [if l = n then gather ls fun k => n < 32 && c.arg i 0 32 k / 2 ^ n % 2 == 1 else c.arg i 2 32 l] }

/-- The modes of vote (Table 9.5), by the number of votes and of participating lanes. -/
def voteOf (mode t n : Nat) : Bool :=
  match mode with
  | 0 => decide (1 ≤ t)
  | 1 => t == n
  | 2 => t == 0 || t == n
  | 3 => t == 0
  | 4 => t % 2 == 1
  | _ => decide (n < 2 * t)

/-- vote (R264). -/
def execVote (i : Ins) (s : State) : Out :=
  exchangewise 0xA9 i s [tI1] fun c ls _ =>
    { vals := [(voteOf i.attr.low (ls.filter fun l => c.arg i 0 1 l == 1).length ls.length).toNat] }

/-- elect (R264). -/
def execElect (i : Ins) (s : State) : Out :=
  exchangewise 0xB7 i s [tI1] fun _ ls l => { vals := [(l == lowest ls).toNat] }

/-! ### Shuffles, butterflies and matching (R265 to R267) -/

/-- The source lane of shfl. -/
def shflSource (mode l n : Nat) : Int :=
  match mode with
  | 0 => n
  | 1 => (l : Int) - n
  | 2 => (l : Int) + n
  | _ => (l ^^^ n : Nat)

/-- shfl and shfl# (R262, R265). -/
def shuffle (opc : Nat) (i : Ins) (s : State) : Out :=
  exchangewise opc i s [i.form.toNat] fun c ls l =>
    let w := tyBits i.form.toNat
    let src := shflSource i.attr.low l (c.arg i 1 32 l)
    { vals := [if 0 ≤ src ∧ src ≤ 31 ∧ ls.contains src.toNat then c.arg i 0 w src.toNat else c.arg i 0 w l] }

/-- shfl (R265). -/
def execShfl (i : Ins) (s : State) : Out := shuffle 0xAA i s

/-- shfl# (R262). -/
def execShflImm (i : Ins) (s : State) : Out := shuffle 0xB4 i s

/-- bfly and bfly# (R262, R266). -/
def butterfly (opc : Nat) (i : Ins) (s : State) : Out :=
  exchangewise opc i s [i.form.toNat] fun c ls l =>
    let w := tyBits i.form.toNat
    let q := l ^^^ (c.arg i 2 32 (lowest ls) % 32)
    { vals := [if c.arg i 1 32 l / 2 ^ l % 2 = 1 ∧ ls.contains q then c.arg i 0 w q else c.arg i 0 w l] }

/-- bfly (R266). -/
def execBfly (i : Ins) (s : State) : Out := butterfly 0xAB i s

/-- bfly# (R262). -/
def execBflyImm (i : Ins) (s : State) : Out := butterfly 0xB5 i s

/-- match (R267). -/
def execMatchLanes (i : Ins) (s : State) : Out :=
  exchangewise 0xAC i s [tI32] fun c ls l =>
    let w := tyBits i.form.toNat
    let peers := ls.filter fun k => c.arg i 0 w k == c.arg i 0 w l
    { vals := [match i.attr.low with
      | 0 => gather peers fun _ => true
      | 1 => if peers.length = ls.length then gather ls fun _ => true else 0
      | _ => lowest peers] }

/-! ### Group reductions and scans (R268, R269) -/

/-- One step of an integer reduction on exact values; the bitwise operations act on the `w` low bits. -/
def combInt (op w : Nat) (x y : Int) : Int :=
  match op with
  | 0 => x + y
  | 1 => if x ≤ y then x else y
  | 2 => if x ≥ y then x else y
  | 3 => (IntOps.and (IntOps.wrap w x) (IntOps.wrap w y) : Nat)
  | 4 => (IntOps.or (IntOps.wrap w x) (IntOps.wrap w y) : Nat)
  | _ => (IntOps.xor (IntOps.wrap w x) (IntOps.wrap w y) : Nat)

/-- The identity of an operation (R268). -/
def identInt (op : Nat) (sx : Bool) (w : Nat) : Int :=
  match op with
  | 1 => if sx then (2 ^ (w - 1) : Nat) - 1 else (2 ^ w : Nat) - 1
  | 2 => if sx then -(2 ^ (w - 1) : Nat) else 0
  | _ => 0

/-- The values of some lanes combined in order. -/
def Cx.combine (c : Cx) (i : Ins) (op : Nat) (ls : List Nat) : Nat :=
  let w := tyBits i.form.toNat
  let v (l : Nat) : Int := IntOps.val i.attr.sxBit w (c.arg i 0 w l)
  let r := match ls with
    | [] => identInt op i.attr.sxBit w
    | l :: rest => rest.foldl (fun x k => combInt op w x (v k)) (v l)
  if op = 0 then IntOps.fin i.attr.satBit i.attr.sxBit w r else IntOps.wrap w r

/-- gred on integers (R268). -/
def execGred (i : Ins) (s : State) : Out :=
  exchangewise 0xAD i s [i.form.toNat] fun c ls _ => { vals := [c.combine i i.attr.low ls] }

/-- gscan on integers: bit 2 is .excl, and operation 3 is xor (R268). -/
def execGscan (i : Ins) (s : State) : Out :=
  exchangewise 0xAE i s [i.form.toNat] fun c ls l =>
    let op := if i.attr.low % 4 = 3 then 5 else i.attr.low % 4
    { vals := [c.combine i op (ls.filter fun k => if i.attr.low / 4 = 1 then k < l else k ≤ l)] }

/-- What the float reductions round under: the field or RM, rs rounding as rn, no flushing (R269). -/
def Cx.treeEnv (c : Cx) (i : Ins) (op : Nat) : Fp.Env :=
  let v := c.env i
  { v with rm := if v.rm = 6 then 1 else v.rm, ftzi := false, ftzo := false, sat := false,
           nan := if op = 0 then v.nan else 1 }

/-- One combination of a float reduction: a rounded sum, or min or max without .nan (R269, R188). -/
def combFloat (op : Nat) (f : Fp.Fmt) (v : Fp.Env) (a b : Nat) : Nat × Fp.Flags :=
  if op = 0 then Fp.add f v 0 a b else Fp.minmax f v false (op == 2) a b

/-- One level of the tree: positions at distance `d` combine, and a present one stands for an absent partner. -/
def treeLevel (op : Nat) (f : Fp.Fmt) (v : Fp.Env) (d : Nat) (xs : List (Option Nat) × Fp.Flags) :
    List (Option Nat) × Fp.Flags :=
  let pairs := (List.range 32).map fun l =>
    let a := (xs.1[l]?).getD none
    if l % (2 * d) = 0 then
      match a, (xs.1[l + d]?).getD none with
      | some a, some b => let r := combFloat op f v a b; (some r.1, r.2)
      | some a, none => (some a, (0 : Fp.Flags))
      | none, b => (b, 0)
    else (a, 0)
  (pairs.map Prod.fst, pairs.foldl (fun g p => g ||| p.2) xs.2)

/-- Signalling NaNs among the participating lanes raise invalid (R269). -/
def Cx.snans (c : Cx) (i : Ins) (ls : List Nat) : Fp.Flags :=
  let f := fmtOf i.form.toNat
  if ls.any fun l => (f.decode (c.arg i 0 f.width l)).isSnan then Fp.fInv else 0

/-- min and max deliver the canonical NaN or a number (R269). -/
def canonMinMax (op : Nat) (f : Fp.Fmt) (x : Nat) : Nat :=
  if op != 0 && (f.decode x).isNan then f.nanCode else x

/-- gred on floats: the tree of R269; the exceptions form one set for every lane. -/
def execGredFloat (i : Ins) (s : State) : Out :=
  exchangewise 0xB2 i s [i.form.toNat] fun c ls _ =>
    let f := fmtOf i.form.toNat
    let op := i.attr.low
    let v := c.treeEnv i op
    let start := (List.range 32).map fun l => if ls.contains l then some (c.arg i 0 f.width l) else none
    let r := [1, 2, 4, 8, 16].foldl (fun xs d => treeLevel op f v d xs) (start, c.snans i ls)
    { vals := [canonMinMax op f (((r.1[0]?).getD none).getD 0)], flags := r.2 }

/-- The prefixes of a float scan in lane order: lane, the value before it and the value with it, and the exceptions. -/
def scanFloat (op : Nat) (f : Fp.Fmt) (v : Fp.Env) (x : Nat → Nat) (before : Nat) :
    Option Nat → List Nat → List (Nat × Nat × Nat) × Fp.Flags
  | _, [] => ([], 0)
  | none, l :: rest =>
    let t := scanFloat op f v x before (some (x l)) rest
    ((l, before, x l) :: t.1, t.2)
  | some p, l :: rest =>
    let r := combFloat op f v p (x l)
    let t := scanFloat op f v x before (some r.1) rest
    ((l, p, r.1) :: t.1, r.2 ||| t.2)

/-- gscan on floats: bit 2 is .excl (R269). -/
def execGscanFloat (i : Ins) (s : State) : Out :=
  exchangewise 0xB3 i s [i.form.toNat] fun c ls l =>
    let f := fmtOf i.form.toNat
    let op := i.attr.low % 4
    let start := if op = 0 then 0 else f.infCode (op == 2)
    let r := scanFloat op f (c.treeEnv i op) (fun k => c.arg i 0 f.width k) start none ls
    let x := match r.1.find? fun p => p.1 == l with
      | some p => if i.attr.low / 4 = 1 then p.2.1 else p.2.2
      | none => 0
    { vals := [canonMinMax op f x], flags := r.2 ||| c.snans i ls }

/-! ### Record streams (R270 to R273) -/

def Team.rs (t : Team) (k : Nat) : RecordStream := (t.recs[k]?).getD {}

def Team.setRs (t : Team) (k : Nat) (x : RecordStream) : Team := { t with recs := setAt t.recs k x }

/-- rs.push (R271): bits [1:0] name the record stream. -/
def execRsPush (i : Ins) (s : State) : Out :=
  withCx s fun c =>
    let k := i.attr.low % 4
    let w := tyBits i.form.toNat
    let m := c.lanes i
    let ls := (lanesOf m).filter fun l => c.arg i 0 1 l == 1
    let x := c.t.rs k
    if x.recs.length + ls.length ≤ 1024 then
      let ref := s.streamRef c.r
      let new := ls.map fun l => (⟨BitVec.ofNat 64 (c.arg i 1 w l), c.r.idx, some ref⟩ : RsRecord)
      let s := s.modTeam c.core fun t => t.setRs k { x with recs := x.recs ++ new }
      .next (s.modStream c.r Stream.retired)
    else c.block (.rsPush k ls.length)

/-- A pop of records: the lanes take the oldest, and those beyond the last receive zero and 0 (R272). A pop that takes a
record is linked. -/
def Cx.popRecords (c : Cx) (i : Ins) (k : Nat) (m : BitVec 32) (n : Nat) (x : RecordStream) : Out :=
  let ls := lanesOf m
  let outs := ls.zipIdx.map fun p =>
    (p.1, match (if p.2 < n then x.recs[p.2]? else none) with
      | some r => ({ vals := [r.bits.toNat % 2 ^ tyBits i.form.toNat, 1] } : LaneOut)
      | none => { vals := [0, 0] })
  let s := c.s.modTeam c.core fun t =>
    t.setRs k { recs := x.recs.drop n, waiting := x.waiting.filter fun j => j != c.r.idx }
  let s := if n = 0 then s
    else s.streamLink c.r 0x08 k 0 ((x.recs[n - 1]?).bind RsRecord.link) none
  { c with s := s }.finish 0xB0 i [i.form.toNat, tI1] m outs

/-- rs.pop: bit 2 is .part (R272). -/
def execRsPop (i : Ins) (s : State) : Out :=
  withCx s fun c =>
    let k := i.attr.low % 4
    let m := c.lanes i
    let p := (lanesOf m).length
    let x := c.t.rs k
    if i.attr.low / 4 = 1 then
      c.popRecords i k m (if x.waiting = [] then Nat.min p x.recs.length else 0) x
    else if p = 0 then c.finish 0xB0 i [i.form.toNat, tI1] m []
    else
      let waiting := if x.waiting.contains c.r.idx then x.waiting else x.waiting ++ [c.r.idx]
      if waiting.head? = some c.r.idx ∧ p ≤ x.recs.length then c.popRecords i k m p x
      else
        let s := s.modTeam c.core fun t => t.setRs k { x with waiting := waiting }
        { c with s := s }.block (.rsPop k p)

/-- rs.cnt: the count at the end of the previous cycle (R273). -/
def execRsCnt (i : Ins) (s : State) : Out :=
  exchangewise 0xB6 i s [tI32] fun c _ _ => { vals := [c.t.shown.records (i.attr.low % 4)] }

/-! ### Paths (R400) -/

/-- The place named `b` comes next: a bundle index, or a block of the unit. -/
def Stream.goto (st : Stream) (b : Nat) : Stream :=
  if st.native then { st with jump := some b } else { st with blk := b, item := 0 }

/-- The first entry, from the top, that names a lane that has not ended, and the entries below it. -/
def popLive (ended : BitVec 32) : List MaskEntry → Option (BitVec 32 × Nat × List MaskEntry)
  | [] => none
  | e :: rest => if e.mask &&& ~~~ended = 0 then popLive ended rest else some (e.mask &&& ~~~ended, e.pc, rest)

/-- resume() of R400: the next path runs; with no entry left the stream has ended. -/
def Stream.resume (st : Stream) : Stream :=
  match popLive st.ended st.stack with
  | none => { st with active := 0, stack := [], finished := true }
  | some (m, pc, rest) => { st with active := m, stack := rest }.goto pc

/-- Whether the topmost RECONV entry has a pc, and whether a PATH entry lies above it. -/
def reconAt (p : Nat) : List MaskEntry → Option Bool
  | [] => none
  | e :: rest =>
    if e.recon then (if e.pc = p then some false else none)
    else (reconAt p rest).map fun _ => true

/-- Arrival at a reconvergence entry `p` (R400): pops the RECONV entries of `p` that have no path left above them, and
tells whether the lanes wait for a path. Entries of one pc are taken in turn, as R112 asks; log entry 25. -/
def Stream.reconverge (p : Nat) : Nat → Stream → Stream × Bool
  | 0, st => (st, false)
  | fuel + 1, st =>
    match reconAt p st.stack with
    | none => (st, false)
    | some true => ({ st with active := 0 }.resume, true)
    | some false =>
      match st.stack with
      | [] => (st, false)
      | e :: rest => Stream.reconverge p fuel { st with active := e.mask &&& ~~~st.ended, stack := rest }

/-- A portable stream enters its block: it reconverges there, or runs on where a path waits. -/
def Stream.enter : Nat → Stream → Stream
  | 0, st => st
  | fuel + 1, st =>
    let q := st.reconverge st.blk (st.stack.length + 1)
    if q.2 && !q.1.finished then Stream.enter fuel q.1 else q.1

/-- Splits the active lanes over targets (R108, R112, R400): the paths, in the order in which they run, with the lanes
that take each. -/
def Stream.split (st : Stream) (rc : Option Nat) (paths : List (BitVec 32 × Nat)) : Stream :=
  match paths.filter fun p => p.1 != 0 with
  | [] => st
  | [p] => st.goto p.2
  | live =>
    let stack := match rc with
      | none => st.stack
      | some b => match st.stack with
        | e :: _ => if e.recon && e.pc == b then st.stack else ⟨st.active, b, true⟩ :: st.stack
        | [] => [⟨st.active, b, true⟩]
    let paths := (live.filter fun p => rc != some p.2).map fun p => (⟨p.1, p.2, false⟩ : MaskEntry)
    { st with active := 0, stack := paths ++ stack }.resume

/-- What a branch leaves behind: the stream stands at its next place. -/
def Stream.branched (st : Stream) : Stream :=
  let st := { st with wait := none, stage := [], mark := none, headAt := none, prod := none }
  if st.native then st else st.enter (st.stack.length + 1)

/-! ### The rendezvous (R117) -/

/-- Every stream of the team has arrived at the rendezvous or has ended. -/
def Team.rdvFull (t : Team) : Bool :=
  t.rdv.arrived != [] && t.order.all fun k =>
    t.rdv.arrived.contains k || (match t.stream? k with
      | some st => st.finished
      | none => true)

/-- Hands the producer and the slack of a completed event to the streams that wait for it. -/
def Team.handOut (t : Team) (w : Wait) (p : Option (Nat × Nat)) : Team :=
  let f (st : Stream) : Stream := if st.wait = some w then { st with prod := p } else st
  { t with control := f t.control, groups := t.groups.map f }

/-- Completes the rendezvous when every stream is there. -/
def Team.rdvCheck (t : Team) : Team :=
  if t.rdvFull then { t.handOut (.rdv t.rdv.gen) t.rdv.last with rdv := { gen := t.rdv.gen + 1 } } else t

/-! ### Regrouping (R274, R275) -/

/-- The groups of a team that have not ended. -/
def Team.liveGroups (t : Team) : List Nat :=
  (List.range t.groups.length).filter fun g => match t.groups[g]? with
    | some st => !st.finished
    | none => false

/-- The members of a generation: the groups the first arrival names, and itself. -/
def Team.regroupMembers (t : Team) : List Nat :=
  match t.regroup.arrived with
  | [] => []
  | a :: _ => (List.range t.groups.length).filter fun g => g == a.group || a.named.getLsbD g

/-- Every member has arrived or has ended. -/
def Team.regroupFull (t : Team) : Bool :=
  t.regroup.arrived != [] && t.regroupMembers.all fun g =>
    (t.regroup.arrived.any fun a => a.group == g) || !t.liveGroups.contains g

/-- Positions of a group's lanes in a mask. -/
def places (g : Nat) (m : BitVec 32) : List (Nat × Nat) := (lanesOf m).map fun l => (g, l)

/-- Inserts a keyed position behind those whose key is not greater. -/
def insertKeyed (x : Word × (Nat × Nat)) : List (Word × (Nat × Nat)) → List (Word × (Nat × Nat))
  | [] => [x]
  | y :: ys => if x.1.toNat < y.1.toNat then x :: y :: ys else y :: insertKeyed x ys

/-- The moves of one set of arrivals: for each position that is filled, the position its lane comes from; and the
positions left over. -/
def movesOf (t : Team) (set_ : List RegroupArrival) : List ((Nat × Nat) × (Nat × Nat)) × List (Nat × Nat) :=
  let groups := (List.range t.groups.length).filterMap fun g => set_.find? fun a => a.group == g
  let q := (groups.map fun a =>
    places a.group (a.lanes ||| (if a.compact then ((t.groups[a.group]?).map Stream.ended).getD 0 else 0))).flatten
  let keyed := (groups.map fun a => (places a.group a.lanes).map fun p => ((a.keys[p.2]?).getD 0, p)).flatten
  let sorted := (keyed.foldl (fun xs x => insertKeyed x xs) []).map Prod.snd
  (q.zip sorted, q.drop sorted.length)

/-- A lane's words of a location, with the position it is taken from. -/
def movedVal (old : List Stream) (loc : Loc) (g : Nat) (moves : List ((Nat × Nat) × (Nat × Nat))) (v : TVal) : TVal :=
  ⟨v.ty, (List.range 32).map fun l =>
    match moves.lookup (g, l) with
    | some (h, k) => (((((old[h]?).map fun (st : Stream) => st.get loc).getD ⟨tI32, []⟩).lanes)[k]?).getD 0
    | none => (v.lanes[l]?).getD 0⟩

/-- A stream after the move: the words, poison marks and generators of its filled positions come from the lanes moved
there; under .cmp, positions that were ended come alive in the current path, and positions left over end. A group with no lane
left has ended (R110). -/
def movedStream (old : List Stream) (moves : List ((Nat × Nat) × (Nat × Nat))) (left : List (Nat × Nat)) (g : Nat)
    (st : Stream) : Stream :=
  let mine := moves.filter fun m => m.1.1 == g
  if mine = [] && !(left.any fun p => p.1 == g) then st
  else
    let sources := (mine.map fun m => m.2.1).eraseDups
    let locs := ((st.file :: sources.map fun h => ((old[h]?).map Stream.file).getD []).flatten.map Prod.fst).eraseDups
    let ty (l : Loc) : Nat := match lookupLoc l st.file with
      | some v => v.ty
      | none => (((sources.filterMap fun h => (old[h]?).bind fun o => lookupLoc l o.file).head?).map TVal.ty).getD tI32
    let filled := maskOfList (mine.map fun m => m.1.2)
    let fresh := filled &&& st.ended
    let gone := maskOfList ((left.filter fun p => p.1 == g).map Prod.snd)
    let marks := (mine.map fun m => (((old[m.2.1]?).map Stream.poisoned).getD []).filterMap fun x =>
      if x.lanes.getLsbD m.2.2 then
        some { x with lanes := maskOfList [m.1.2], covered := if x.covered.getLsbD m.2.2 then maskOfList [m.1.2] else 0 }
      else none).flatten
    let kept := st.poisoned.filterMap fun x =>
      if x.lanes &&& ~~~filled = 0 then none else some { x with lanes := x.lanes &&& ~~~filled }
    let ended := (st.ended &&& ~~~fresh) ||| gone
    let st := { st with
      file := locs.map fun l => (l, movedVal old l g mine { st.get l with ty := ty l })
      poisoned := kept ++ marks
      rng := (List.range 32).map fun l => match mine.lookup (g, l) with
        | some (h, k) => (((old[h]?).bind fun o => o.rng[k]?)).getD 0
        | none => (st.rng[l]?).getD 0
      ended := ended
      active := (st.active ||| fresh) &&& ~~~gone
      stack := st.stack.map fun (e : MaskEntry) => if e.recon then { e with mask := e.mask ||| fresh } else e
      finished := st.finished || ended == BitVec.allOnes 32 }
    if st.finished then { st with wait := none, stage := [], mark := none, headAt := none, prod := none, stack := [] } else st

/-- The sets of arrivals made at the same instruction. -/
def arrivalSets : List RegroupArrival → List (List RegroupArrival) → List (List RegroupArrival)
  | [], sets => sets
  | a :: rest, sets =>
    if sets.any fun x => x.any fun b => b.pos == a.pos then
      arrivalSets rest (sets.map fun x => if x.any fun b => b.pos == a.pos then x ++ [a] else x)
    else arrivalSets rest (sets ++ [[a]])

/-- What the generation that is full does: its moves, and the positions left over under .cmp. -/
def Team.regroupMoves (t : Team) : List ((Nat × Nat) × (Nat × Nat)) × List (Nat × Nat) :=
  let parts := (arrivalSets t.regroup.arrived []).map fun x => movesOf t x
  ((parts.map Prod.fst).flatten, (parts.map Prod.snd).flatten)

/-- The generation completes: the lanes move, each filled position of its groups notes where its lane came from, and the
members are released. A group of an earlier generation that has not gone on yet keeps what it noted. -/
def Team.regroupNow (t : Team) : Team :=
  let moves := t.regroupMoves.1
  let groups := t.groups.zipIdx.map fun p => movedStream t.groups moves t.regroupMoves.2 p.2 p.1
  let mine := t.regroup.arrived.map RegroupArrival.group
  let results := (mine.map fun g => (g, (List.range 32).map fun l =>
    match moves.lookup (g, l) with
    | some (h, k) => (BitVec.ofNat 64 (32 * h + k) : Word)
    | none => 0)) ++ t.regroup.results.filter fun r => !mine.contains r.1
  let gen := t.regroup.gen
  { t with
    groups := groups.map fun st =>
      if st.mark = some (.regroup gen) then { st with prod := t.regroup.last } else st
    regroup := { gen := gen + 1, results := results } }

/-- Where the lane of an access stands after a generation: with the lane that moved; an ended lane whose position another has
taken stands nowhere (R275). -/
def movedOwner (moves : List ((Nat × Nat) × (Nat × Nat))) (a : Acc) (l : AccLane) : AccLane :=
  let at_ := a.ownerOf l
  match moves.find? fun m => m.2 == at_ with
  | some m => { l with owner := some m.1 }
  | none => if moves.any fun m => m.1 == at_ then { l with owner := some (at_.1, at_.2 + 32) } else l

/-- Completes the regroup generation of a core's team when every member is there. The lanes' accesses in flight go with
them (R275), and a group that ends so may complete the rendezvous. -/
def State.regroupCheck (s : State) (c : CoreRef) : State :=
  match s.team? c with
  | none => s
  | some t =>
    if !t.regroupFull then s
    else
      let moves := t.regroupMoves.1
      let go (a : Acc) : Acc :=
        if coreOf a.ref = c ∧ a.ref.idx ≠ 32 ∧ a.wb = false then { a with lanes := a.lanes.map (movedOwner moves a) } else a
      let s := { s.teamTally c 52 1 with flights := s.flights.map go }
      s.modTeam c fun t => t.regroupNow.rdvCheck

/-- Nothing of the group is in flight: its LL, GL and AT counters are zero and no register is pending. -/
def Stream.quiet (st : Stream) : Bool :=
  st.count 0 == 0 && st.count 1 == 0 && st.count 3 == 0 && st.pending == [] && st.landings == []

/-- regroup: bit 0 is .cmp (R274). Where the moves have left the current path no lane, the next path runs (R400). -/
def execRegroup (i : Ins) (s : State) : Out :=
  withCx s fun c =>
    match c.st.mark with
    | some (.regroup gen) =>
      if c.t.regroup.gen = gen then c.block (.regroup gen)
      else
        let m := c.lanes i
        let row := (c.t.regroup.results.lookup c.r.idx).getD []
        let s := s.streamLink c.r 0x09 0 0 (c.st.prod.map Prod.fst) (c.st.prod.map Prod.snd)
        if c.st.active = 0 then .next ({ c with s := s }.update fun st => st.resume.branched)
        else { c with s := s }.finish 0xB1 i [tI32] m
          ((lanesOf m).map fun l => (l, { vals := [((row[l]?).getD 0).toNat] }))
    | _ =>
      let gen := c.t.regroup.gen
      let named := BitVec.ofNat 32 (c.arg i 1 32 c.lead)
      if !c.st.quiet || (c.t.regroup.arrived != [] && !c.t.regroupMembers.contains c.r.idx) then c.block (.regroup gen)
      else
        let a : RegroupArrival :=
          { group := c.r.idx, lanes := c.lanes i, named := named, pos := ⟨c.st.func, c.st.off⟩
            keys := (List.range 32).map fun l => BitVec.ofNat 64 (c.arg i 0 32 l), compact := i.attr.low == 1 }
        let last := s.arrival c.r c.t.regroup.last
        let s := s.modStream c.r fun st => { st.blocked s.now (.regroup gen) with mark := some (.regroup gen) }
        .next ((s.modTeam c.core fun t =>
          { t with regroup := { t.regroup with arrived := t.regroup.arrived ++ [a], last := some last } }).regroupCheck c.core)

end Sys2Proof.Machine
end

