-- ==== Sys2Proof/Machine/Control.lean ====
section
/-! DEFINITION. The control engine (spec/04_control_engine.md): control flow and the mask stack, rendezvous and barriers,
stream queues and tokens, in-flight counters, special registers and the mode register, traps, yielding and sleeping.
`Machine/Launching.lean` has launch and phase. -/
namespace Sys2Proof.Machine

/-! ### Blocks, branches and calls (R107 to R110) -/

/-- The inlined unit a stream runs. -/
def Cx.unit (c : Cx) : List UBlock :=
  ((if c.r.idx = 32 then c.t.ctlUnit else c.t.grpUnit).map Translation.unit).getD []

/-- Defines a block's arguments in some lanes: every argument is read before any is defined (R107). -/
def Cx.passArgs (c : Cx) (b : Nat) (args : List Nat) (m : BitVec 32) (st : Stream) : Stream :=
  match c.unit[b]? with
  | none => st
  | some u =>
    let vals := args.map fun n => c.st.get (.val c.st.frame n)
    (vals.zipIdx.foldl (fun st v => st.put (.val u.frame (u.argBase + v.2)) m v.1) st)

/-- A branch over targets of the portable form: which target each lane takes, in the order the paths run. -/
def Cx.branch (c : Cx) (i : Ins) (order : List Nat) (takes : Nat → BitVec 32) : Out :=
  let rc := (c.unit[c.st.blk]?).bind UBlock.recon
  .next (c.update fun st =>
    let st := order.foldl (fun st k =>
      c.passArgs ((st.succ[k]?).getD 0) (((i.succ[k]?).map Target.args).getD []) (takes k) st) st
    (st.split rc (order.map fun k => (takes k, (c.st.succ[k]?).getD 0))).branched)

/-- blk has no effect at run time (R107). -/
def execBlk (_i : Ins) (s : State) : Out := withCx s fun c => .next (c.update Stream.retired)

/-- br (R108); natively its literal is the target (R399). -/
def execBr (i : Ins) (s : State) : Out :=
  withCx s fun c =>
    if c.st.native then .next (c.update fun st => (st.goto (c.warg i 0 24)).branched)
    else c.branch i [0] fun _ => c.st.active

/-- brc (R108). The hint, bit 0, names the path that runs first; natively source 0 is the condition, the hint its
polarity, and sources 1 to 3 the first target, the second and the reconvergence index (R399, R400). -/
def execBrc (i : Ins) (s : State) : Out :=
  withCx s fun c =>
    let yes := maskOf fun l => c.st.active.getLsbD l && c.arg i 0 1 l == 1
    let no := c.st.active &&& ~~~yes
    let inv := i.attr.ctlByte.getLsbD 0
    if c.st.native then
      let f := if inv then no else yes
      let rc := c.warg i 3 24
      .next (c.update fun st =>
        (st.split (if rc = 0xFFFFFF then none else some rc) [(f, c.warg i 1 24), (c.st.active &&& ~~~f, c.warg i 2 24)]).branched)
    else c.branch i (if inv then [1, 0] else [0, 1]) fun k => if k = 0 then yes else no

/-- brt: target `i` where it is in the table, else the last (R108). It has no native form (R396). -/
def execBrt (i : Ins) (s : State) : Out :=
  withCx s fun c =>
    let n := i.succ.length - 1
    c.branch i (List.range (n + 1)) fun k =>
      maskOf fun l => c.st.active.getLsbD l && Nat.min (c.arg i 0 32 l) n == k

/-- call: a branch to the inlined callee (R109). -/
def execCall (i : Ins) (s : State) : Out := withCx s fun c => c.branch i [0] fun _ => c.st.active

/-- ret: a branch to the inlined call site, which takes the values as the results of call (R109). -/
def execRet (i : Ins) (s : State) : Out :=
  withCx s fun c =>
    let b := (c.st.succ[0]?).getD 0
    .next (c.update fun st => ((c.passArgs b (i.src.map Opnd.num) c.st.active st).goto b).branched)

/-! ### Rendezvous (R117, R119) -/

/-- end (R110): the active lanes leave for good; the next path runs, or the stream has ended; an open
speculative region ends with the control stream (R333). Faults of copies and
poisoned atomics are delivered here (R255, R293). -/
def execEndStream (_i : Ins) (s : State) : Out :=
  withCx s fun c => c.unlessDue [3, 4] <|
    let s := c.update fun st =>
      let st := { st with ended := st.ended ||| st.active, active := 0 }.resume
      if st.finished then { st with wait := none, stage := [], mark := none, headAt := none, prod := none }
      else st.branched
    let finished := match s.stream? c.r with
      | some st => st.finished
      | none => true
    let s := if finished && c.r.idx == 32 then s.dropRegion c.core else s
    .next ((s.modTeam c.core Team.rdvCheck).regroupCheck c.core)

/-- Goes on once a full fence over every class is complete; issues it first. -/
def Cx.afterFence (c : Cx) (skip acq : Bool) (scope : Nat) (go : Out) : Out :=
  if skip then go
  else match c.st.stage with
    | id :: _ => if (c.s.acc? id).isNone then go else c.block (.fence id)
    | [] =>
      let q := c.fenceOf acq true scope (BitVec.allOnes 16) c.st.active
      .next (q.1.modStream c.r fun st => { st.blocked q.1.now (.fence q.2) with stage := [q.2] })

/-- Ends a barrier instruction: its link, its acquire, and the stream moves on. -/
def Cx.passed (c : Cx) (kind detail gen : Nat) (p : Option (Nat × Nat)) (acquire : Option Nat) : Out :=
  let s := c.s.streamLink c.r kind detail gen (p.map Prod.fst) (p.map Prod.snd)
  let s := match acquire with
    | some scope => s.acquireAt c.core c.r.idx scope
    | none => s
  .next (s.modStream c.r Stream.retired)

/-- rdv (R117). Faults of copies and poisoned atomics are delivered here (R255, R293). -/
def execRdv (_i : Ins) (s : State) : Out :=
  withCx s fun c =>
    match c.st.mark with
    | some (.rdv gen) =>
      if c.t.rdv.gen = gen then c.block (.rdv gen) else c.passed 0x01 0 gen.toNat c.st.prod (some 0)
    | _ => c.unlessDue [3, 4] <|
      c.afterFence false true 0 <|
        if c.st.count 4 = 0 ∧ c.st.count 5 = 0 then
          let gen := c.t.rdv.gen
          let last := s.arrival c.r c.t.rdv.last
          let s := s.modStream c.r fun st => { st.blocked s.now (.rdv gen) with mark := some (.rdv gen) }
          .next (s.modTeam c.core fun t =>
            { t with rdv := { t.rdv with arrived := t.rdv.arrived ++ [c.r.idx], last := some last } }.rdvCheck)
        else c.block .copyMatrix

/-! ### Barriers (R115, R116) -/

def Team.bar (t : Team) (k : Nat) : Barrier := (t.bars[k]?).getD {}

/-- The number of arrivals a barrier waits for: `n` where it is in range, else every stream (R115). -/
def Team.target (t : Team) (n : Nat) : Nat :=
  if 1 ≤ n ∧ n ≤ 1 + t.groups.length then n else 1 + t.groups.length

/-- An arrival at a barrier: it may complete the generation, which releases the streams that wait for it. -/
def Team.arrive (t : Team) (k n : Nat) (p : Nat × Nat) : Team :=
  let b := t.bar k
  let b := { b with target := if b.arrived = 0 then t.target n else b.target, arrived := b.arrived + 1, last := some p }
  if b.arrived = b.target then
    { t.handOut (.bar k b.gen) (some p) with
      bars := setAt t.bars k { gen := b.gen + 1, target := b.target, done := some p } }
  else { t with bars := setAt t.bars k b }

/-- The barrier byte: the index in bits [3:0], nofence in bit 4. -/
def nofence (i : Ins) : Bool := i.attr.ctlByte.getLsbD 4
def barIndex (i : Ins) : Nat := (i.attr.ctlByte.extractLsb' 0 4).toNat

/-- bar (R115). -/
def execBar (i : Ins) (s : State) : Out :=
  withCx s fun c =>
    let k := barIndex i
    match c.st.mark with
    | some (.bar k' gen) =>
      if (c.t.bar k').gen = gen then c.block (.bar k' gen)
      else c.passed 0x02 k' gen.toNat c.st.prod (if nofence i then none else some 0)
    | _ =>
      c.afterFence (nofence i) true 0 <|
        let b := c.t.bar k
        let s := s.modStream c.r fun st => { st.blocked s.now (.bar k b.gen) with mark := some (.bar k b.gen) }
        .next (s.modTeam c.core fun t => t.arrive k (c.warg i 0 32) (s.arrival c.r b.last))

/-- bar.arv: arrives and returns the generation (R115). -/
def execBarArv (i : Ins) (s : State) : Out :=
  withCx s fun c =>
    c.afterFence (nofence i) true 0 <|
      let k := barIndex i
      let b := c.t.bar k
      let p := s.arrival c.r b.last
      let s := s.streamLink c.r 0x03 k 0 none none
      .next (c.finishWide 0xD6 i [tI32] [b.gen.toNat] (s.modTeam c.core fun t => t.arrive k (c.warg i 0 32) p))

/-- bar.wt: waits for a generation to be over (R115, R116). -/
def execBarWt (i : Ins) (s : State) : Out :=
  withCx s fun c =>
    let k := barIndex i
    let g := BitVec.ofNat 32 (c.warg i 0 32)
    if (c.t.bar k).gen = g then c.block (.bar k g)
    else
      let p := match c.st.prod with
        | some p => some p
        | none => (c.t.bar k).done
      c.passed 0x02 k g.toNat p (if nofence i then none else some 0)

/-! ### Cluster barriers (R118) -/

def State.cluster? (s : State) (key : Nat) : Option Cluster := s.walker.clusters.find? fun k => k.key == key

def State.modCluster (s : State) (key : Nat) (f : Cluster → Cluster) : State :=
  { s with walker := { s.walker with clusters := s.walker.clusters.map fun k => if k.key = key then f k else k } }

def Cluster.bar (k : Cluster) (b : Nat) : ClusterBar := (k.bars[b]?).getD {}

/-- Dies on which the cluster has teams. -/
def Cluster.halves (k : Cluster) : List Nat := (k.cores.map CoreRef.die).eraseDups

/-- Members of a die. -/
def Cluster.membersOn (k : Cluster) (d : Nat) : List Nat :=
  (List.range k.cores.length).filter fun m => match k.cores[m]? with
    | some c => c.die == d
    | none => false

/-- The generation of a cluster barrier completes: every team's waiting streams are released. -/
def State.cbarDone (s : State) (key b : Nat) : State :=
  match s.cluster? key with
  | none => s
  | some k =>
    let x := k.bar b
    let s := k.cores.foldl (fun s c => s.modTeam c fun t =>
      { t.handOut (.cbar b x.gen) x.last with cbars := setAt t.cbars b (0, 0) }) s
    s.modCluster key fun k => { k with bars := setAt k.bars b { gen := x.gen + 1 } }

/-- Both phases of R118: halves complete and send their far message; the generation completes when every half has
completed and heard the other. -/
def State.cbarCheck (s : State) (key b : Nat) : State :=
  match s.cluster? key with
  | none => s
  | some k =>
    let x := k.bar b
    let full := k.halves.filter fun d => !x.halves.contains d && (k.membersOn d).all fun m => x.teams.contains m
    let s := s.modCluster key fun k => { k with bars := setAt k.bars b { x with halves := x.halves ++ full } }
    let s := full.foldl (fun s d => (k.halves.filter fun o => o != d).foldl (fun s o =>
      s.send 2 d o (.barrier key b x.gen x.last)) s) s
    match s.cluster? key with
    | none => s
    | some k =>
      let x := k.bar b
      if k.halves.all fun d => x.halves.contains d && (k.halves.length ≤ 1 || x.heard.contains d) then
        s.cbarDone key b
      else s

/-- The cluster barrier an instruction names: bits [1:0]. -/
def cbarIndex (i : Ins) : Nat := (i.attr.ctlByte.extractLsb' 0 2).toNat

/-- A stream arrives: its team may reach its target and arrive at the cluster's barrier. -/
def Cx.cbarArrive (c : Cx) (b n : Nat) (s : State) : State :=
  let a := (c.t.cbars[b]?).getD (0, 0)
  let target := if a.1 = 0 then c.t.target n else a.2
  let p := s.arrival c.r (((s.cluster? c.t.cluster).bind fun k => (k.bar b).last))
  let s := s.modTeam c.core fun t => { t with cbars := setAt t.cbars b (a.1 + 1, target) }
  let s := s.modCluster c.t.cluster fun k => { k with bars := modAt k.bars b fun x =>
    { x with last := some p, teams := if a.1 + 1 = target then x.teams ++ [c.t.teamid] else x.teams } }
  s.cbarCheck c.t.cluster b

/-- cbar (R118). -/
def execCbar (i : Ins) (s : State) : Out :=
  withCx s fun c =>
    let b := cbarIndex i
    let gen := ((s.cluster? c.t.cluster).map fun k => (k.bar b).gen).getD 0
    match c.st.mark with
    | some (.cbar b' g) =>
      if ((s.cluster? c.t.cluster).map fun k => (k.bar b').gen).getD 0 = g then c.block (.cbar b' g)
      else c.passed 0x04 b' g.toNat c.st.prod (if nofence i then none else some 1)
    | _ =>
      c.afterFence (nofence i) true 1 <|
        let s := s.modStream c.r fun st => { st.blocked s.now (.cbar b gen) with mark := some (.cbar b gen) }
        .next (c.cbarArrive b (c.warg i 0 32) s)

/-! ### Stream queues (R19 to R21, R120, R121) -/

def Team.queue (t : Team) (k : Nat) : StreamQueue := (t.queues[k]?).getD {}

def queueIndex (i : Ins) : Nat := (i.attr.ctlByte.extractLsb' 0 3).toNat

/-- An entry as the pushing stream makes it (R20): 0 in inactive lanes; for s64 the word of the lowest active lane. -/
def Cx.entryOf (c : Cx) (i : Ins) (kind : Nat) : List Word :=
  let w := tyBits i.form.toNat
  let cut (x : Nat) : Word := BitVec.ofNat 64 (if kind = 1 then x % 2 ^ 32 else x)
  if kind = 3 then [cut (c.warg i 0 w)]
  else (List.range 32).map fun l => if c.st.active.getLsbD l then cut (c.arg i 0 w l) else 0

/-- The word a lane of the popping stream takes. -/
def wordFor (kind lane : Nat) (ws : List Word) : Nat := ((ws[if kind = 3 then 0 else lane]?).getD 0).toNat

/-- The team after a push. -/
def Cx.pushed (c : Cx) (i : Ins) (s : State) (k : Nat) : State :=
  let q := c.t.queue k
  s.modTeam c.core fun t =>
    { t with queues := setAt t.queues k { q with entries := q.entries ++ [(c.entryOf i q.kind, some (s.streamRef c.r))] } }

/-- qpush (R120): bits [2:0] name the queue; a stream not wired to it traps. -/
def execQpush (i : Ins) (s : State) : Out :=
  withCx s fun c =>
    let k := queueIndex i
    let q := c.t.queue k
    if !c.performs i then c.guardedOff 0xC2 i []
    else if q.kind = 0 ∨ q.prod ≠ c.r.idx then c.trap 0x1A
    else if q.entries.length < 16 then .next ((c.pushed i s k).modStream c.r Stream.retired)
    else c.block (.push k)

/-- qoffer (R121). -/
def execQoffer (i : Ins) (s : State) : Out :=
  withCx s fun c =>
    let k := queueIndex i
    let q := c.t.queue k
    if !c.performs i then c.guardedOff 0xD1 i [tI1]
    else if q.kind = 0 ∨ q.prod ≠ c.r.idx then c.trap 0x1A
    else if q.entries.length < 16 then .next (c.finishWide 0xD1 i [tI1] [1] (c.pushed i s k))
    else .next (c.finishWide 0xD1 i [tI1] [0] s)

/-- Takes the oldest entry: each active lane its word, with further results, and a link. -/
def Cx.popped (c : Cx) (opc : Nat) (i : Ins) (tys more : List Nat) (k : Nat) (e : List Word × Option Nat) : Out :=
  let q := c.t.queue k
  let s := c.s.modTeam c.core fun t => { t with queues := setAt t.queues k { q with entries := q.entries.drop 1 } }
  let s := s.streamLink c.r 0x05 k 0 e.2 none
  { c with s := s }.finish opc i tys c.st.active ((lanesOf c.st.active).map fun l =>
    (l, { vals := wordFor q.kind l e.1 % 2 ^ tyBits i.form.toNat :: more }))

/-- qpop (R120). -/
def execQpop (i : Ins) (s : State) : Out :=
  withCx s fun c =>
    let k := queueIndex i
    let q := c.t.queue k
    if !c.performs i then c.guardedOff 0xC3 i [i.form.toNat]
    else if q.kind = 0 ∨ q.cons ≠ c.r.idx then c.trap 0x1A
    else match q.entries with
      | [] => c.block (.pop k)
      | e :: _ => c.popped 0xC3 i [i.form.toNat] [] k e

/-- qtry (R121). -/
def execQtry (i : Ins) (s : State) : Out :=
  withCx s fun c =>
    let k := queueIndex i
    let q := c.t.queue k
    if !c.performs i then c.guardedOff 0xD0 i [i.form.toNat, tI1]
    else if q.kind = 0 ∨ q.cons ≠ c.r.idx then c.trap 0x1A
    else match q.entries with
      | [] => .next (c.finishWide 0xD0 i [i.form.toNat, tI1] [0, 0] s)
      | e :: _ => c.popped 0xD0 i [i.form.toNat, tI1] [1] k e

/-! ### Tokens (R25, R122) -/

/-- The FIFOs by number: 0 LC, 1 CS, 2 SL. -/
def Team.fifo (t : Team) (f : Nat) : TokenFifo := if f = 0 then t.lc else if f = 1 then t.cs else t.sl

def Team.setFifo (t : Team) (f : Nat) (x : TokenFifo) : Team :=
  if f = 0 then { t with lc := x } else if f = 1 then { t with cs := x } else { t with sl := x }

/-- A token is pushed: no pop of this cycle receives it (R26). -/
def TokenFifo.push (x : TokenFifo) (ref : Option Nat) : TokenFifo :=
  { count := x.count + 1, fresh := x.fresh + 1, links := x.links ++ [ref] }

/-- A token that was there before this cycle is taken. -/
def TokenFifo.pop (x : TokenFifo) : TokenFifo := { x with count := x.count - 1, links := x.links.drop 1 }

/-- The FIFO holds a token that was there before this cycle (R26). -/
def TokenFifo.ready (x : TokenFifo) : Bool := decide (x.fresh < x.count)

def fifoIndex (i : Ins) : Nat := (i.attr.ctlByte.extractLsb' 0 2).toNat

/-- tok.push (R122). -/
def execTokPush (i : Ins) (s : State) : Out :=
  withCx s fun c =>
    let f := fifoIndex i
    if !c.performs i then c.guardedOff 0xC4 i []
    else if (c.t.fifo f).count < 8 then
      .next ((s.modTeam c.core fun t => t.setFifo f ((t.fifo f).push (some (s.streamRef c.r)))).modStream c.r Stream.retired)
    else c.block (.tokPush f)

/-- tok.pop (R122). -/
def execTokPop (i : Ins) (s : State) : Out :=
  withCx s fun c =>
    let f := fifoIndex i
    let x := c.t.fifo f
    if !c.performs i then c.guardedOff 0xC5 i []
    else if x.ready then
      let s := s.modTeam c.core fun t => t.setFifo f x.pop
      .next ((s.streamLink c.r 0x06 f 0 ((x.links.head?).getD none) none).modStream c.r Stream.retired)
    else c.block (.tokPop f)

/-- tok.cnt: the count at the end of the previous cycle (R122). -/
def execTokCnt (i : Ins) (s : State) : Out :=
  withCx s fun c =>
    if c.performs i then .next (c.finishWide 0xD2 i [tI32] [c.t.shown.token (fifoIndex i)] s)
    else c.guardedOff 0xD2 i [tI32]

/-! ### In-flight counters (R27, R123) -/

/-- wait: bits [2:0] name the path; wait.st takes ACK_LOST first (R123) and sends the coalesced bytes (R211). -/
def execWait (i : Ins) (s : State) : Out :=
  withCx s fun c0 =>
    let c := if queueIndex i = 2 ∧ c0.performs i then { c0 with s := s.flushCore c0.core } else c0
    let p := queueIndex i
    let thr := c.warg i 0 32
    if !c.performs i then c.guardedOff 0xC6 i []
    else if p = 2 ∧ c.st.ackLost then
      let s := c.update fun st => { st with ackLost := false }
      { c with s := s }.trap 0x50
    else c.unlessDue [p] <|
    if c.st.count p ≤ thr then
      let s := c.s.streamLink c.r 0x07 p 0 (c.st.reached.lookup (p, thr)) none
      .next (s.modStream c.r Stream.retired)
    else c.block (.counter p thr)

/-- cnt.rd: the counter at the end of the previous cycle (R123). -/
def execCntRd (i : Ins) (s : State) : Out :=
  withCx s fun c =>
    if c.performs i then .next (c.finishWide 0xD3 i [tI32] [c.t.shown.count c.r.idx (queueIndex i)] s)
    else c.guardedOff 0xD3 i [tI32]

/-! ### Special registers and the mode register (R124 to R127) -/

/-- The special registers of Table 2.13, in a lane. -/
def Cx.special (c : Cx) (n lane : Nat) : Nat :=
  match n with
  | 0 => if c.r.idx = 32 then 0 else lane
  | 1 => c.r.idx
  | 2 => c.t.groups.length
  | 3 => c.t.teamid
  | 4 => ((c.s.cluster? c.t.cluster).map Cluster.number).getD 0
  | 11 => c.r.die
  | 12 => c.ident
  | 13 => c.r.core
  | 14 => (c.s.die c.r.die).clock % 2 ^ 64
  | 15 => c.s.now
  | 16 => c.st.mode.toNat
  | 17 => (modeFlags c.st.mode).toNat
  | k => ((c.t.idx[k - 5]?).getD 0).toNat

/-- sreg (R72, R124). -/
def execSreg (i : Ins) (s : State) : Out :=
  lanewise 0xC7 i s [i.form.toNat] fun c l => { vals := [c.special (c.arg i 0 7 l) l] }

/-- The mode register after mode.set (R127). -/
def modeAfter (mode v m : BitVec 32) : BitVec 32 :=
  let new := (mode &&& ~~~m) ||| (v &&& m)
  let rm := new &&& 7
  let new := if rm = 0 ∨ rm = 7 then (new &&& ~~~7) ||| (mode &&& 7) else new
  let new := if new &&& 0xC0 = 0xC0 then (new &&& ~~~0xC0) ||| (mode &&& 0xC0) else new
  new &&& 0x001F1FFF

/-- No flag of an earlier floating-point instruction is still on its way (R127). -/
def Stream.flagsSettled (st : Stream) : Bool := st.landings.all fun x => x.flags == 0

/-- mode.set (R127). -/
def execModeSet (i : Ins) (s : State) : Out :=
  withCx s fun c =>
    if !c.performs i then c.guardedOff 0xC8 i []
    else if !c.st.flagsSettled then c.block .flags
    else .next (c.update fun st =>
      { st with mode := modeAfter st.mode (BitVec.ofNat 32 (c.warg i 0 32)) (BitVec.ofNat 32 (c.warg i 1 32)) }.retired)

/-- mode.get (R127). -/
def execModeGet (i : Ins) (s : State) : Out :=
  withCx s fun c =>
    if !c.performs i then c.guardedOff 0xC9 i [tI32]
    else if !c.st.flagsSettled then c.block .flags
    else .next (c.finishWide 0xC9 i [tI32] [c.st.mode.toNat] s)

/-- flags.clr (R127). -/
def execFlagsClr (i : Ins) (s : State) : Out :=
  withCx s fun c =>
    if !c.performs i then c.guardedOff 0xD5 i []
    else if !c.st.flagsSettled then c.block .flags
    else .next (c.update fun st =>
      { st with mode := st.mode &&& ~~~((i.attr.ctlByte.setWidth 32 &&& 31) <<< (16 : Nat)) }.retired)

/-! ### Traps, yielding, sleeping and nop (R130, R132) -/

/-- trap (R130): the code is the attribute byte. -/
def execTrap (i : Ins) (s : State) : Out :=
  withCx s fun c =>
    if c.performs i then .next (s.takeTrap c.r { c.st.trapAt c.r.idx 0x18 with arg := i.attr.ctlByte.toNat })
    else c.guardedOff 0xCC i []

/-- trap with a value (R130). -/
def execTrapValue (i : Ins) (s : State) : Out :=
  withCx s fun c =>
    if c.performs i then
      .next (s.takeTrap c.r { c.st.trapAt c.r.idx 0x18 with arg := i.attr.ctlByte.toNat, value := c.warg i 0 32 })
    else c.guardedOff 0xCC i []

/-- brk: a breakpoint when kernel debug is unlocked for the job, else nothing (R130). -/
def execBrk (i : Ins) (s : State) : Out :=
  withCx s fun c =>
    if c.performs i && s.kdbgFor c.t.asid then
      .next (s.takeTrap c.r { c.st.trapAt c.r.idx 0x19 with arg := i.attr.ctlByte.toNat })
    else c.guardedOff 0xCD i []

/-- yield (R132). -/
def execYield (i : Ins) (s : State) : Out :=
  withCx s fun c =>
    if c.performs i then .next (c.update fun st => { st with yielded := true }.retired) else c.guardedOff 0xCE i []

/-- The count of a sleep of `n` cycles, at most 2^20: it falls by one at the end of each cycle, beginning with that of the
issue, and SLEEP_EXPIRE ends the sleep at 1, in the cycle after the last (R132). -/
def sleepCycles (n : Nat) : Nat := if n = 0 then 0 else Nat.min n (2 ^ 20) + 2

/-- sleep (R132). -/
def execSleep (i : Ins) (s : State) : Out :=
  withCx s fun c =>
    if c.performs i then .next (c.update fun st => { st with sleep := sleepCycles (c.warg i 0 32) }.retired)
    else c.guardedOff 0xCF i []

/-- nop (R132). -/
def execNop (i : Ins) (s : State) : Out := withCx s fun c => c.guardedOff 0xD4 i []

end Sys2Proof.Machine
end

