-- ==== Sys2Proof/Machine/Channel.lean ====
section
/-! DEFINITION. The channels between dies (spec/14_fabric_engine.md R370, R371) and the acknowledgements of stores to
replicated pages. -/
namespace Sys2Proof.Machine

/-! ### Channels (R370, R371) -/

/-- A message travels on a channel from one die to another. -/
def Msg.via (m : Msg) (chan src dst : Nat) : Bool := m.chan == chan && m.src == src && m.dst == dst

/-- What an arrived message names is gone: its job has ended. Nothing waits behind it. -/
def State.isDead (s : State) (m : Msg) : Bool :=
  m.arrived && match m.body with
    | .storeAck acc .. => (s.acc? acc).isNone
    | .syncMarker acc => (s.acc? acc).isNone
    | .barrier cluster .. => (s.cluster? cluster).isNone
    | _ => false

/-- The oldest message of a channel, once it has arrived. -/
def State.headMsg (s : State) (chan src dst : Nat) : Option Msg :=
  match (s.fabric.msgs.filter fun m => !s.isDead m).find? fun m => m.via chan src dst with
  | some m => if m.arrived then some m else none
  | none => none

/-- Replaces the first message that satisfies a test by a list. -/
def replaceFirst (p : Msg → Bool) (f : Msg → List Msg) : List Msg → List Msg
  | [] => []
  | m :: ms => if p m then f m ++ ms else m :: replaceFirst p f ms

/-- Consumes the oldest message of a channel. -/
def State.takeHead (s : State) (chan src dst : Nat) : State :=
  let live := s.fabric.msgs.filter fun m => !s.isDead m
  { s with fabric := { s.fabric with msgs := replaceFirst (fun m => m.via chan src dst) (fun _ => []) live } }

/-! ### Replicas -/

/-- Changes the replica part of a sail on a die. -/
def State.modReplica (s : State) (id die : Nat) (f : Sail → SailPart → SailPart) : State :=
  s.modSail (.sys id) fun x => x.modPart die (f x)

/-- A replica that holds a line applies bytes to it (R376). -/
def State.applyUpdate (s : State) (id die line off : Nat) (bytes : List Byte) (ref : Option Nat) : State :=
  s.modReplica id die fun _ p =>
    { p with lines := p.lines.map fun l =>
        if l.line = line ∧ l.valid ≠ 0 then { l with data := patch l.data off bytes, ref := ref.orElse fun _ => l.ref } else l }

/-! ### Acknowledgements of stores to replicated pages (R375, R376, R381) -/

/-- Takes the acknowledgement that stands at the head of the update channel from a die, when it is one of this access:
the lane is done, an .ef store's bytes are applied to the issuing die's replica, and a lost acknowledgement sets the
error flag. -/
def State.takeAck (s : State) (id : Nat) (a : Acc) (src : Nat) : State :=
  match s.headMsg 3 src a.ref.die with
  | some ⟨_, _, _, _, _, .storeAck acc lane lost sail line off bytes, ref⟩ =>
    if acc ≠ id then s
    else
      let s := s.takeHead 3 src a.ref.die
      let s := if bytes = [] then s
        else
          let flat := line * (((s.sail? (.sys sail)).map Sail.lineBytes).getD 0) + off
          (s.applyUpdate sail a.ref.die line off bytes ref).seenAfter a flat bytes
      let s := s.modAcc id fun a =>
        { a with lanes := a.lanes.map fun l => if l.lane = lane then { l with stage := .done } else l }
      if lost then s.modStream a.ref fun st => { st with ackLost := true } else s
  | _ => s

/-- Takes every acknowledgement of an access that has arrived at the head of its channel. -/
def State.takeAcks (s : State) (id : Nat) : State :=
  match s.acc? id with
  | none => s
  | some a => (a.lanes.map fun _ => List.range 6).flatten.foldl (fun s src => s.takeAck id a src) s

/-- How the response to a lane of an access, or to a chunk of a copy command, comes back. -/
def State.replyTo (s : State) (id n : Nat) : Reply := (s.fabric.replies.lookup (id, n)).getD .good

/-- Responses have come back. -/
def State.answered (s : State) (id : Nat) (ns : List Nat) : State :=
  { s with fabric := { s.fabric with replies := s.fabric.replies.filter fun e => !(e.1.1 == id && ns.contains e.1.2) } }

end Sys2Proof.Machine
end

