-- ==== Sys2Proof/Machine/FlightEvents.lean ====
section
/-! DEFINITION. What happens to an access in flight: loads bind and return, stores perform and are acknowledged, coalesced
bytes leave, atomics are applied and return (spec/07_load_store_engine.md R211, R222, R226 to R231;
spec/08_atomic_engine.md R243 to R255; spec/17_chain_recorder.md R450). -/
namespace Sys2Proof.Machine

/-! ### Translating again (R253, R346, R363) -/

/-- Checks a lane of an access that has issued once more. -/
def State.recheck (s : State) (a : Acc) (l : AccLane) : Check × State :=
  if a.isLocal then (.lane { l with stage := .sent }, s)
  else match a.kind with
  | .atomic opc .. => s.checkAtomic (coreOf a.ref) a.asid opc a.scope a.size l.va l.lane
  | .store => s.checkGlobal (coreOf a.ref) a.asid { write := true, scope := a.scope } a.size l.va l.lane
  | .load | .fence _ => s.checkGlobal (coreOf a.ref) a.asid { read := true, scope := a.bindScope } a.size l.va l.lane
  | .prefetch | .prefetchL1 => s.checkGlobal (coreOf a.ref) a.asid { read := true, scope := a.scope } a.size l.va l.lane

/-- The page kinds of an access, for its faults (Table 12.3). -/
def Acc.faultKind (a : Acc) : Nat :=
  match a.kind with
  | .atomic .. => kindAtomic
  | .store => kindWrite
  | .load | .prefetch | .prefetchL1 | .fence _ => kindRead

/-- Puts a lane of an access in place of the one of its number. -/
def State.setLane (s : State) (id : Nat) (l : AccLane) : State :=
  s.modAcc id fun a => { a with lanes := a.lanes.map fun m => if m.lane = l.lane then l else m }

/-- Checks lanes of an access again, in their order. -/
def State.retry (s : State) (a : Acc) (ls : List AccLane) : Tried :=
  ls.foldl (fun t l =>
    match t.s.recheck a l with
    | (.lane n, s) =>
      let m := { l with pa := n.pa, sail := n.sail, loc := n.loc, home := n.home, roh := n.roh, stage := n.stage }
      { t with s := s, lanes := t.lanes ++ [{ m with place := s.placeCode (coreOf a.ref) a.isLocal a.scope m }] }
    | (.miss, s) => { t with s := s, missed := t.missed ++ [{ l with stage := .parked }] }
    | (.bad code cause, s) => { t with s := s, bad := t.bad ++ [(l.lane, code, cause, l.va)] }) { s := s }

/-- Sends lanes of an access again under their new translations (R222, R343): where one raises a code of kind P, the
stream traps and none is sent; lanes whose pages are missing park once more, with one fault for each block that has
none outstanding. A prefetch drops such lanes (R224). An atomic that is sent again after a move counts MOVED, its
record naming the place: log entry 110 (DEDUCED). -/
def State.sendLanes (s : State) (a : Acc) (ls : List AccLane) : State :=
  let t := s.retry a ls
  if a.isPrefetch then
    let left := a.lanes.filter fun l => !(ls.any fun m => m.lane == l.lane)
    t.s.modAcc a.id fun a => { a with lanes := left ++ t.lanes }
  else if t.bad != [] && !missFirst t.bad t.missed then
    match ({ stream := a.ref.idx, code := 0, pos := a.pos } : TrapRecord).forLanes t.bad fun va =>
        if a.isAtomic then t.s.placeAt (coreOf a.ref) a.asid a.isLocal a.scope va else 0 with
    | some rec => t.s.takeTrap a.ref rec
    | none => t.s
  else
    let s := t.lanes.foldl (fun s m =>
      let s := if a.isAtomic && m.stage == .sent && (a.lanes.any fun l => l.lane == m.lane && l.stage == .refused) then
        s.teamEvent (coreOf a.ref) a.ref.idx 0x25 a.pos [BitVec.ofNat 8 m.place] else s
      s.setLane a.id m) (t.s.modAcc a.id fun x => { x with cycle := (s.die a.ref.die).clock })
    let later := t.bad.filterMap fun b => (ls.find? fun l => l.lane == b.1).map fun l => { l with stage := .mapped }
    let s := (t.missed ++ later).foldl (fun s m => s.setLane a.id m) s
    s.park a.ref a a.faultKind ((parkedBlocks t.missed).filter fun b => !(parkedBlocks a.lanes).contains b)

/-- A parked group goes on once no lane of its access waits for a page, with a FAULT link (R445). -/
def State.unpark (s : State) (id : Nat) : State :=
  match s.acc? id with
  | none => s
  | some a =>
    if ((s.stream? a.ref).bind Stream.parked) != some id || !a.lanes.all AccLane.placed then s
    else
      let ref := s.terminalRef 6 255 8
      let q := s.addLink (coreOf a.ref) { kind := 0x0C, detail := 0, stream := a.ref.idx, pos := a.pos, start := a.time
                                          slack := a.time - linkTime ref, prod := some ref }
      q.1.modStream a.ref fun st => { st with parked := none, link := some q.2 }

/-- Replays the lanes of an access whose faults have all been answered (R343): those whose pages are left unmapped raise
ACCESS_VIOLATION with cause 1 at the parked instruction (R342), unless another trap of the team came first (R348);
otherwise the others are sent. An access replays once every block it misses is answered: log entry 79 (DEDUCED). -/
def State.replay (s : State) (id : Nat) : State :=
  match s.acc? id with
  | none => s
  | some a =>
    if (a.lanes.any fun l => l.stage == .parked) || ((s.team? (coreOf a.ref)).bind Team.trapped).isSome then s
    else
      match a.lanes.filter (fun l => l.stage == .denied), a.lanes.filter fun l => l.stage == .mapped with
      | l :: ls, _ =>
        s.takeTrap a.ref { stream := a.ref.idx, code := 0x21, pos := a.pos, arg := 1, value := l.va
                           lanes := maskOfList ((l :: ls).map AccLane.lane) }
      | [], [] => s
      | [], ls => (s.sendLanes a ls).unpark id

/-- Sends again every lane that was refused, and those that replay. -/
def State.resendAll (s : State) (id : Nat) : State :=
  let s := s.replay id
  match s.acc? id with
  | none => s
  | some a =>
    match a.lanes.filter fun l => l.stage == .refused with
    | [] => s
    | ls => s.sendLanes a ls

/-- Every lane has been sent. -/
def Acc.allSent (a : Acc) : Bool := a.lanes.all fun l => l.placed && l.stage != .refused

def Acc.allDone (a : Acc) : Bool := a.lanes.all fun l => l.stage == .done

/-! ### The acquire slot (R450) -/

/-- The sail at whose lines an acquire of an access looks. -/
def State.pointSail (s : State) (a : Acc) (l : AccLane) : SailKey :=
  match (if a.scope ≤ 1 then s.clusterSail (coreOf a.ref) else none) with
  | some k => .cluster k
  | none => .sys l.sail

/-- What the acquire slot does when a lane of an acquire has bound. -/
def State.acquireSlot (s : State) (a : Acc) (l : AccLane) : State :=
  match s.sail? (s.pointSail a l), s.stream? a.ref with
  | some x, some st =>
    let line := l.pa / x.lineBytes * x.lineBytes
    let slot : AcquireSlot := match st.acqSlot with
      | some q => if q.line = line then { q with first := some (q.first.getD a.time) } else { line := line, first := some a.time }
      | none => { line := line, first := some a.time }
    let ref := l.ref
    if ref.isSome && ref != slot.ref then
      let start := slot.first.getD a.time
      let q := s.addLink (coreOf a.ref) { kind := 0x0A, stream := a.ref.idx, pos := a.pos, start := start, prod := ref
                                          slack := start - linkTime (ref.getD 0) }
      q.1.modStream a.ref fun st =>
        { st with link := some q.2, acqSlot := some { line := line, ref := ref, first := none } }
    else s.modStream a.ref fun st => { st with acqSlot := some slot }
  | _, _ => s

/-- Ends an acquire: replicas are synchronised, and then the caches below its point are made current (R231, R378). True
once nothing is left to wait for. -/
def State.acquireDone (s : State) (a : Acc) : State × Bool :=
  if !a.acq then (s, true)
  else if a.syncing then
    (if a.markers = [] then (s.acquireAt (coreOf a.ref) a.ref.idx a.scope, true) else (s, false))
  else if s.needsSync a then (s.startSync a, false)
  else (s.acquireAt (coreOf a.ref) a.ref.idx a.scope, true)

/-! ### Loads -/

/-- Brings the line of one lane of a prefetch into the sail that serves it at the scope, and for pf.l1 into L1; an unlucky
line is not waited for, and one that holds an uncorrectable error is dropped (R224). -/
def State.prefetchLane (s : State) (a : Acc) (l : AccLane) : State :=
  let r := laneRoute s a l
  let size := ((s.sail? (s.pointSail a l)).map Sail.lineBytes).getD 128
  let point := if a.scope = 1 ∧ r.cluster.isNone then 2 else a.scope
  let base := l.pa / 128 * 128
  if s.anyPoison (l.pa / size * size) size || s.returning l.pa then s
  else match a.kind with
    | .prefetchL1 =>
      if ((s.core r.core).l1Find l.pa).isSome then s
      else
        match readBlocks (fun s x => s.pointRead r point x 64 a.ro) s base 2 with
        | .wait s => s
        | .bytes s bs => s.modCore r.core fun c =>
            c.l1Fill r.idx { line := base / 128, data := s.newest r point base bs, ro := a.ro || l.roh }
    | _ =>
      match s.pointRead r point (l.pa / 64 * 64) 64 a.ro with
      | .wait s => s
      | .bytes s _ => s

/-- Brings a prefetch's lines in. -/
def State.prefetchLanes (s : State) (a : Acc) : State := a.lanes.foldl (fun s l => s.prefetchLane a l) s

/-- Delivers a load whose lanes are bound: DATA_POISON when any is poisoned, otherwise its results. -/
def State.loadDeliver (s : State) (a : Acc) : State :=
  match a.lanes.filter AccLane.poison with
  | l :: rest =>
    s.takeTrap a.ref { stream := a.ref.idx, code := 0x29, pos := a.pos, value := l.va
                       lanes := maskOfList ((l :: rest).map AccLane.lane) }
  | [] =>
    let s := if a.acq then a.lanes.foldl (fun s l => if a.isLocal then s else s.acquireSlot a l) s else s
    (s.modStream a.ref (deliverLoad a)).finishAcc a

/-- LOAD_RETURN (R220, R226): the lanes that have been sent bind once nothing older keeps them; when every lane has, the
load's acquire takes effect, and its results are written, in the native form not before their latency (R408). -/
def execLoadReturn (id : Nat) (s : State) : Out :=
  let s := (s.resendAll id).takeAcks id
  match s.acc? id with
  | none => .next s
  | some a =>
    if !(a.isLoad || a.isPrefetch) || !s.clear a then .next s
    else if a.isPrefetch then .next (if a.allSent then (s.prefetchLanes a).finishAcc a else s)
    else
      let q := s.bindLanes a a.lanes
      let s := q.1.modAcc id fun b => { b with lanes := q.2, due := s.loadDue a }
      match s.acc? id with
      | none => .next s
      | some a =>
        if !a.allDone || s.early a a.due then .next s
        else
          let r := s.acquireDone a
          if r.2 then .next (r.1.loadDeliver a) else .next r.1

/-! ### Stores -/

/-- What a release must wait for is over: older accesses have performed, and what it writes out is acknowledged. The
state has its write-outs begun. -/
def State.releaseReady (s : State) (a : Acc) : State × Bool :=
  if !a.rel then (s, true)
  else if s.waitsFor a != [] then (s, false)
  else
    let s := s.flushFor a
    match s.acc? a.id with
    | none => (s, false)
    | some a => (s, s.flushDone a)

/-- STORE_ACK (R226, R227): the lanes that can perform do; when every lane has, the store is acknowledged. -/
def execStoreAck (id : Nat) (s : State) : Out :=
  let s := (s.resendAll id).takeAcks id
  match s.acc? id with
  | none => .next s
  | some a =>
    if !a.isStore || !s.clear a then .next s
    else
      let r := s.releaseReady a
      if !r.2 then .next r.1
      else
        match r.1.acc? id with
        | none => .next r.1
        | some a =>
          let q := r.1.performLanes a a.lanes
          let s := q.1.modAcc id fun b => { b with lanes := q.2 }
          match s.acc? id with
          | none => .next s
          | some a => if a.allDone && !s.early a (s.storeDue a) then .next (s.finishAcc a) else .next s

/-- The part of a list up to the last element that a test selects, and what follows. -/
def throughLast {α : Type} (p : α → Bool) : List α → List α × List α
  | [] => ([], [])
  | x :: xs =>
    let r := throughLast p xs
    if r.1.isEmpty && !p x then ([], x :: r.2) else (x :: r.1, r.2)

/-- COALESCE_TIMEOUT (R211): a coalescing line's bytes leave, and with them every older byte of the core, so that stores
reach the points beyond in their order (R230). -/
def execCoalesceTimeout (c : CoreRef) (line : Nat) (s : State) : Out :=
  let old := (throughLast (fun o => o.lane.pa / 128 == line) (s.onward.filter fun o => o.core == c)).1
  let kept := (s.onward.filter fun o => o.core == c).drop old.length
  let s := old.foldl (fun s o => s.pushOnward o) s
  .next { s with onward := (s.onward.filter fun o => o.core != c) ++ kept }

/-! ### Atomics -/

/-- The bank that serves a line of a sail on a die: 8 panels are one. -/
def State.bankOf (s : State) (k : SailKey) (home flat : Nat) : Nat :=
  match s.sail? k with
  | some x =>
    match x.part? home with
    | some p => let pl := panelAt p (placeOf x p flat).1; 1024 * pl.1 + pl.2 / 8
    | none => 0
  | none => 0

/-- The result store of a lane's executing place: the place, the unit and the entries it holds (R252). -/
def State.placeUnit (s : State) (a : Acc) (l : AccLane) : Nat × Nat × Nat :=
  if l.place ≤ 1 then (l.place, flatTag l.pa - 5000, 512)
  else if l.place = 4 then (4, 0, 2048)
  else if l.place = 5 then (5, flatTag l.pa - 8, 0)
  else (l.place, s.bankOf (if l.place = 2 then s.pointSail a l else .sys l.sail) l.home l.pa, 64)

/-- The requester of a lane: device, stream, incarnation of its die, and lane (R251). -/
def State.requester (s : State) (a : Acc) (l : AccLane) : Nat × StreamRef × Nat × Nat :=
  (s.fabric.devid.toNat, a.ref, (s.incOf a.ref.die).toNat, l.lane)

/-- The requester of an entry. -/
def ResultEntry.who (e : ResultEntry) : Nat × StreamRef × Nat × Nat := (e.dev, e.ref, e.inc, e.lane)

/-- The stored result of a request, when its place has one. -/
def State.resultFor (s : State) (w : Nat × StreamRef × Nat × Nat) (tag : BitVec 16) : Option (List Byte) :=
  (s.results.find? fun e => e.who == w && e.tag == tag).map ResultEntry.result

/-- The stored result of a lane's request. -/
def State.storedResult (s : State) (a : Acc) (l : AccLane) : Option (List Byte) := s.resultFor (s.requester a l) a.tag

/-- Two places share a store: both are local atomic units, or both are banks. -/
def samePlaces (p q : Nat) : Bool := if p ≤ 1 then decide (q ≤ 1) else if p ≤ 3 then decide (2 ≤ q ∧ q ≤ 3) else p == q

/-- An entry stands in the store of a place. -/
def ResultEntry.inStore (e : ResultEntry) (u : Nat × Nat × Nat) : Bool := samePlaces e.place u.1 && e.unit == u.2.1

/-- The place's store has room. -/
def State.storeHasRoom (s : State) (u : Nat × Nat × Nat) : Bool :=
  u.2.2 == 0 || (s.results.filter fun e => e.inStore u).length < u.2.2

/-- A request's floor frees the entries of its requester at the place it reaches (R252). -/
def State.freeBelow (s : State) (u : Nat × Nat × Nat) (w : Nat × StreamRef × Nat × Nat) (floor : BitVec 16) : State :=
  { s with results := s.results.filter fun e => !(e.inStore u && e.who == w && floorBeyond floor e.tag) }

/-- Stores the result of a requester's request with a tag. -/
def State.keepResult (s : State) (u : Nat × Nat × Nat) (addr : Nat) (w : Nat × StreamRef × Nat × Nat) (tag : BitVec 16)
    (got : List Byte) : State :=
  { s with results := s.results ++
    [{ place := u.1, unit := u.2.1, addr := addr, dev := w.1, ref := w.2.1, inc := w.2.2.1, lane := w.2.2.2
       tag := tag, result := got }] }

/-- Stores the result of a lane's request. -/
def State.storeResult (s : State) (a : Acc) (l : AccLane) (u : Nat × Nat × Nat) (got : List Byte) : State :=
  s.keepResult u l.pa (s.requester a l) a.tag got

/-- The operands of a lane, and the value it writes for an old value. -/
def Acc.newValue (a : Acc) (l : AccLane) (old : List Byte) : Option (List Byte) :=
  match a.kind with
  | .atomic opc sel ty sx =>
    let w := tyBytes ty
    let args := (List.range (l.data.length / Nat.max 1 w)).map fun k => ofBytes ((l.data.drop (w * k)).take w)
    (atomicNew opc sel ty sx (ofBytes old) args).map fun v => toBytes a.size v
  | _ => none

/-- Reads a lane's bytes at its executing place. -/
def State.placeRead (s : State) (a : Acc) (l : AccLane) : Found :=
  let r := laneRoute s a l
  if l.place ≤ 1 then .bytes s (s.bytesAt l.pa a.size)
  else if l.place = 2 then s.clusterRead r l.pa a.size homeFound
  else homeFound s r l.pa a.size

/-- Writes a lane's new bytes at its executing place, as a store that performs there (R247, R248, R249). On a replicated
page the write opens a HOLD round, and the lane waits for it. -/
def State.placeWrite (s : State) (a : Acc) (l : AccLane) (bs : List Byte) (bad : Bool) : State × LaneStage :=
  let r := laneRoute s a l
  let l := { l with data := bs, poison := bad }
  if l.place ≤ 1 then (s.writeBytes l.pa bs bad, .done)
  else if l.place = 2 then
    match r.cluster with
    | some k => (s.clusterWrite r k l.pa bs bad a.link, .done)
    | none => (s.homeWrite r l.pa bs bad, .done)
  else if l.place = 3 ∧ s.isReplicated l.sail then (s.openRound a l, .round)
  else ((s.homeWrite r l.pa bs bad).setLineRef (.sys l.sail) l.home l.pa a.link, .done)

/-- What is left of a lane that writes nothing: on a replicated page its answer follows the messages that the home has sent
before (R249, R371). -/
def State.placeKeep (s : State) (a : Acc) (l : AccLane) : State × LaneStage :=
  if l.place = 3 ∧ s.isReplicated l.sail then (s.send 3 l.home a.ref.die (.storeAck a.id l.lane false l.sail 0 0 []), .round)
  else (s, .done)

/-- A lane has been applied at its executing place: a round at the PCIe port waits for the host still. -/
def AccLane.taken (l : AccLane) : Bool :=
  l.stage == .applied || l.stage == .lost || l.stage == .done || (l.stage == .round && l.place != 4)

/-- Two lanes name a common byte: by their physical addresses, where both are translated. -/
def Acc.overlap (a : Acc) (l m : AccLane) : Bool :=
  if l.placed && m.placed then decide (m.pa < l.pa + a.size) && decide (l.pa < m.pa + a.size)
  else decide (m.va < l.va + a.size) && decide (l.va < m.va + a.size)

/-- A lower lane of the access that names a common byte has not been applied (R243). -/
def Acc.lowerWaits (a : Acc) (l : AccLane) : Bool :=
  a.lanes.any fun m => decide (m.lane < l.lane) && !m.taken && a.overlap l m

/-- A lane's response crosses a bridge or a device link on its way back. -/
def Acc.returns (a : Acc) (l : AccLane) : Bool :=
  if a.isLocal then (flatTag l.pa - 5000) / 160 != a.ref.die else l.place == 5 || l.home != a.ref.die

/-- Applies a lane at its place: one indivisible read and write (R240, R247), the result stored (R252). The bytes read
that are poisoned make the new value and the result poisoned, and the fate is applied (R255). The core sees the value;
that of a HOLD round once it commits. -/
def State.applyLane (s : State) (a : Acc) (l : AccLane) : State :=
  let u := s.placeUnit a l
  if l.place = 5 && !s.peerServes .atomic l.pa then s.setLane a.id { l with stage := .done, poison := true, fate := 3 }
  else if !s.storeHasRoom u then s
  else
    let s := if l.place ≤ 1 then s else s.flushCore (coreOf a.ref)
    match s.placeRead a l with
    | .wait s => s
    | .bytes s old =>
      let bad := s.anyPoison l.pa a.size
      let ref := s.refFound a l
      let q := match a.newValue l old with
        | none => s.placeKeep a l
        | some new => s.placeWrite a l new bad
      let seen := (a.newValue l old).getD old
      let s := if l.place ≤ 1 then q.1
        else if l.place = 2 then q.1.modCore (coreOf a.ref) fun k => k.l1Update l.pa seen
        else if q.2 = .round ∧ (a.newValue l old).isSome then q.1
        else q.1.seenBy (coreOf a.ref) l.pa seen ((a.newValue l old).bind fun _ => a.link)
      (s.storeResult a l u old).setLane a.id
        { l with stage := if q.2 = .done ∧ a.returns l then .applied else q.2, got := old, poison := bad
                 fate := if bad then 1 else 0, ref := ref }

/-- ATOMIC_REQUEST (R252): a lane's request reaches its place and is applied, or answered from the result store; its floor
frees what its requester has there. A request that arrives while its page moves is refused (R253). The PCIe AtomicOp port
passes it to the host. -/
def execAtomicRequest (id lane : Nat) (s : State) : Out :=
  let s := s.resendAll id
  match s.acc? id with
  | none => .next s
  | some a =>
    match a.lanes.find? fun l => l.lane == lane && l.stage == .sent with
    | none => .next s
    | some l =>
      if !a.isAtomic || !s.clear a || a.lowerWaits l then .next s
      else
        let r := s.releaseReady a
        if !r.2 then .next r.1
        else
          let s := r.1.freeBelow (r.1.placeUnit a l) (r.1.requester a l) a.floor
          if s.movingAt a l then .next (s.setLane id { l with stage := .refused })
          else match s.storedResult a l with
          | some got =>
            .next (s.setLane id { l with stage := if a.returns l then .applied else .done, got := got })
          | none =>
            let s := if 2 ≤ l.place ∧ l.place ≤ 3 then s.flushCore (coreOf a.ref) else s
            if 2 ≤ l.place && l.place ≤ 3 && s.returning l.pa then .next s
            else if l.place = 3 && s.lineBusy (laneRoute s a l) l.pa then .next s
            else if l.place = 4 then
              .next (if s.storeHasRoom (s.placeUnit a l) then s.setLane id { l with stage := .round } else s)
            else .next (s.applyLane a l)

/-- Delivers poison marks for the lanes of an atomic that came back poisoned (R255), one for each fate: log entry 107
(DESIGN CHOICE). -/
def Acc.poisonMarks (a : Acc) : List PoisonMark :=
  let locs := match (a.dsts.map fun d => locParts d.1 (tyBits d.2)).flatten with
    | [] => [Loc.reg 255]
    | ls => ls
  let fates := ((a.lanes.filter AccLane.poison).map AccLane.fate).eraseDups
  (fates.map fun f => locs.filterMap fun loc =>
    match a.lanes.filter fun l => l.poison && l.fate == f with
    | [] => none
    | l :: rest =>
      some ({ loc := loc, lanes := maskOfList ((l :: rest).map AccLane.lane), fate := f, place := l.place, addr := l.va,
              tag := a.tag, issued := a.pos } : PoisonMark)).flatten

/-- The response of a lane that has been applied comes back (R252, R253, R255): one that fails its check leaves the result
poisoned, with the fate applied; a device link may lose one, a bridge loses none (R370). -/
def AccLane.replied (r : Reply) (l : AccLane) : AccLane :=
  if l.stage ≠ .applied then l
  else
    match r with
    | .good => { l with stage := .done }
    | .bad => { l with stage := .done, poison := true, fate := 1 }
    | .lost => if l.place = 5 then { l with stage := .lost } else { l with stage := .done }

/-- An atomic has completed: every lane's result has returned, or, for a reduction, every lane has been applied (R245). -/
def Acc.completes (a : Acc) : Bool := a.lanes.all fun l => l.stage == .done || (a.isReduction && l.stage == .applied)

/-- The responses of the lanes that have been applied come back. -/
def State.repliesOf (s : State) (a : Acc) : State :=
  (s.modAcc a.id fun x => { x with lanes := x.lanes.map fun l => l.replied (s.replyTo a.id l.lane) }).answered a.id
    ((a.lanes.filter fun l => l.stage == .applied).map AccLane.lane)

/-- ATOMIC_RESULT (R245, R247, R255): the responses of an atomic come back; once it completes, its acquire takes effect and
its results return. -/
def execAtomicResult (id : Nat) (s : State) : Out :=
  let s := s.takeAcks id
  let s := ((s.acc? id).map s.repliesOf).getD s
  match s.acc? id with
  | none => .next s
  | some a =>
    if !a.isAtomic || !a.completes || s.early a (s.atomicDue a) then .next s
    else
      let r := s.acquireDone a
      if !r.2 then .next r.1
      else
        let s := r.1
        let s := if a.acq then a.lanes.foldl (fun s l => if a.isLocal then s else s.acquireSlot a l) s else s
        let s := s.modStream a.ref fun st =>
          let st := deliverLoad a st
          { st with poisoned := st.poisoned ++ a.poisonMarks }
        .next (s.finishAcc a)

/-- FREE_NOTICE (R252): entries of the requester whose tag lies before its floor are freed. -/
def execFreeNotice (r : StreamRef) (s : State) : Out :=
  let freed (e : ResultEntry) : Bool :=
    e.dev == s.fabric.devid.toNat && e.ref == r && (match s.floorOf r with
      | some f => floorBeyond f e.tag
      | none => true)
  .next { s with results := s.results.filter fun e => !freed e }

/-- ATOMICOP_COMPLETION (R250, R255): the host answers an AtomicOp with the old value, or refuses it. -/
def execAtomicopCompletion (id lane : Nat) (h : HostAnswer) (s : State) : Out :=
  match s.acc? id with
  | none => .next s
  | some a =>
    match a.lanes.find? fun l => l.lane == lane && l.stage == .round && l.place == 4 with
    | none => .next s
    | some l =>
      match h with
      | .refused => .next (s.setLane id { l with stage := .done, poison := true, fate := 3 })
      | .done words =>
        let old := (words.map fun w => toBytes 8 w).flatten.take a.size
        let s := match a.newValue l old with
          | some new => s.writeBytes l.pa new
          | none => s
        let s := s.modCore (coreOf a.ref) fun k => k.l1Update l.pa ((a.newValue l old).getD old)
        .next ((s.storeResult a l (s.placeUnit a l) old).setLane id { l with stage := .done, got := old })

/-- PCIE_COMPLETION_TIMEOUT (R255, R390): a load from host memory receives poisoned data; an atomic's fate is unknown. -/
def execPcieCompletionTimeout (id lane : Nat) (s : State) : Out :=
  match s.acc? id with
  | none => .next s
  | some a =>
    match a.lanes.find? fun l => l.lane == lane && l.loc == 2 && l.placed && l.stage != .done with
    | none => .next s
    | some l =>
      if a.isAtomic then
        .next (if l.stage = .round then s.setLane id { l with stage := .done, poison := true, fate := 2 } else s)
      else if a.isLoad then
        .next (s.takeTrap a.ref { stream := a.ref.idx, code := 0x29, pos := a.pos, value := l.va, lanes := maskOfList [lane] })
      else .next s

end Sys2Proof.Machine
end

