-- ==== Sys2Proof/Machine/SailCtl.lean ====
section
/-! DEFINITION. The sail controller (spec/13_sail_engine.md): free panels, defining, reefing, shaking out and dropping a
sail, writing one back, and the word sail.query reads. The instructions and SL_CMD share these operations. -/
namespace Sys2Proof.Machine

/-! ### Panels (R350, R351) -/

/-- Mesh distance of two cores of one die (R17): rows of 16. -/
def coreDistance (a b : Nat) : Nat :=
  (a / 16 - b / 16) + (b / 16 - a / 16) + (a % 16 - b % 16) + (b % 16 - a % 16)

/-- The near panels of a core. -/
def nearPanels (c : Nat) : List Nat := (List.range 32).map fun k => 32 * c + k

/-- The ring panels. -/
def ringPanels : List Nat := (List.range 1024).map fun k => 5120 + k

/-- The order in which panels near a core are taken; 255 takes the ring first (R351). -/
def panelOrder (core : Nat) : List Nat :=
  if core = 255 then ringPanels ++ List.range 5120
  else
    ((List.range 25).map fun d =>
      (((List.range 160).filter fun c => coreDistance core c == d).map nearPanels).flatten).flatten ++ ringPanels

/-- Panels of a die that some sail holds. -/
def State.cutPanels (s : State) (die : Nat) : List Nat :=
  (s.sails.map fun x => (x.parts.map fun p => (p.held.filter fun q => q.1 == die).map Prod.snd).flatten).flatten

/-- The free panels of a die, in some order. -/
def State.freePanels (s : State) (die : Nat) (order : List Nat) : List Nat :=
  let cut := s.cutPanels die
  let failed := (s.die die).failed
  order.filter fun n => !cut.contains n && !failed.contains n

/-- Free panels of a die (Table 13.7). -/
def State.freeCount (s : State) (die : Nat) : Nat := (s.freePanels die (List.range 6144)).length

/-- Takes `n` free panels in an order, or none when there are fewer. -/
def State.takePanels (s : State) (die n : Nat) (order : List Nat) : Option (List (Nat × Nat)) :=
  let f := s.freePanels die order
  if f.length < n then none else some ((f.take n).map fun k => (die, k))

/-! ### Evicting lines (R356, R361) -/

/-- The die that homes a line. -/
def Sail.lineHome (x : Sail) (line : Nat) : Nat :=
  let flat := line * x.lineBytes
  if isHbm flat then flatTag flat else x.xhome

/-- Writes the dirty bytes of the lines of one part that a test selects onward; the lines stay. -/
def State.cleanLines (s : State) (k : SailKey) (die : Nat) (core : CoreRef) (test : SailPart → SailLine → Bool) : State :=
  match s.sail? k with
  | none => s
  | some x =>
    match x.part? die with
    | none => s
    | some p =>
      let out := p.lines.filter (test p)
      let s := out.foldl (fun s l => if x.cluster.isSome then s.pushLine x core l else s.writeBack x core p.die l) s
      let clean (l : SailLine) : SailLine := if out.any fun m => m.line == l.line then { l with dirty := 0 } else l
      s.modSail k fun x => x.modPart die fun p => { p with lines := p.lines.map clean }

/-- Drops the lines of one part that a test selects. -/
def State.dropLines (s : State) (k : SailKey) (die : Nat) (test : SailPart → SailLine → Bool) : State :=
  match s.sail? k with
  | none => s
  | some x =>
    match x.part? die with
    | none => s
    | some p =>
      let out := p.lines.filter (test p)
      let gone (n : Nat) : Bool := out.any fun l => l.line == n
      s.modSail k fun x => x.modPart die fun p => { p with lines := p.lines.filter fun l => !gone l.line }

/-- Writes back and drops the lines of one part that a test selects. -/
def State.evictLines (s : State) (k : SailKey) (die : Nat) (core : CoreRef) (test : SailPart → SailLine → Bool) :
    State :=
  (s.cleanLines k die core test).dropLines k die test

/-- A write-back of some line that a test selects has not been acknowledged (R361): those of a cluster's sail travel to
replicated homes; a home sail's are written at once. -/
def State.linesLeaving (s : State) (k : SailKey) (die : Nat) (test : SailPart → SailLine → Bool) : Bool :=
  match s.sail? k with
  | none => false
  | some x => x.cluster.isSome && match x.part? die with
    | none => false
    | some p => (p.lines.filter (test p)).any fun l => s.writingBack x (l.line * x.lineBytes)

/-- Removes failed panels from a part's list before a change (R360); lines that would move are written back and
dropped, as an eviction does (R362). -/
def State.dropFailed (s : State) (k : SailKey) (die : Nat) (core : CoreRef) : State :=
  let bad (q : Nat × Nat) : Bool := (s.die q.1).failed.contains q.2
  match (s.sail? k).bind fun x => x.part? die with
  | none => s
  | some p =>
    if p.panels.any bad then
      let s := s.evictLines k die core fun _ _ => true
      s.modSail k fun x => x.modPart die fun p => { p with panels := p.panels.filter fun q => !bad q }
    else s

/-! ### Commands (Tables 13.1 and 13.3) -/

/-- Every die on which a sail has panels. -/
def Sail.onDies (x : Sail) : List Nat :=
  (((x.parts.map SailPart.held).flatten).map Prod.fst).eraseDups

/-- The part's change is in progress. -/
def Sail.changing (x : Sail) (die : Nat) : Bool :=
  match x.part? die with
  | some p => p.phase != .steady
  | none => false

/-- The bytes of a sail record. -/
structure SailRecord where
  id : Nat
  kind : Nat
  geom : Nat
  dies : Nat
  xhome : Nat
  /-- Count, near core and reserved bits of PLACE, per die. -/
  place : List (Nat × Nat × Nat)
  zeros : Bool

/-- The fields of a sail record (Table 13.1). -/
def sailRecordOf (bs : List Byte) : SailRecord :=
  let b (k n : Nat) : Nat := ofBytes ((bs.drop k).take n)
  { id := b 0 1, kind := b 1 1, geom := b 2 1, dies := b 3 1, xhome := b 4 1
    place := (List.range 6).map fun d =>
      let w := b (8 + 4 * d) 4
      (w % 2 ^ 13, w / 2 ^ 16 % 256, w / 2 ^ 13 % 8 + w / 2 ^ 24)
    zeros := b 5 3 == 0 && b 32 32 == 0 }

/-- PLACE agrees with DIES. -/
def SailRecord.placeOk (r : SailRecord) : Bool :=
  r.place.zipIdx.all fun p =>
    p.1.2.2 == 0 &&
      (if r.dies / 2 ^ p.2 % 2 = 1 then
        decide (1 ≤ p.1.1 ∧ p.1.1 ≤ 6144) && (decide (p.1.2.1 < 160) || p.1.2.1 == 255)
      else p.1.1 == 0)

/-- The record is well formed (Table 13.1). -/
def SailRecord.ok (r : SailRecord) : Bool :=
  r.zeros && decide (r.kind < 2) && decide (r.geom / 4 % 8 ≤ 4) && decide (r.geom < 128) && decide (r.dies < 64)
    && decide (r.xhome < 6) && r.dies / 2 ^ r.xhome % 2 == 1 && r.placeOk

/-- Defines a home or replicated sail (R355, R359): the status, and the state after it. Whether there are too few free panels
is asked only of a PLACE that is valid. -/
def State.sailDefine (s : State) (bytes : List Byte) : Nat × State :=
  let r := sailRecordOf bytes
  let want := r.place.zipIdx.filter fun p => r.dies / 2 ^ p.2 % 2 == 1
  let cut := want.map fun p => (p.2, s.takePanels p.2 p.1.1 (panelOrder p.1.2.1))
  if r.id = 0 then (1, s)
  else if r.placeOk && cut.any fun p => p.2.isNone then (4, s)
  else if !r.ok then (5, s)
  else if s.sails.any fun x => x.id == r.id then (7, s)
  else
    let parts : List SailPart := cut.map fun p => { die := p.1, panels := p.2.getD [] }
    let s := s.noteSail (.sys r.id)
    (0, { s with sails := s.sails ++
      [{ id := r.id, kind := r.kind, lineCode := r.geom % 4, waysCode := r.geom / 4 % 8, policy := r.geom / 32 % 4
         dies := r.dies, xhome := r.xhome, parts := parts }] })

/-- The cores of the cluster a cluster sail belongs to. -/
def State.sailCores (s : State) (k : SailKey) : List CoreRef :=
  match k with
  | .cluster c => ((s.cluster? c).map Cluster.cores).getD []
  | .sys _ => []

/-- A part's list without the failed panels, to which a change is applied (R360). -/
def State.soundPanels (s : State) (x : Sail) (die : Nat) : List (Nat × Nat) :=
  ((x.part? die).map fun p => p.panels.filter fun q => !(s.die q.1).failed.contains q.2).getD []

/-- A change is accepted: it takes the next number, and the sail's words are kept. -/
def State.newChange (s : State) (k : SailKey) : State :=
  let s := s.noteSail k
  { s with sailRegs := { s.sailRegs with changes := s.sailRegs.changes + 1 } }

/-- A line of the panel being swept is displaced (R361): its new place is another entry. -/
def displacedIn (x : Sail) (p : SailPart) (l : SailLine) : Bool :=
  l.entry == p.swept &&
    l.line % (2 ^ 64 / x.lineBytes) / x.setsPerPanel % Nat.max 1 p.next.length != l.entry

/-- A core of the cluster that a cluster sail belongs to; the hub's for other sails. -/
def State.sailCore (s : State) (k : SailKey) : CoreRef := ((s.sailCores k).head?).getD hubCore

/-- Adds to a multiplexed quantity for a sail: a cluster sail's is its team's, another sail's is partition 0's (log entry
26). -/
def State.sailTally (s : State) (k : SailKey) (q n : Nat) : State :=
  match s.sailCores k with
  | [] => s.tally 0 q n
  | c :: _ => s.teamTally c q n

/-- The sweep of the panel that a change has reached begins (R361): the dirty bytes of its displaced lines go onward. It takes
512 cycles and 4 for each dirty line. -/
def State.beginSweep (s : State) (k : SailKey) (die : Nat) (core : CoreRef) : State :=
  match (s.sail? k).bind fun x => (x.part? die).map fun p => (x, p.lines.filter (displacedIn x p)) with
  | none => s
  | some (x, out) =>
    let n := 512 + 4 * (out.filter fun l => l.dirty != 0).length
    ((s.cleanLines k die core (displacedIn x)).sailTally k 37 out.length).modSail k fun x => x.modPart die fun p =>
      { p with sweeping := true, sweepLeft := n }

/-- Starts a change of a part's list, once failed panels have left it. -/
def State.startChange (s : State) (k : SailKey) (die : Nat) (core : CoreRef) (phase : SailPhase)
    (next : List (Nat × Nat) → List (Nat × Nat)) : State :=
  let n := s.sailRegs.changes + 1
  let s := ((s.newChange k).dropFailed k die core).modSail k fun x => x.modPart die fun p =>
    { p with phase := phase, next := next p.panels, swept := 0, change := n, sweeping := false }
  s.beginSweep k die core

/-- sail.reef (R359, R360): the status, and the state after it. -/
def State.sailReef (s : State) (k : SailKey) (id die n : Nat) (core : CoreRef) : Nat × State :=
  if 255 < id then (1, s)
  else match s.sail? k with
    | none => (3, s)
    | some x =>
      if x.changing die && x.definedOn die then (2, s)
      else if !x.definedOn die then (3, s)
      else
        let whole := s.soundPanels x die
        let left := whole.take (whole.length - n)
        if n = 0 ∨ !(left.any fun q => q.1 == die) then (6, s)
        else (0, s.startChange k die core .reefing fun ps => ps.take (ps.length - n))

/-- sail.shake (R359, R360, R365): the status, and the state after it. Whether there are too few free panels is asked only of
a core that panels may be near. -/
def State.sailShake (s : State) (k : SailKey) (id die n near : Nat) (core : CoreRef) : Nat × State :=
  if 255 < id then (1, s)
  else match s.sail? k with
    | none => (3, s)
    | some x =>
      let mine := s.sailCores k
      let order := match k with
        | .sys _ => panelOrder near
        | .cluster _ => (panelOrder near).filter fun p => mine.any fun c => c.die == die && c.core == p / 32
      if x.changing die && x.definedOn die then (2, s)
      else if !x.definedOn die then (3, s)
      else
        let nearOk := match k with
          | .sys _ => near < 160 || near == 255
          | .cluster _ => mine.any fun c => c.die == die && c.core == near
        let held := (s.soundPanels x die).length
        let wide := match k with
          | .cluster _ => decide (32 * mine.length < held + n)
          | .sys _ => false
        let new := s.takePanels die n order
        if nearOk && new.isNone then (4, s)
        else if n = 0 || wide then (6, s)
        else if !nearOk then (8, s)
        else (0, s.startChange k die core .shaking fun ps => ps ++ new.getD [])

/-- sail.drop (R359, R360): every die enters DRAINING. -/
def State.sailDrop (s : State) (k : SailKey) (id : Nat) : Nat × State :=
  if id = 0 ∨ 255 < id then (1, s)
  else match s.sail? k with
    | none => (3, s)
    | some x =>
      if x.parts.any fun p => p.phase != .steady then (2, s)
      else
        let n := s.sailRegs.changes + 1
        (0, (s.newChange k).modSail k fun x => { x with parts := x.parts.map fun p =>
          { p with phase := .draining, change := n } })

/-- Writes every dirty byte of a sail onward, on every die; `drop` also drops every line (R359). The second result names
the write-backs to wait for. -/
def State.sailWriteBack (s : State) (k : SailKey) (core : CoreRef) (drop : Bool) : State × List Nat :=
  match s.sail? k with
  | none => (s, [])
  | some x =>
    let before := s.nextId
    let s := x.parts.foldl (fun s p =>
      if drop then s.evictLines k p.die core fun _ _ => true
      else
        let s := p.lines.foldl (fun s l => if x.cluster.isSome then s.pushLine x core l else s.writeBack x core p.die l) s
        s.modSail k fun x => x.modPart p.die fun p => { p with lines := p.lines.map fun l => { l with dirty := 0 } }) s
    (s, (s.flights.filter fun a => a.wb && decide (before ≤ a.id)).map Acc.id)

end Sys2Proof.Machine
end

