-- ==== Sys2Proof/Machine/FabricEvents.lean ====
section
/-! DEFINITION. The fabric between dies (spec/14_fabric_engine.md R370 to R382): the arrival of bridge messages, the
messages of replicated sails, timeouts, and the reset of a die. -/
namespace Sys2Proof.Machine

/-! ### Arrival (R370 to R372) -/

/-- Counts a dropped stale packet (R372). It belongs to no job (log entry 26). -/
def State.countStale (s : State) : State := s.partEvent 0 0x54

/-- BRIDGE_FLIT_RECEIVE (R12, R370 to R372): the oldest message of a channel that crosses a bridge, from one die to the next
of its route, arrives there when its flit's CRC holds, and is dropped when it carries an incarnation of its sender other
than the current one. A bad flit is replayed: nothing changes. -/
def execBridgeFlitReceive (src dst chan : Nat) (crcGood : Bool) (s : State) : Out :=
  let next (m : Msg) : Bool := m.chan == chan && m.at_ == src && !m.arrived && nextHop m.at_ m.dst == dst
  match s.fabric.msgs.find? next with
  | none => .next s
  | some m =>
    if !crcGood then .next s
    else
      let stale := m.inc != s.incOf m.src
      let msgs := replaceFirst next (fun m => if stale then [] else [{ m with at_ := dst }]) s.fabric.msgs
      let s' := { s with fabric := { s.fabric with msgs := msgs } }
      .next (if stale then s'.countStale else s')

/-! ### Fetches (R374) -/

/-- The home of a line answers a fetch: the die becomes a sharer and the line is returned on the update channel. -/
def State.answerFetch (s : State) (id line home die : Nat) : State :=
  match s.sail? (.sys id) with
  | none => s
  | some x =>
    let flat := line * x.lineBytes
    let q := s.homeRead { core := ⟨home, 255⟩, sail := id, loc := locOf flat, home := home } flat x.lineBytes
    let s := q.1.modSail (.sys id) fun x =>
      { x with sharers := setSharers line (countOf line x.sharers ||| 2 ^ die) x.sharers }
    s.send 3 home die (.fetchResponse id line q.2) (q.1.lineRef (.sys id) home flat)

/-- A line of a sail, by its number, stands in a panel being swept. -/
def State.lineSwept (s : State) (id die line : Nat) : Bool :=
  (s.sail? (.sys id)).any fun x => s.sweptAt (.sys id) die (line * x.lineBytes)

/-- FETCH (R374, R375): a replica's fetch reaches the home, which answers it, or keeps it while a round is open on the
line. It waits while the line's panel is being swept (R361). -/
def execFetch (src dst : Nat) (s : State) : Out :=
  match s.headMsg 0 src dst with
  | some ⟨_, _, _, _, _, .fetch id line, _⟩ =>
    if s.lineSwept id dst line then .next s else
    let s := s.takeHead 0 src dst
    if s.roundOpen id line then
      .next (s.modSail (.sys id) fun x => { x with rounds := x.rounds.map fun r =>
        if r.line = line then { r with fetches := r.fetches ++ [src] } else r })
    else .next (s.answerFetch id line dst src)
  | _ => .next s

/-- FETCH_RESPONSE (R374): a fetched line is installed in the replica; a full set drops its oldest line, which is
clean. Bytes that a HOLD has hidden there stay hidden. -/
def execFetchResponse (src dst : Nat) (s : State) : Out :=
  match s.headMsg 3 src dst with
  | some ⟨_, _, _, _, _, .fetchResponse id line data, ref⟩ =>
    .next ((s.takeHead 3 src dst).modReplica id dst fun x p =>
      let pl := placeOf x p (line * x.lineBytes)
      let hidden := (p.find? line).bind SailLine.hidden
      let p := match p.find? line, p.victim x pl with
        | none, some v => p.drop v.line
        | _, _ => p
      p.putFirst { entry := pl.1, set := pl.2, line := line, valid := 2 ^ x.lineBytes - 1, data := data, hidden := hidden,
                    ref := ref })
  | _ => .next s

/-! ### Rounds of HOLD (R375) -/

/-- A sail's round is still open at its home. -/
def State.roundLives (s : State) (id round : Nat) : Bool :=
  match s.sail? (.sys id) with
  | some x => x.rounds.any fun r => r.id == round
  | none => false

/-- The replica of a die takes a HOLD's bytes hidden. A die that no longer has the line keeps them in a line without valid
data. -/
def State.installHidden (s : State) (id die line off : Nat) (bytes : List Byte) : State :=
  s.modReplica id die fun x p =>
    let pl := placeOf x p (line * x.lineBytes)
    let l : SailLine := (p.find? line).getD
      { entry := pl.1, set := pl.2, line := line, valid := 0, data := List.replicate x.lineBytes 0 }
    p.putFirst { l with hidden := some (bytes.zipIdx.map fun b => (off + b.2, b.1)) }

/-- HOLD: the replica installs the bytes hidden, holds every load of the line, and acknowledges. The HOLD of a round that
has timed out installs nothing: its INVALIDATE may have come before it (log entry 90). -/
def execHold (src dst : Nat) (s : State) : Out :=
  match s.headMsg 0 src dst with
  | some ⟨_, _, _, _, _, .hold id line round off bytes, _⟩ =>
    let s := s.takeHead 0 src dst
    let s := if s.roundLives id round then s.installHidden id dst line off bytes else s
    .next (s.send 2 dst src (.holdAck id line round))
  | _ => .next s

/-- A round ends: the home writes the bytes, tells the sharers (OPEN, or INVALIDATE when acknowledgements are lost),
acknowledges the store, and answers the fetches that waited (R375, R381). -/
def State.endRound (s : State) (x : Sail) (r : HoldRound) (lost : Bool) : State :=
  let flat := r.line * x.lineBytes + r.off
  let sharers := sharersOf x r.line
  let acc := s.acc? r.acc
  let bad := match acc.bind fun a => a.lanes.find? fun l => l.lane == r.lane with
    | some l => l.poison
    | none => false
  let route : Route := { core := ⟨r.home, 255⟩, sail := x.id, loc := locOf flat, home := r.home }
  let s := match acc with
    | some a => s.commit a route flat r.bytes bad
    | none => s.homeWrite route flat r.bytes bad
  let s := sharers.foldl (fun s d =>
    s.send 3 r.home d (if lost then .invalidate x.id r.line else .openLine x.id r.line r.id r.off r.bytes) (acc.bind Acc.link)) s
  let s := match acc with
    | some a => s.send 3 r.home a.ref.die (.storeAck r.acc r.lane lost x.id r.line r.off [])
    | none => s
  let s := s.modSail (.sys x.id) fun x =>
    { x with rounds := x.rounds.filter fun q => q.id != r.id
             sharers := if lost then dropKey r.line x.sharers else x.sharers }
  r.fetches.foldl (fun s d => s.answerFetch x.id r.line r.home d) s

/-- An acknowledgement of a round is received; the last one commits the store. -/
def State.countAck (s : State) (id round die : Nat) : State :=
  match s.sail? (.sys id) with
  | none => s
  | some x =>
    match x.rounds.find? fun r => r.id == round with
    | none => s
    | some r =>
      let r := { r with waiting := r.waiting.filter fun d => d != die }
      if r.waiting = [] then (s.modAcc r.acc fun a => { a with acker := some die }).endRound x r false
      else s.modSail (.sys id) fun x => { x with rounds := x.rounds.map fun q => if q.id = round then r else q }

/-- HOLD_ACK. -/
def execHoldAck (src dst : Nat) (s : State) : Out :=
  match s.headMsg 2 src dst with
  | some ⟨_, _, _, _, _, .holdAck id _ round, _⟩ => .next ((s.takeHead 2 src dst).countAck id round src)
  | _ => .next s

/-- Bytes put over a line's data, by offset. -/
def overlayBytes (data : List Byte) (bs : List (Nat × Byte)) : List Byte :=
  bs.foldl (fun d b => setAt d b.1 b.2) data

/-- OPEN: the replica serves the new bytes; loads it held go on. A line without valid data goes. -/
def execOpenMsg (src dst : Nat) (s : State) : Out :=
  match s.headMsg 3 src dst with
  | some ⟨_, _, _, _, _, .openLine id line _ off bytes, ref⟩ =>
    .next ((s.takeHead 3 src dst).modReplica id dst fun _ p =>
      { p with lines := p.lines.filterMap fun l =>
          if l.line = line then
            (if l.valid = 0 then none else some { l with data := patch l.data off bytes, hidden := none, ref := ref.orElse fun _ => l.ref })
          else some l })
  | _ => .next s

/-- INVALIDATE (R381): the replica drops the line. -/
def execInvalidate (src dst : Nat) (s : State) : Out :=
  match s.headMsg 3 src dst with
  | some ⟨_, _, _, _, _, .invalidate id line, _⟩ => .next ((s.takeHead 3 src dst).modReplica id dst fun _ p => p.drop line)
  | _ => .next s

/-- EF_UPDATE (R376). -/
def execEfUpdate (src dst : Nat) (s : State) : Out :=
  match s.headMsg 3 src dst with
  | some ⟨_, _, _, _, _, .efUpdate id line off bytes, ref⟩ => .next ((s.takeHead 3 src dst).applyUpdate id dst line off bytes ref)
  | _ => .next s

/-! ### Replica sync (R378) -/

/-- SYNC_REQUEST: the die sends its marker back on the update channel. -/
def execSyncRequest (src dst : Nat) (s : State) : Out :=
  match s.headMsg 0 src dst with
  | some ⟨_, _, _, _, _, .syncRequest acc, _⟩ => .next ((s.takeHead 0 src dst).send 3 dst src (.syncMarker acc))
  | _ => .next s

/-- SYNC_MARKER: every message of that die before it has been applied. -/
def execSyncMarker (src dst : Nat) (s : State) : Out :=
  match s.headMsg 3 src dst with
  | some ⟨_, _, _, _, _, .syncMarker acc, _⟩ =>
    .next ((s.takeHead 3 src dst).modAcc acc fun a => { a with markers := a.markers.filter fun d => d != src })
  | _ => .next s

/-! ### Timeouts (R381, R382) -/

/-- HOLD_TIMEOUT (R381): a round that has waited for the fabric timeout commits, its sharers are invalidated, and the
acknowledgement carries the error flag. -/
def execHoldTimeout (round : Nat) (s : State) : Out :=
  match s.sails.find? fun x => x.rounds.any fun r => r.id == round with
  | none => .next s
  | some x =>
    match x.rounds.find? fun r => r.id == round with
    | none => .next s
    | some r => if s.since r.start < 1000 * s.fabricUs then .next s else .next (s.endRound x r true)

/-- A lane's request crosses a bridge or a device link and has not been answered. -/
def Acc.crosses (a : Acc) (l : AccLane) : Bool :=
  (l.stage == .sent || l.stage == .round || l.stage == .applied || l.stage == .lost) &&
    (if a.isLocal then (flatTag l.pa - 5000) / 160 != a.ref.die else l.loc == 3 || (l.loc != 2 && l.home != a.ref.die))

/-- Every lane's request has left: nothing older holds it back, and a release has written out what it covers. -/
def State.requestLeft (s : State) (a : Acc) : Bool :=
  a.allSent && s.clear a && (!a.rel || (s.waitsFor a == [] && s.flushDone a))

/-- FABRIC_TIMEOUT (R382): the time counts from when the request left. A request without answer is sent again, a sync
request to every die whose marker is missing; an atomic that its place has applied meets the stored result there (R253).
When eight resends have brought no answer, the job ends with LINK_DOWN. -/
def execFabricTimeout (id : Nat) (s : State) : Out :=
  match s.acc? id with
  | none => .next s
  | some a =>
    let waits := a.markers != [] || a.lanes.any a.crosses
    if a.markers = [] ∧ !s.requestLeft a then .next (s.modAcc id fun a => { a with born := s.now, resends := 0 })
    else if !waits || s.since a.born < 1000 * s.fabricUs * (a.resends + 1) then .next s
    else if 8 ≤ a.resends then .next (s.jobFault a.asid 0x52)
    else
      let s := a.markers.foldl (fun s d => s.send 0 a.ref.die d (.syncRequest id)) s
      let s := s.modAcc id fun a => { a with resends := a.resends + 1 }
      .next (s.sendLanes a (a.lanes.filter fun l => l.stage == .applied || l.stage == .lost))

/-! ### Die reset (R373) -/

/-- Some leaf below a table satisfies a test. -/
def State.anyLeafIn (s : State) (test : Nat → Bool) : Nat → Nat → Nat → Bool
  | 0, _, _ => false
  | fuel + 1, l, table =>
    (List.range (levelEntries l)).any fun k =>
      let e := s.natAt (table + 8 * k) 8
      entryV e && (if entryLeaf e then !s.badLeaf l e && test e
        else l != 3 && !s.badTable (8 * levelEntries (l + 1)) e && s.anyLeafIn test fuel (l + 1) (tableFlat e))

/-- Some page of an address space satisfies a test. -/
def State.anyLeaf (s : State) (asid : Nat) (test : Nat → Bool) : Bool :=
  match s.root asid with
  | some (some t) => s.anyLeafIn test 4 0 t
  | _ => false

/-- A page lies on a die: its memory, or the home of its lines. -/
def State.pageOn (s : State) (d e : Nat) : Bool :=
  (entryLoc e == 0 && entryDie e == d) ||
    (match s.sail? (.sys (leafSail e)) with
      | some x => x.homeOf (entryLoc e) (entryDie e) == d && (x.part? d).isSome
      | none => false)

/-- A job has state on a die: a team, a cluster sail's panels, or a page. -/
def State.jobOn (s : State) (d asid : Nat) : Bool :=
  (s.cores.any fun k => k.at_.die == d && (match k.team with
    | some t => t.asid == asid
    | none => false))
  || (s.sails.any fun x => (match x.cluster.bind s.cluster? with
    | some k => (s.launch? k.launch).any fun l => l.asid == asid
    | none => false) && x.parts.any fun p => p.held.any fun q => q.1 == d)
  || s.anyLeaf asid (s.pageOn d)

/-- Where a loss record stands in the hub's SRAM (R473; log entry 27). -/
def lossAt (i : Nat) : Nat := flatHub (64 * (i % 256))

/-- Writes a TYPE 5 loss record of a die, for a page of a trace buffer, and raises TRACE_LOSS (R473). -/
def State.lossRecord (s : State) (d part asid va : Nat) : State :=
  let wr := s.trace.lossWr
  let bytes := [5, 0] ++ toBytes 1 d ++ [255, 63, 0] ++ toBytes 2 asid ++ toBytes 8 s.now ++ toBytes 8 0
    ++ toBytes 8 (s.die d).seq ++ toBytes 8 asid ++ toBytes 8 va ++ List.replicate 16 0
  let s := s.writeBytes (lossAt wr.toNat) bytes
  let s := s.modDie d fun x => { x with seq := (x.seq + 1) % 2 ^ 64 }
  let s := { s with trace := { s.trace with
    lossWr := wr + 1, lossOvf := s.trace.lossOvf || decide (256 ≤ (wr - s.trace.lossRd).toNat) } }
  s.partEvent part 0x71

/-- The pages of open trace buffers that a die's reset takes. -/
def State.lossOn (s : State) (d asid : Nat) : State :=
  match s.walker.launches.find? fun l => l.asid == asid, s.traceBuf asid with
  | some l, some (va, size, _) =>
    if s.cores.any fun k => match k.team with
        | some t => t.asid == asid && t.capture.isSome
        | none => false then
      (List.range (size / 65536)).foldl (fun s k =>
        match (s.walk 7 asid (va + 65536 * k)).1 with
        | .leaf f _ => if s.pageOn d f.entry then s.lossRecord d (s.partOf l.key) asid (va + 65536 * k) else s
        | _ => s) s
    else s
  | _, _ => s

/-- The address spaces of the launches held. -/
def State.jobs (s : State) : List Nat := (s.walker.launches.map Launch.asid).eraseDups

/-- Sail 0's part on a die as bring-up cuts it (R352). -/
def sailZeroPart (d : Nat) : SailPart := { die := d, panels := (List.range 1024).map fun k => (d, 5120 + k) }

/-- The panels that sail 0 is cut from again: a failed panel is never given out (R350). -/
def State.sailZeroCut (s : State) (d : Nat) : SailPart :=
  { sailZeroPart d with panels := (sailZeroPart d).panels.filter fun q => !(s.die d).failed.contains q.2 }

/-- Die `d` leaves a sail: its part, the sharer and round entries that name it, and the replica lines that a round of its
homes had hidden. Sail 0 is cut again, as `cut`. -/
def Sail.without (x : Sail) (d : Nat) (cut : SailPart) : Sail :=
  { x with
    parts :=
      let kept := (x.parts.filter fun p => p.die != d).map fun p =>
        { p with lines := p.lines.filter fun l => l.hidden.isNone || x.lineHome l.line != d }
      if x.id = 0 ∧ x.cluster.isNone then kept ++ [cut] else kept
    sharers := x.sharers.filterMap fun m =>
      let n := m.2 - (m.2 &&& 2 ^ d)
      if n = 0 ∨ x.lineHome m.1 = d then none else some (m.1, n)
    rounds := (x.rounds.filter fun r => r.home != d).map fun r =>
      { r with fetches := r.fetches.filter fun e => e != d } }

/-- Every round that waits for a die counts its acknowledgement. -/
def State.ackFor (s : State) (d : Nat) : State :=
  s.sails.foldl (fun s x =>
    if x.cluster.isSome then s
    else (x.rounds.filter fun r => r.waiting.contains d).foldl (fun s r => s.countAck x.id r.id d) s) s

/-- A flat address lies in the SRAM of a die's cores. -/
def inDieSram (d a : Nat) : Bool :=
  let t := flatTag a
  (5000 + 160 * d ≤ t && t < 5160 + 160 * d) || (6000 + 160 * d ≤ t && t < 6160 + 160 * d)

/-- What a die reset clears: cores, SRAM, caches, knitter, results and messages of the die. -/
def State.clearDie (s : State) (d : Nat) : State :=
  let s := { s with
    cores := s.cores.filter fun k => k.at_.die != d
    mem := s.mem.filter fun c => !inDieSram d c.1
    poison := s.poison.filter fun a => !inDieSram d a
    flights := s.flights.filter fun a => !(a.wb && (a.ref.die == d || a.lanes.any fun l => l.home == d))
    onward := s.onward.filter fun o => o.core.die != d
    results := s.results.filter fun e => e.dev != s.fabric.devid.toNat || e.ref.die != d
    sailRegs := s.noteSails.sailRegs
    sails := (s.sails.map fun (x : Sail) => x.without d (s.sailZeroCut d)).filter fun (x : Sail) => x.parts != []
    fabric := { s.fabric with msgs := s.fabric.msgs.filter fun m => m.dst != d } }
  s.modDie d fun x => { x with walker := [], store := [], native := [], jobs := [], struck := [] }

/-- FB_DIERESET (R373, Table 14.4): ignored without GO, for a die above 5, and while BUSY is set. The steps of R373 are
taken at once, and the batches of the jobs that end are dropped (R348); BUSY stays set until DIE_RESET_END. -/
def execFbDiereset (w : BitVec 32) (s : State) : Out :=
  let d := w.toNat % 8
  if !s.board.ready || !w.getLsbD 31 || 5 < d || s.fabric.resetBusy then .next s
  else
    let hit := s.jobs.filter fun a => s.jobOn d a
    let s := hit.foldl (fun s a => s.lossOn d a) s
    let s := s.modDie d fun x => { x with inc := x.inc + 1 }
    let s := hit.foldl (fun s a => (s.jobFault a 0x53).finishJob a 0x53) s
    let batches := s.pages.batches.filter fun b => !b.faults.all fun f => hit.contains f.asid
    let s := { s with pages := { s.pages with batches := batches } }
    let s := (s.clearDie d).ackFor d
    .next { s with fabric := { s.fabric with resetBusy := true, resetDie := BitVec.ofNat 3 d } }

/-- DIE_RESET_END: the reset is complete. -/
def execDieResetEnd (s : State) : Out := .next { s with fabric := { s.fabric with resetBusy := false } }

/-! ### Cluster barriers (R118) -/

/-- The die whose message for a cluster's barrier stands first at a die, and the generation it completes. -/
def State.farArrival (s : State) (cluster k toDie : Nat) : Option (Nat × BitVec 32) :=
  (List.range 6).findSome? fun src => (s.headMsg 2 src toDie).bind fun m =>
    match m.body with
    | .barrier c b gen _ => if c = cluster ∧ b = k then some (src, gen) else none
    | _ => none

/-- CBAR_FAR_MESSAGE: the completion message of the other half of a straddling cluster's barrier arrives. -/
def execCbarFarMessage (cluster k toDie : Nat) (s : State) : Out :=
  match s.farArrival cluster k toDie with
  | none => .next s
  | some (src, gen) =>
    .next (((s.takeHead 2 src toDie).modCluster cluster fun q => { q with bars := modAt q.bars k fun x =>
      if x.gen = gen then { x with heard := x.heard ++ [toDie] } else x }).cbarCheck cluster k)

end Sys2Proof.Machine
end

