-- ==== Sys2Proof/Machine/Admission.lean ====
section
/-! DEFINITION. Launch records (spec/03_launch_walker.md R78, R79), the pool split (R82, R83) and admission (R80). -/
namespace Sys2Proof.Machine

/-- The fields of a launch record (Table 3.2). -/
def launchRecOf (bs : List Byte) : LaunchRec :=
  let f := fieldAt bs
  { id := f 0 4, flags := f 6 2, hash := f 8 8, code := f 16 8, const := f 24 8, completion := f 32 8
    ctlEntry := f 40 2, grpEntry := f 42 2, ext := (List.range 6).map fun k => f (44 + 4 * k) 4
    order := (List.range 6).map fun k => f 68 3 / 16 ^ k % 16, depth := f 71 1, groups := f 72 1
    priority := f 73 1 % 8, cls := f 73 1 / 16 % 4, budget := f 74 2, tokens := [f 76 1, f 77 1, f 78 1]
    phases := f 79 1, localBytes := f 80 4, l1Bytes := f 84 4, w := f 88 1, h := f 89 1, dieMask := f 90 1
    ring := f 91 1, plan := (List.range 8).map fun k => (f (92 + 4 * k) 2, f (94 + 4 * k) 2)
    wiring := (List.range 8).map fun k =>
      let q := f (124 + 2 * k) 2
      (q % 4, q / 4 % 64, q / 256 % 64)
    sailId := f 140 1, sailGeom := f 141 1, sailPanels := f 142 2, waitCc := f 148 2, signalCc := f 150 2
    ringBase := f 152 8, saveBase := f 160 8, saveSlots := f 168 2 }

/-- The flags of Table 3.3. -/
def LaunchRec.straddle (r : LaunchRec) : Bool := r.flags % 2 == 1
def LaunchRec.coresident (r : LaunchRec) : Bool := r.flags / 2 % 2 == 1
def LaunchRec.exclusive (r : LaunchRec) : Bool := r.flags / 4 % 2 == 1
def LaunchRec.depRun (r : LaunchRec) : Bool := r.flags / 8 % 2 == 1
def LaunchRec.hasSail (r : LaunchRec) : Bool := r.flags / 16 % 2 == 1

/-- Iterations of the nest (R80). -/
def LaunchRec.iterations (r : LaunchRec) : Nat := (r.ext.take r.depth).foldl (· * ·) 1
/-- Cores of a cluster. -/
def LaunchRec.size (r : LaunchRec) : Nat := r.w * r.h
/-- Clusters of the grid. -/
def LaunchRec.clusters (r : LaunchRec) : Nat := r.iterations / Nat.max 1 r.size
/-- The die mask in force: 0 means all six. -/
def LaunchRec.mask (r : LaunchRec) : Nat := if r.dieMask = 0 then 0x3F else r.dieMask
/-- The dies of the mask, ascending. -/
def LaunchRec.dies (r : LaunchRec) : List Nat := (List.range 6).filter fun d => r.mask / 2 ^ d % 2 == 1

/-! ### The pool split (R83) -/

/-- Rounds up to 4 KiB. -/
def ceil4k (n : Nat) : Nat := (n + 4095) / 4096 * 4096

def regBytes (g b : Nat) : Nat := ceil4k ((32 * g + 1) * b * 4)
def spillBytes (g : Nat) : Nat := ceil4k ((32 * g + 1) * 256)

/-- The pool less its control area (R82). -/
def poolBytes : Nat := 2 * 2 ^ 20 - 65536

/-- A budget fits (R80, code 0x09). -/
def LaunchRec.fits (r : LaunchRec) (b : Nat) : Bool :=
  decide (regBytes r.groups b + spillBytes r.groups + r.localBytes + r.l1Bytes ≤ poolBytes)

/-- The budget in use: under auto the largest that fits; none where none does. -/
def LaunchRec.budgetInUse (r : LaunchRec) : Option Nat :=
  if r.budget = 0 then (List.range 248).reverse.findSome? fun k => if r.fits (k + 8) then some (k + 8) else none
  else some r.budget

/-- The split of a core at a placement: phase 0's. -/
def LaunchRec.split (r : LaunchRec) (b : Nat) : Split :=
  { regBytes := regBytes r.groups b, spill := spillBytes r.groups, locBytes := r.localBytes, l1Bytes := r.l1Bytes }

/-! ### Admission (R80, Table 3.4) -/

/-- Bytes, bits and nibbles that must be zero: code 0x01. -/
def reservedZero (bs : List Byte) (r : LaunchRec) : Bool :=
  fieldAt bs 4 2 == 1 && r.flags / 32 == 0
    && fieldAt bs 73 1 / 8 % 2 == 0 && fieldAt bs 73 1 / 64 == 0
    && ((List.range 8).all fun k => fieldAt bs (124 + 2 * k) 2 / 16384 == 0)
    && fieldAt bs 141 1 / 128 == 0 && fieldAt bs 144 4 == 0 && ((bs.drop 170).take 86).all (· == 0)
    && ((r.ext.drop r.depth).all (· == 0)) && ((r.order.drop r.depth).all (· == 0))

/-- A stream field of the wiring: the control stream or a group of the team. -/
def LaunchRec.isStream (r : LaunchRec) (x : Nat) : Bool := x == 32 || decide (x < r.groups)

/-- A queue's wiring is in order: code 0x0A. -/
def LaunchRec.wired (r : LaunchRec) (q : Nat × Nat × Nat) : Bool :=
  if q.1 = 0 then q.2.1 == 0 && q.2.2 == 0
  else r.isStream q.2.1 && r.isStream q.2.2 && q.2.1 != q.2.2

/-- The phases agree with the fields and with one another: code 0x0C. -/
def LaunchRec.planOk (r : LaunchRec) : Bool :=
  if r.phases = 0 then true
  else
    r.exclusive && decide (r.phases ≤ 8)
      && (r.plan.head?.map fun p => p.1 * 4096 == r.localBytes && p.2 * 4096 == r.l1Bytes).getD false
      && (r.plan.take r.phases).all fun p =>
        (p.1 + p.2) * 4096 == r.localBytes + r.l1Bytes && decide (32768 ≤ p.2 * 4096)

/-- Clusters of a shape that one empty die holds: code 0x0E. -/
def tilingOf (w h : Nat) : Nat :=
  10 / Nat.max 1 h * (16 / Nat.max 1 w) - (if 10 % Nat.max 1 h = 0 ∧ 16 % Nat.max 1 w = 0 then 1 else 0)

/-- A cluster rectangle can be placed at all: code 0x13. -/
def LaunchRec.placeable (r : LaunchRec) : Bool :=
  decide (r.h ≤ 10) || (decide (r.h ≤ 12) && r.straddle &&
    [(0, 3), (1, 4), (2, 5)].any fun p => r.mask / 2 ^ p.1 % 2 == 1 && r.mask / 2 ^ p.2 % 2 == 1)

/-- The checks in order, with their codes. -/
def admissionChecks (bs : List Byte) (r : LaunchRec) : List (Nat × Bool) :=
  let counter (i : Nat) : Bool := decide (i < 4096) || i == 0xFFFF
  let aligned (a : Nat) : Bool := a != 0 && a % 65536 == 0
  [(0x01, reservedZero bs r),
   (0x02, decide (1 ≤ r.depth) && decide (r.depth ≤ 6) && (List.range r.depth).all fun l => (r.order.take r.depth).contains l),
   (0x03, (r.ext.take r.depth).all (· != 0)),
   (0x04, decide (r.iterations < 2 ^ 32)),
   (0x05, r.w != 0 && r.h != 0 && decide (r.size ≤ 12) && r.iterations % Nat.max 1 r.size == 0),
   (0x06, decide (r.groups ≤ 32) && ((r.grpEntry != 0xFFFF) == decide (0 < r.groups)) && r.ctlEntry != 0xFFFF),
   (0x07, if r.budget = 0 then r.budgetInUse.isSome else decide (8 ≤ r.budget) && decide (r.budget ≤ 255)),
   (0x08, r.localBytes % 4096 == 0 && r.l1Bytes % 4096 == 0 && decide (32768 ≤ r.l1Bytes)),
   (0x09, r.fits (r.budgetInUse.getD 8)),
   (0x0A, r.wiring.all r.wired),
   (0x0B, r.tokens.all fun t => decide (t ≤ 8)),
   (0x0C, r.planOk),
   (0x0D, decide (r.dieMask < 64)),
   (0x0E, !r.coresident || decide (r.clusters ≤ tilingOf r.w r.h * r.dies.length)),
   (0x0F, !r.hasSail || (decide (r.sailGeom / 4 % 8 ≤ 4) && r.sailId != 0 && decide (1 ≤ r.sailPanels)
      && decide (r.sailPanels ≤ 32 * r.size))),
   (0x10, counter r.waitCc && counter r.signalCc),
   (0x11, aligned r.ringBase && decide (r.ring ≤ 16) && r.completion % 64 == 0),
   (0x12, r.cls == 0 || (decide (r.cls ≤ 2) && aligned r.saveBase && r.saveSlots != 0)),
   (0x13, r.placeable)]

/-- The lowest code of a failing check; none for a record that is admitted. -/
def rejection (bs : List Byte) (r : LaunchRec) : Option Nat :=
  ((admissionChecks bs r).find? fun c => !c.2).map Prod.fst

/-! ### Enumeration (R86) -/

/-- Indices of an iteration: the innermost position first. -/
def iterIndices (r : LaunchRec) (n : Nat) : List (BitVec 32) :=
  let go (acc : Nat × List (BitVec 32)) (lvl : Nat) : Nat × List (BitVec 32) :=
    let e := Nat.max 1 ((r.ext[lvl]?).getD 1)
    (acc.1 / e, setAt acc.2 lvl (BitVec.ofNat 32 (acc.1 % e)))
  ((r.order.take r.depth).reverse.foldl go (n, List.replicate 6 0)).2

end Sys2Proof.Machine
end

