-- ==== Sys2Proof/Machine/TransStore.lean ====
section
/-! DEFINITION. The translation store and the native caches (spec/16_knitter.md R417 to R420, R441, R442). -/
namespace Sys2Proof.Machine

/-- The key of a launch's entry on a die (R417). -/
def State.transKey (s : State) (l : Launch) (die entry : Nat) : TransKey :=
  { hash := l.record.hash, entry := entry, ident := (s.die die).ident, budget := l.budget }

/-- The keys of a team's entries. -/
def State.keysOf (s : State) (die : Nat) (t : Team) : List TransKey :=
  match s.launch? t.launch with
  | some l => s.transKey l die l.record.ctlEntry ::
      (if t.groups = [] then [] else [s.transKey l die l.record.grpEntry])
  | none => []

/-- A resident team of the die runs a translation or waits for it (R419). -/
def State.inUse (s : State) (die : Nat) (k : TransKey) : Bool :=
  s.cores.any fun c => c.at_.die == die && (match c.team with
    | some t => (s.keysOf die t).contains k
    | none => false)

/-- The row of a core. -/
def knitterRow (core : Nat) : Nat := core / 16

/-- Looks for a translation a stream needs (R418): in the die's store, where it becomes the most recently used;
otherwise the row's knitter is asked, unless the key is being translated on the die. -/
def State.wantUnit (s : State) (l : Launch) (c : CoreRef) (entry : Nat) : State × Option Translation :=
  let k := s.transKey l c.die entry
  match (s.die c.die).store.find? fun t => t.key == k with
  | some t =>
    let t := { t with part := s.partOf l.key }
    (s.modDie c.die fun d => { d with store := t :: d.store.filter fun u => u.key != k }, some t)
  | none =>
    if (s.die c.die).jobs.any fun j => j.2.key == k then (s, none)
    else
      let job : KnitJob := { key := k, asid := l.asid, code := l.record.code, part := s.partOf l.key }
      (s.modDie c.die fun d => { d with jobs := d.jobs ++ [(knitterRow c.core, job)] }, none)

/-- Bytes of the store in use. -/
def Die.storeBytes (d : Die) : Nat := d.store.foldl (fun n t => n + t.size) 0

/-! ### The image (R437 to R439) -/

/-- A value record (Table 16.4). -/
def RavelVal.bytes (v : RavelVal) : List Byte :=
  toBytes 4 (v.num + 2 ^ 20 * v.frame + 2 ^ 24 * v.ty) ++ toBytes 1 v.loc ++ toBytes 1 v.place ++ toBytes 1 v.k ++ [0]
    ++ toBytes 8 v.const

/-- A ravel entry: its header (Table 16.3), its frame records and its value records (R438, R439). -/
def RavelEntry.bytes (e : RavelEntry) : List Byte :=
  toBytes 4 e.off ++ toBytes 2 e.func ++ toBytes 1 e.pkind ++ toBytes 1 e.succ ++ toBytes 2 e.vals.length
    ++ toBytes 1 e.frames.length ++ toBytes 1 (if e.gen then 1 else 0) ++ List.replicate 4 0
    ++ (e.frames.map fun f => toBytes 4 f.1 ++ toBytes 2 f.2 ++ [0, 0]).flatten ++ (e.vals.map RavelVal.bytes).flatten

/-- The ravel index: the byte offset of each entry in the image (log entry 85), the first standing at `a`. -/
def ravelIndex : Nat → List RavelEntry → List Byte
  | _, [] => []
  | a, e :: es => toBytes 4 a ++ ravelIndex (a + e.bytes.length) es

/-- The header of an image (Table 16.2). -/
def Translation.header (t : Translation) : List Byte :=
  let attrs := t.attrs.take 31
  toBytes 8 t.key.hash ++ toBytes 2 t.key.entry ++ toBytes 1 t.key.ident ++ toBytes 1 t.key.budget
    ++ toBytes 4 t.bundles.length ++ toBytes 4 t.ravels.length ++ toBytes 4 t.size ++ toBytes 1 attrs.length
    ++ toBytes 1 t.spills ++ toBytes 1 (if t.ravels.any RavelEntry.gen then 1 else 0) ++ List.replicate 5 0
    ++ (attrs.map fun (a : BitVec 16) => toBytes 2 a.toNat).flatten ++ List.replicate (64 - 2 * attrs.length) 0

/-- The image in which a die's store holds a translation (R437): the header, the bundles, the ravel index and the ravel
entries. -/
def Translation.image (t : Translation) : List Byte :=
  t.header ++ t.bundles.flatten ++ ravelIndex (96 + 40 * t.bundles.length + 4 * t.ravels.length) t.ravels
    ++ (t.ravels.map RavelEntry.bytes).flatten

/-! ### Events (R442) -/

/-- The payload of Table 16.6. -/
def transPayload (t : Translation) (cause cycles : Nat) : List Byte :=
  toBytes 8 t.key.hash ++ toBytes 2 t.key.entry ++ toBytes 1 t.key.ident ++ toBytes 1 t.key.budget
    ++ toBytes 4 t.bundles.length ++ toBytes 1 t.spills ++ toBytes 1 cause ++ [0, 0] ++ toBytes 4 cycles

/-- Counts a translation event in a partition; the open windows there record it with its payload (R464, R442). -/
def State.transEvent (s : State) (part die code : Nat) (t : Translation) (cause cycles : Nat) : State :=
  let s := s.countEvent part code
  s.cores.foldl (fun s k =>
    match k.team with
    | some u =>
      if u.capture.isSome && s.partOf u.launch == part then
        s.traceWrite { type := 0, code := code, core := ⟨die, 255⟩, asid := u.asid, payload := transPayload t cause cycles }
      else s
    | none => s) s

/-- Evicts a translation from a die's store, with TE_EVICT. -/
def State.evict (s : State) (die : Nat) (t : Translation) : State :=
  (s.modDie die fun d =>
    { d with store := d.store.filter fun u => u.key != t.key, native := d.native.filter fun n => n.2.1 != t.key }).transEvent
    t.part die 0x03 t 0 0

/-- Evicts the least recently used translations not in use until some bytes fit 1 GiB (R419). -/
def State.makeRoom (s : State) (die n : Nat) : Nat → State
  | 0 => s
  | fuel + 1 =>
    if (s.die die).storeBytes + n ≤ 2 ^ 30 then s
    else
      match (s.die die).store.reverse.find? fun t => !s.inUse die t.key with
      | some t => (s.evict die t).makeRoom die n fuel
      | none => s

/-! ### The native cache (R418) -/

/-- The set of a line. -/
def nativeSet (k : TransKey) (j : Nat) : Nat := (k.hash % 2 ^ 16 + k.entry + j) % 200

/-- A row fetches a line of a translation: it becomes the most recently used; the oldest of 8 leaves its set. A
translation of which the row held no line is counted (Table 18.6). -/
def State.touchLine (s : State) (c : CoreRef) (k : TransKey) (j : Nat) : State :=
  let d := s.die c.die
  let row := knitterRow c.core
  let s := if d.native.any fun n => n.1 == row && n.2.1 == k then s else s.teamTally c 54 1
  let rest := d.native.filter fun n => n != (row, k, j)
  let mine := rest.filter fun n => n.1 == row && nativeSet n.2.1 n.2.2 == nativeSet k j
  let rest := match mine[7]? with
    | some v => rest.filter fun n => n != v
    | none => rest
  s.modDie c.die fun d => { d with native := (row, k, j) :: rest }

/-! ### TE_CMD (R441) -/

/-- A flush: the matching translations not in use are evicted on the dies of the mask, each with TE_EVICT. -/
def State.flushStore (s : State) (w : BitVec 32) (test : Translation → Bool) : State :=
  let dies := (List.range 6).filter fun d => w.getLsbD (8 + d)
  let gone := (dies.map fun d => ((s.die d).store.filter fun t => test t && !s.inUse d t.key).map fun t => (d, t)).flatten
  let s := gone.foldl (fun s g => s.evict g.1 g.2) s
  { s with knit := { s.knit with evicted := BitVec.ofNat 16 (Nat.min gone.length 65535) } }

/-- TE_CMD, OP 1: the translations of TE_HASH. A command runs at once, so that BUSY always reads 0. -/
def execTeCmdEvictHash (w : BitVec 32) (s : State) : Out :=
  if !s.board.ready || !w.getLsbD 31 || w.toNat % 4 != 1 then .next s
  else .next (s.flushStore w fun t => t.key.hash == s.knit.hash.toNat)

/-- TE_CMD, OP 2: every translation. -/
def execTeCmdEvictAll (w : BitVec 32) (s : State) : Out :=
  if !s.board.ready || !w.getLsbD 31 || w.toNat % 4 != 2 then .next s else .next (s.flushStore w fun _ => true)

end Sys2Proof.Machine
end

