-- ==== Sys2Proof/Machine/KnitVerify.lean ====
section
/-! DEFINITION. The first stage of the knitter (spec/16_knitter.md R421; spec/02_delaro_form.md R40 to R67): the module's
tables, reading code bytes, and verification with the codes of Table 2.3. -/
namespace Sys2Proof.Machine

/-! ### The module file (R64 to R67) -/

/-- A function-table entry (Table 2.11) with the types of its signature (R487). -/
structure FnEntry where
  off : Nat
  size : Nat
  nvals : Nat
  nblocks : Nat
  nparams : Nat
  nres : Nat
  flags : Nat
  params : List Nat
  results : List Nat
  deriving DecidableEq, Repr

/-- The entry marks the control stream, the groups, or neither. -/
def FnEntry.isControl (e : FnEntry) : Bool := e.flags % 2 == 1
def FnEntry.isGroup (e : FnEntry) : Bool := e.flags / 2 % 2 == 1
def FnEntry.isEntry (e : FnEntry) : Bool := e.isControl || e.isGroup

/-- The module whose hash bytes hold a hash, which the knitter does not check (R66). -/
def State.moduleOf (s : State) (hash : Nat) : Option (List Byte) := s.modules.find? fun f => fieldAt f 8 8 == hash

/-- The areas of a module file (Table 2.10), offset and size, its header first. -/
def moduleAreas (f : List Byte) : List (Nat × Nat) :=
  [(0, 80), (fieldAt f 20 4, 32 * fieldAt f 16 4), (fieldAt f 24 4, fieldAt f 28 4), (fieldAt f 32 4, fieldAt f 36 4),
   (fieldAt f 40 4, fieldAt f 44 4), (fieldAt f 48 4, 8 * fieldAt f 52 4), (fieldAt f 56 4, 256 * fieldAt f 60 2),
   (fieldAt f 64 4, fieldAt f 68 4)]

/-- No area of a list overlaps a later one. -/
def disjointAreas : List (Nat × Nat) → Bool
  | [] => true
  | a :: rest =>
    (rest.all fun b => a.2 == 0 || b.2 == 0 || decide (a.1 + a.2 ≤ b.1) || decide (b.1 + b.2 ≤ a.1)) && disjointAreas rest

/-- The header is valid (R64). -/
def headerOk (f : List Byte) : Bool :=
  decide (80 ≤ f.length) && f.take 4 == [0x44, 0x4C, 0x4D, 0x31] && fieldAt f 4 2 == 1 && fieldAt f 6 2 == 0
    && decide (1 ≤ fieldAt f 16 4) && decide (fieldAt f 16 4 ≤ 65535) && fieldAt f 62 2 == 0 && fieldAt f 72 8 == 0
    && ((moduleAreas f).all fun a => a.1 % 64 == 0 && decide (a.1 + a.2 ≤ f.length)) && disjointAreas (moduleAreas f)

/-- Function `k`'s entry. -/
def fnEntry (f : List Byte) (k : Nat) : FnEntry :=
  let b := fieldAt f 20 4 + 32 * k
  let g (o n : Nat) : Nat := fieldAt f (b + o) n
  let types (o n : Nat) : List Nat := ((f.drop (fieldAt f 64 4 + g 20 4 + o)).take n).map BitVec.toNat
  { off := g 0 4, size := g 4 4, nvals := g 8 4, nblocks := g 12 4, nparams := g 16 1, nres := g 17 1, flags := g 18 1
    params := types 0 (g 16 1), results := types (g 16 1) (g 17 1) }

def fnEntries (f : List Byte) : List FnEntry := (List.range (fieldAt f 16 4)).map (fnEntry f)

/-- The codes of function `k`'s entry: 0x01 (R65), 0x04 for a type code of its signature, 0x15 and 0x17, which count as
failures of the table: log entry 46 (DEDUCED). -/
def entryCodes (f : List Byte) (k : Nat) : List Nat :=
  let e := fnEntry f k
  let b := fieldAt f 20 4 + 32 * k
  let names := fieldAt f 68 4
  (if e.off + e.size ≤ fieldAt f 28 4 ∧ e.flags < 4 ∧ fieldAt f (b + 19) 1 = 0 ∧ fieldAt f (b + 28) 4 = 0
      ∧ fieldAt f (b + 20) 4 + e.nparams + e.nres ≤ names ∧ fieldAt f (b + 24) 4 ≤ names then [] else [0x01])
  ++ (if (e.params ++ e.results).all fun t => tysAll.contains t then [] else [0x04])
  ++ (if e.isEntry ∧ (e.nparams ≠ 0 ∨ e.nres ≠ 0) then [0x15] else [])
  ++ (if e.nparams ≤ 16 ∧ e.nres ≤ 8 ∧ e.nvals ≤ 1048576 ∧ e.nblocks ≤ 65536 then [] else [0x17])

/-- A relocation entry is valid (R67): an aligned 64-bit site and a target, each inside its area. -/
def relocOk (f : List Byte) (k : Nat) : Bool :=
  let b := fieldAt f 48 4 + 8 * k
  let area (w : Nat) : Nat := if w / 2 ^ 31 = 0 then fieldAt f 36 4 else fieldAt f 44 4
  let site := fieldAt f b 4
  let target := fieldAt f (b + 4) 4
  site % 8 == 0 && decide (site % 2 ^ 31 + 8 ≤ area site) && decide (target % 2 ^ 31 < area target)

/-- The driver hands a module file over (R67): one with an invalid relocation entry it refuses itself, with code 0x1B. -/
def relocsOk (f : List Byte) : Bool := !headerOk f || (List.range (fieldAt f 52 4)).all (relocOk f)

/-- The codes of the header and the function table, and of the entry that a launch names. -/
def tableCodes (f : List Byte) (entry : Nat) : List Nat :=
  if !headerOk f then [0x01]
  else
    ((List.range (fieldAt f 16 4)).map (entryCodes f)).flatten
    ++ (if fieldAt f 16 4 ≤ entry ∨ !(fnEntry f entry).isEntry then [0x02] else [])

/-! ### Reading code (R55) -/

/-- Why a code byte cannot be read: its page is missing, or the cause is one of FETCH_FAULT's. -/
inductive ReadFail where
  | missing | denied
  deriving DecidableEq, Repr

/-- The longest readable start of `n` code bytes at an address, and why the next cannot be read. The knitter reads
through the page engine, with Delaro-execute permission, at the page's home. -/
def State.codeBytes (s : State) (die asid : Nat) (denied : Option Nat) : Nat → Nat → Nat → List Byte × Option ReadFail
  | 0, _, _ => ([], none)
  | fuel + 1, va, n =>
    if n = 0 then ([], none)
    else
      match (s.walk die asid va).1 with
      | .missing =>
        ([], some (if s.pages.en && denied != some (va % 2 ^ 56 / 65536 * 65536) then .missing else .denied))
      | .malformed | .refused => ([], some .denied)
      | .leaf f a =>
        match (s.atsLeaf f a va).1 with
        | .leaf f _ =>
          if !leafEx f.entry || va / 2 ^ 56 != 0 then ([], some .denied)
          else
            let k := Nat.min n (64 - va % 64)
            let p := f.flat va
            let bs := (s.homeRead (s.routeOf ⟨die, 0⟩ f.entry) p k).2
            match (List.range k).find? fun j => s.poisoned (p + j) with
            | some j => (bs.take j, some .denied)
            | none =>
              let r := s.codeBytes die asid denied fuel (va + k) (n - k)
              (bs ++ r.1, r.2)
        | _ => ([], some .denied)

/-! ### Functions as read -/

/-- An instruction of a function: its offset and bytes, what it decodes to, the number of its first result, the types of
its results, and the codes its bytes give by themselves. -/
structure VItem where
  off : Nat
  bytes : List Byte
  opc : Nat
  ins : Ins
  first : Nat
  res : List Nat
  codes : List Nat
  deriving DecidableEq, Repr

/-- A block: the number of its first argument, its arguments' types, its instructions. -/
structure VBlock where
  argBase : Nat
  args : List Nat
  items : List VItem
  deriving DecidableEq, Repr

/-- A function as read and verified. -/
structure VFun where
  idx : Nat
  entry : FnEntry
  blocks : List VBlock
  /-- Functions it calls, in order of its call sites. -/
  calls : List Nat
  deriving DecidableEq, Repr

/-- A terminator (R43). -/
def isTerm (opc : Nat) : Bool := [0xB9, 0xBA, 0xBB, 0xBD, 0xBE].contains opc

/-- Variant 1 of call, which names its callee through a value (R44): it is refused with 0x13. -/
def callsByValue (opc : Nat) (i : Ins) : Bool := opc == 0xBC && i.form.toNat == 1

/-- Results of an instruction: its signature's, or for call its callee's. -/
def resultTypes (fns : List FnEntry) (p : Parsed) : List Nat :=
  if callsByValue p.opc p.ins then []
  else if p.opc = 0xBC then (((p.ins.succ.head?).bind fun t => fns[t.num]?).map FnEntry.results).getD []
  else ((sig p.opc p.ins.form.toNat p.ins.attr).map Sig.res).getD []

/-- What reading a function gives: its instructions, whether its end was reached, and where a byte could not be read: the
instruction's offset, the byte's address and why. -/
structure FnRead where
  items : List VItem := []
  whole : Bool := false
  stop : Option (Nat × Nat × ReadFail) := none

/-- Reads the instructions of a function from an offset on. Bytes that end within an instruction give 0x07, and the
codes they give however the instruction goes on; nothing is read after those, nor after an instruction whose length is unknown. -/
def State.readItems (s : State) (die asid base : Nat) (denied : Option Nat) (fns : List FnEntry) (e : FnEntry) :
    Nat → Nat → Nat → FnRead
  | 0, _, _ => {}
  | fuel + 1, off, next =>
    if e.size ≤ off then { whole := true }
    else
      let room := e.size - off
      let a := base + e.off + off
      let q := s.codeBytes die asid denied 3 a (Nat.min 24 room)
      let item (p : Parsed) (extra : List Nat) : VItem :=
        let args := if p.opc = 0xB8 then p.ins.tys.length else 0
        { off := off, bytes := q.1.take (q.1.length - p.rest.length), opc := p.opc, ins := p.ins, first := next + args
          res := resultTypes fns p, codes := p.codes ++ extra }
      match parseIns e.nres q.1 with
      | none =>
        match q.2 with
        | some why => { stop := some (off, a + q.1.length, why) }
        | none =>
          let long (b : Byte) : List Nat := ((parseIns e.nres (q.1 ++ List.replicate 400 b)).map Parsed.codes).getD []
          { items := [{ off := off, bytes := q.1, opc := ((q.1.head?).map BitVec.toNat).getD 0, ins := {}, first := next, res := []
                        codes := 0x07 :: (long 1).filter fun c => (long 0).contains c }] }
      | some p =>
        let v := item p []
        if p.codes.contains 0x04 then { items := [v] }
        else
          let r := s.readItems die asid base denied fns e fuel (off + v.bytes.length) (v.first + v.res.length)
          { r with items := v :: r.items }

/-- Splits instructions into blocks: each blk opens one, and instructions before the first blk form one as well. -/
def blocksOf : List VItem → List VBlock
  | [] => []
  | v :: vs =>
    let args := if v.opc = 0xB8 then v.ins.tys.map BitVec.toNat else []
    match vs, blocksOf vs with
    | w :: _, b :: bs =>
      if w.opc = 0xB8 then ⟨v.first - args.length, args, [v]⟩ :: b :: bs
      else ⟨v.first - args.length, args, v :: b.items⟩ :: bs
    | _, bs => ⟨v.first - args.length, args, [v]⟩ :: bs

/-! ### The control-flow graph -/

/-- Blocks reached from a work list, `seen` held already. -/
def reachFrom (succ : Nat → List Nat) : Nat → List Nat → List Nat → List Nat
  | 0, _, seen => seen
  | _ + 1, [], seen => seen
  | fuel + 1, b :: work, seen =>
    if seen.contains b then reachFrom succ fuel work seen else reachFrom succ fuel (succ b ++ work) (b :: seen)

/-- Targets of the terminators of a block. -/
def VBlock.succ (b : VBlock) : List Nat :=
  (b.items.map fun v => if [0xB9, 0xBA, 0xBB].contains v.opc then v.ins.succ.map Target.num else []).flatten

/-- A bound on the steps of `reachFrom`. -/
def reachFuel (n : Nat) (succ : Nat → List Nat) : Nat := (List.range n).foldl (fun k b => k + (succ b).length + 1) 2

/-- Where a value of a function is defined: its type, its block, and the place of its instruction there. -/
structure VDef where
  ty : Nat
  block : Nat
  place : Nat
  deriving DecidableEq, Repr

/-- The values of a function in order (R42). -/
def defsOf (e : FnEntry) (bs : List VBlock) : List VDef :=
  e.params.map (fun t => ⟨t, 0, 0⟩) ++
    (bs.zipIdx.map fun b =>
      b.1.args.map (fun t => (⟨t, b.2, 0⟩ : VDef)) ++ (b.1.items.zipIdx.map fun v => v.1.res.map fun t => (⟨t, b.2, v.2⟩ : VDef)).flatten).flatten

/-! ### The rules for an instruction in its function -/

/-- The values an instruction uses: guard, fallbacks, operands and arguments (R43). -/
def insUses (i : Ins) : List Nat :=
  (match i.guard with
    | .always => []
    | .whenTrue o | .whenFalse o => [o.num])
  ++ i.falls.map Opnd.num
  ++ (i.src.filterMap fun o => match o with
      | .val n => some n
      | .int _ | .raw _ | .idx _ | .reg _ | .pred _ | .lit _ => none)
  ++ (i.succ.map Target.args).flatten

/-- What verification knows of a function. -/
structure FnCx where
  idx : Nat
  fns : List FnEntry
  entry : FnEntry
  blocks : List VBlock
  defs : List VDef
  /-- For each block, the blocks that are reached from the entry without passing it. -/
  past : List (List Nat)
  /-- Functions being verified, this one among them. -/
  stack : List Nat

def FnCx.ty (x : FnCx) (n : Nat) : Option Nat := (x.defs[n]?).map VDef.ty

/-- The definition of a value dominates place `j` of block `b`. -/
def FnCx.dominates (x : FnCx) (d : VDef) (b j : Nat) : Bool :=
  if d.block = b then decide (d.place < j) else !(((x.past[d.block]?).getD []).contains b)

/-- Values passed agree with some types, in number and type. -/
def FnCx.fits (x : FnCx) (args tys : List Nat) : Bool := args.map x.ty == tys.map some

/-- The codes of the instruction at place `j` of block `b`. -/
def FnCx.codesAt (x : FnCx) (b j : Nat) (v : VItem) : List Nat :=
  let i := v.ins
  let s := (sig v.opc i.form.toNat i.attr).getD {}
  let uses := insUses i ++ (if callsByValue v.opc i then (i.succ.head?).toList.map Target.num else [])
  v.codes
  ++ (if uses.any fun n => x.entry.nvals ≤ n then [0x08] else [])
  ++ (if uses.any fun n => match x.defs[n]? with
        | some d => !x.dominates d b j
        | none => false then [0x09] else [])
  ++ (if (List.zip s.args i.src).any fun p => match p with
        | (.v tys, .val n) => !(match x.ty n with
            | some t => tys.contains t
            | none => true)
        | _ => false then [0x0A] else [])
  ++ (if (match i.guard with
          | .always => false
          | .whenTrue o | .whenFalse o => x.ty o.num != some tI1 && (x.ty o.num).isSome)
        || (List.zip s.res i.falls).any (fun p => x.ty p.2.num != some p.1 && (x.ty p.2.num).isSome) then [0x0B] else [])
  ++ (if [0xB9, 0xBA, 0xBB].contains v.opc then
        (if i.succ.any fun t => t.num = 0 ∨ x.entry.nblocks ≤ t.num then [0x0D] else [])
        ++ (if i.succ.any fun t => match x.blocks[t.num]? with
              | some k => t.num != 0 && !x.fits t.args k.args
              | none => false then [0x0E] else [])
      else [])
  ++ (if v.opc = 0xBC && !callsByValue v.opc i then
        match i.succ.head? with
        | none => []
        | some t => match x.fns[t.num]? with
          | none => [0x02]
          | some e => (if x.stack.contains t.num then [0x12] else []) ++ (if x.fits t.args e.params then [] else [0x14])
      else [])
  ++ (if v.opc = 0xBD then
        (if x.entry.isEntry then [0x16] else []) ++ (if x.fits (i.src.map Opnd.num) x.entry.results then [] else [0x14])
      else [])
  ++ (if v.opc = 0xBE ∧ !x.entry.isEntry then [0x16] else [])

/-- The codes of the block rules for an instruction (R43): 0x0F, 0x0E for the entry block, and 0x18. `closed` says that
the instruction before it, if any, is a terminator; `last` that none follows. -/
def blockCodes (b : Nat) (reached closed last : Bool) (v : VItem) : List Nat :=
  let blk := v.opc == 0xB8
  (if blk != closed then [0x0F] else [])
  ++ (if last && !isTerm v.opc then [0x0F] else [])
  ++ (if blk && b == 0 && v.ins.tys != [] then [0x0E] else [])
  ++ (if blk && !reached then [0x18] else [])

/-- The lowest code of each instruction that fails, in order. -/
def FnCx.failures (x : FnCx) (whole : Bool) : List (Nat × Nat) :=
  let n := x.blocks.length
  let succ (b : Nat) : List Nat := ((x.blocks[b]?).map VBlock.succ).getD []
  let live := reachFrom succ (reachFuel n succ) [0] []
  ((x.blocks.zipIdx.map fun b =>
    b.1.items.zipIdx.filterMap fun v =>
      let prev := if v.2 = 0 then (if b.2 = 0 then none else (x.blocks[b.2 - 1]?).bind fun k => k.items.getLast?)
                  else b.1.items[v.2 - 1]?
      let closed := match prev with
        | none => true
        | some p => isTerm p.opc
      let last := whole && b.2 + 1 == n && v.2 + 1 == b.1.items.length
      (leastCode (x.codesAt b.2 v.2 v.1 ++ blockCodes b.2 (!whole || live.contains b.2) closed last v.1)).map
        fun c => (v.1.off, c)).flatten)

/-- The context of a function as read. -/
def fnCx (fns : List FnEntry) (stack : List Nat) (k : Nat) (e : FnEntry) (items : List VItem) : FnCx :=
  let bs := blocksOf items
  let n := bs.length
  let succ (b : Nat) : List Nat := ((bs[b]?).map VBlock.succ).getD []
  { idx := k, fns := fns, entry := e, blocks := bs, defs := defsOf e bs, stack := k :: stack
    past := (List.range n).map fun d =>
      if d = 0 then [] else (reachFrom succ (reachFuel n succ) [0] [d]).filter fun b => b != d }

/-- Why a unit is not translated: a code with its function and offset (R46); a code byte that cannot be read, with the
function, the instruction's offset, its address and the byte's (R56); or a page that is missing. -/
inductive KnitFail where
  | refuse (code func off : Nat)
  | fetch (func off ins byte : Nat)
  | page (va : Nat)
  deriving DecidableEq, Repr

/-- The offset of a failure that belongs to no instruction. -/
def noOffset : Nat := 0xFFFFFFFF

/-- Reads and verifies one function. Values and blocks that differ in number from the table give 0x10 before any of its
instructions. -/
def State.verifyFn (s : State) (die asid base : Nat) (denied : Option Nat) (fns : List FnEntry) (stack : List Nat) (k : Nat)
    (e : FnEntry) : Except KnitFail VFun :=
  let r := s.readItems die asid base denied fns e (e.size + 1) 0 e.nparams
  match r.stop with
  | some (off, byte, .denied) => .error (.fetch k off (base + e.off + off) byte)
  | some (_, byte, .missing) => .error (.page byte)
  | none =>
    let x := fnCx fns stack k e r.items
    if r.whole && (x.defs.length != e.nvals || x.blocks.length != e.nblocks) then .error (.refuse 0x10 k noOffset)
    else
      match x.failures r.whole with
      | (off, c) :: _ => .error (.refuse c k off)
      | [] =>
        if x.blocks = [] then .error (.refuse 0x0F k 0)
        else
          .ok { idx := k, entry := e, blocks := x.blocks
                calls := r.items.filterMap fun v =>
                  if v.opc = 0xBC && !callsByValue v.opc v.ins then (v.ins.succ.head?).map Target.num else none }

/-- Verifies a function and, depth-first in the order of call sites, every function it calls, each once (R47). The
list holds the functions verified so far; the first number bounds the depth of calls. -/
def State.verifyFrom (s : State) (die asid base : Nat) (denied : Option Nat) (fns : List FnEntry) :
    Nat → List Nat → List VFun → Nat → Except KnitFail (List VFun)
  | 0, _, done, _ => .ok done
  | fuel + 1, stack, done, k =>
    if done.any fun f => f.idx == k then .ok done
    else
      match fns[k]? with
      | none => .ok done
      | some e =>
        match s.verifyFn die asid base denied fns stack k e with
        | .error x => .error x
        | .ok f =>
          f.calls.foldl (fun (r : Except KnitFail (List VFun)) c =>
            match r with
            | .error x => .error x
            | .ok done => s.verifyFrom die asid base denied fns fuel (k :: stack) done c) (.ok (done ++ [f]))

/-- Stage 1 for a unit: its functions, the entry first, in the order of R47. -/
def State.verifyUnit (s : State) (die : Nat) (job : KnitJob) : Except KnitFail (List VFun) :=
  let k := job.key.entry
  match s.moduleOf job.key.hash with
  | none => .error (.refuse 0x01 k noOffset)
  | some f =>
    match leastCode (tableCodes f k) with
    | some c => .error (.refuse c k noOffset)
    | none =>
      let fns := fnEntries f
      s.verifyFrom die job.asid job.code job.denied fns (fns.length + 1) [] [] k

end Sys2Proof.Machine
end

