-- ==== Sys2Proof/Machine/KnitInline.lean ====
section
/-! DEFINITION. Stages 2 and 3 of the knitter (spec/16_knitter.md R421 to R424, R434; spec/04_control_engine.md R111):
the limits of an inlined unit, inlining, the linear order, reconvergence blocks and nesting. -/
namespace Sys2Proof.Machine

/-! ### The inlined unit -/

/-- An instruction of the inlined unit, with the blocks that control passes to: a branch's targets, the entry of a call's
callee, the continuation of a ret. -/
structure GItem where
  item : VItem
  succ : List Nat := []
  deriving DecidableEq, Repr

/-- A block of the inlined unit (R423): its function and frame, the calls that opened the frames around it (offset of the
call and callee), the values its frame's parameters name, its arguments, whether it begins with an implicit blk, the
offset of its entry, its instructions. -/
structure GBlock where
  func : Nat
  frame : Nat
  chain : List (Nat × Nat)
  params : List (Nat × Nat)
  argBase : Nat
  args : List Nat
  implicit : Bool
  start : Nat
  items : List GItem
  deriving DecidableEq, Repr

/-- The value that number `n` of a block's frame names: a parameter is the call's argument. -/
def canonOf (params : List (Nat × Nat)) (frame n : Nat) : Nat × Nat := (params[n]?).getD (frame, n)

/-- Splits a block after its calls. -/
def splitCalls : List VItem → List (List VItem)
  | [] => []
  | v :: vs =>
    match splitCalls vs with
    | [] => [[v]]
    | p :: ps => if v.opc = 0xBC then [v] :: p :: ps else (v :: p) :: ps

/-- A piece of a function: its block, its place there, its instructions, and the results of the call it continues. -/
structure Piece where
  block : VBlock
  number : Nat
  items : List VItem
  after : Option VItem := none

/-- The pieces of a block, each continuing the call that ends the one before. -/
def unitPieces (b : VBlock) : List Piece :=
  let ps := splitCalls b.items
  ps.zipIdx.map fun p =>
    { block := b, number := p.2, items := p.1, after := if p.2 = 0 then none else (ps[p.2 - 1]?).bind List.getLast? }

def VFun.pieces (f : VFun) : List Piece := (f.blocks.map unitPieces).flatten

/-- The piece that opens block `j`. -/
def VFun.pieceOf (f : VFun) (j : Nat) : Nat := ((f.blocks.take j).map fun b => (unitPieces b).length).foldl (· + ·) 0

/-- The callee of a piece that ends in call. -/
def Piece.call (p : Piece) : Option (VItem × Target) :=
  (p.items.getLast?).bind fun v => if v.opc = 0xBC then (v.ins.succ.head?).map fun t => (v, t) else none

/-- The blocks a function of frame `frame` gives when its first block is number `base`, those of the callees after its
own, and the next free frame. `cont` is the block that a ret passes to. -/
def inlineFn (fs : List VFun) : Nat → Nat → Nat → Nat → Nat → List (Nat × Nat) → List (Nat × Nat) → Option Nat →
    List GBlock × Nat
  | 0, _, _, _, next, _, _, _ => ([], next)
  | fuel + 1, k, base, frame, next, chain, params, cont =>
    match fs.find? fun f => f.idx == k with
    | none => ([], next)
    | some f =>
      let own := f.pieces
      let sub := own.zipIdx.foldl (fun (r : List GBlock × Nat × List (Nat × Nat)) p =>
        match p.1.call with
        | none => r
        | some (v, t) =>
          let first := base + own.length + r.1.length
          let q := inlineFn fs fuel t.num first r.2.1 (r.2.1 + 1) (chain ++ [(v.off, t.num)])
            (t.args.map (canonOf params frame)) (some (base + p.2 + 1))
          (r.1 ++ q.1, q.2, r.2.2 ++ [(p.2, first)])) ([], next, [])
      let succOf (q : Nat) (v : VItem) : List Nat :=
        if v.opc = 0xBC then ((sub.2.2.lookup q).map fun b => [b]).getD []
        else if v.opc = 0xBD then cont.toList
        else if isTerm v.opc then v.ins.succ.map fun t => base + f.pieceOf t.num
        else []
      let blocks := own.zipIdx.map fun p =>
        let start := ((p.1.items.head?).map VItem.off).getD 0
        let items := p.1.items.map fun v => (⟨v, succOf p.2 v⟩ : GItem)
        match p.1.after with
        | none => (⟨k, frame, chain, params, p.1.block.argBase, p.1.block.args, false, start, items⟩ : GBlock)
        | some c => ⟨k, frame, chain, params, c.first, c.res, true, start, items⟩
      (blocks ++ sub.1, sub.2.1)

/-- The unit of an entry function, which is the first of the list. -/
def inlineUnit (fs : List VFun) : List GBlock :=
  match fs with
  | [] => []
  | f :: _ => (inlineFn fs 17 f.idx 0 0 1 [] [] none).1

/-- The instructions of R421: each of the unit, and each implicit blk. -/
def unitLength (bs : List GBlock) : Nat := bs.foldl (fun n b => n + b.items.length + (if b.implicit then 1 else 0)) 0

/-! ### Limits and stage 2 (R45, R422) -/

/-- The deepest frame in which each function stands, up to 16. -/
def depthsOf (fs : List VFun) : List (Nat × Nat) :=
  let pass (ds : List (Nat × Nat)) : List (Nat × Nat) :=
    fs.foldl (fun ds f => f.calls.foldl (fun ds c =>
      let d := Nat.min 16 (countOf f.idx ds + 1)
      if countOf c ds < d then putKey c d ds else ds) ds) ds
  (List.range 17).foldl (fun ds _ => pass ds) []

/-- Values and blocks of the functions once inlined, callees first. -/
def inlinedSizes (fs : List VFun) : List (Nat × Nat × Nat) :=
  let ds := depthsOf fs
  (List.range 17).reverse.foldl (fun m d =>
    (fs.filter fun f => countOf f.idx ds == d).foldl (fun m f =>
      let sub := f.calls.map fun c => (m.lookup c).getD (0, 0)
      (f.idx, f.entry.nvals - f.entry.nparams + (sub.map Prod.fst).foldl (· + ·) 0,
        f.pieces.length + (sub.map Prod.snd).foldl (· + ·) 0) :: m) m) []

/-- The unit exceeds the limits after inlining (0x17). -/
def tooLarge (fs : List VFun) : Bool :=
  match fs with
  | [] => false
  | f :: _ =>
    let q := ((inlinedSizes fs).lookup f.idx).getD (0, 0)
    decide (1048576 < q.1) || decide (65536 < q.2)

/-- The code of an instruction in stage 2. -/
def stageTwoCode (entry : FnEntry) (depth opc : Nat) : Option Nat :=
  if entry.isGroup && decide (0xD8 ≤ opc) && decide (opc ≤ 0xE7) then some 0x40
  else if entry.isGroup && opc == 0xCA then some 0x41
  else if entry.isControl && opc == 0xB1 then some 0x42
  else if opc == 0xBC && decide (15 ≤ depth) then some 0x48
  else none

/-- The first failure of stage 2: code, function and offset. -/
def stageTwo (fs : List VFun) : Option (Nat × Nat × Nat) :=
  match fs with
  | [] => none
  | e :: _ =>
    let ds := depthsOf fs
    fs.findSome? fun f => f.blocks.findSome? fun b => b.items.findSome? fun v =>
      (stageTwoCode e.entry (countOf f.idx ds) v.opc).map fun c => (c, f.idx, v.off)

/-! ### The graph of the unit (R424, R111, R434) -/

def GBlock.succ (b : GBlock) : List Nat := ((b.items.getLast?).map GItem.succ).getD []
def GBlock.lastOp (b : GBlock) : Nat := ((b.items.getLast?).map fun i => i.item.opc).getD 0
/-- The block ends in brc or brt. -/
def GBlock.isBranch (b : GBlock) : Bool := b.lastOp == 0xBA || b.lastOp == 0xBB

/-- Successors of block `b` of a unit. -/
def succIn (bs : List GBlock) (b : Nat) : List Nat := ((bs[b]?).map GBlock.succ).getD []

/-- A depth-first search: the blocks seen, and those finished, the last first. -/
def searchFrom (succ : Nat → List Nat) : Nat → Nat → List Nat × List Nat → List Nat × List Nat
  | 0, _, r => r
  | fuel + 1, b, r =>
    if r.1.contains b then r
    else
      let q := (succ b).foldl (fun r c => searchFrom succ fuel c r) (b :: r.1, r.2)
      (q.1, b :: q.2)

/-- The linear order: reverse post-order from the entry block (R424). -/
def linearOrder (bs : List GBlock) : List Nat := (searchFrom (succIn bs) (bs.length + 1) 0 ([], [])).2

/-- Place of a block in the linear order. -/
def orderOf (order : List Nat) (b : Nat) : Nat := order.idxOf b

/-- Blocks with an edge to the virtual exit (R111): those that end in end, and the first of each region that reaches no end
and that no edge leaves. -/
def exitsOf (bs : List GBlock) (order : List Nat) : List Nat :=
  let n := bs.length
  let reach (b : Nat) : List Nat := reachFrom (succIn bs) (reachFuel n (succIn bs)) [b] []
  let ends := order.filter fun b => ((bs[b]?).map GBlock.lastOp) == some 0xBE
  ends ++ order.filter fun b =>
    let r := reach b
    !(r.any fun c => ends.contains c) && (r.all fun c => (reach c).contains b)
      && r.all fun c => decide (orderOf order b ≤ orderOf order c)

/-- For each block of the order and the virtual exit (`bs.length`): the blocks from which the exit is reached without
passing it. -/
def escapes (bs : List GBlock) (order : List Nat) : List (Nat × List Nat) :=
  let n := bs.length
  let exits := exitsOf bs order
  let pred (b : Nat) : List Nat := if b = n then exits else order.filter fun c => (succIn bs c).contains b
  (order ++ [n]).map fun p =>
    (p, if p = n then [] else (reachFrom pred (reachFuel (n + 1) pred) [n] [p]).filter fun b => b != p)

/-- The reconvergence block of block `b` (R111): its immediate post-dominator, none where that is the virtual exit. -/
def reconOf (bs : List GBlock) (order : List Nat) (esc : List (Nat × List Nat)) (b : Nat) : Option Nat :=
  let n := bs.length
  let past (p c : Nat) : Bool := p != c && !(((esc.lookup p).getD []).contains c)
  let ps := (order ++ [n]).filter fun p => past p b
  (ps.find? fun p => ps.all fun q => q == p || past q p).bind fun p => if p = n then none else some p

/-- The reconvergence blocks of a unit's branches. -/
def reconsOf (bs : List GBlock) (order : List Nat) : List (Nat × Option Nat) :=
  let esc := escapes bs order
  (order.filter fun b => ((bs[b]?).map GBlock.isBranch).getD false).map fun b => (b, reconOf bs order esc b)

/-- The region of a branch (R434): what is reached from it without passing its reconvergence block. -/
def regionOf (bs : List GBlock) (b : Nat) (recon : Option Nat) : List Nat :=
  (reachFrom (succIn bs) (reachFuel bs.length (succIn bs)) (succIn bs b) recon.toList).filter fun c => recon != some c

/-- The first branch of level 3 or more: its function and offset (0x46). -/
def tooNested (bs : List GBlock) (order : List Nat) (recons : List (Nat × Option Nat)) : Option (Nat × Nat) :=
  let regions := (recons.filter fun r => r.2.isSome).map fun r => (r.1, regionOf bs r.1 r.2)
  order.findSome? fun b =>
    match bs[b]? with
    | none => none
    | some k =>
      if k.isBranch && decide (3 ≤ (regions.filter fun r => r.1 != b && r.2.contains b).length) then
        (k.items.getLast?).map fun i => (k.func, i.item.off)
      else none

/-! ### The unit a stream of the portable view runs -/

/-- The unit's blocks as streams run them (log entry 4). A block without arguments takes values only from a call, when it
is the callee's first: its parameters, which are numbered from 0 (R42, R109). -/
def unitBlocks (fns : List VFun) (bs : List GBlock) (recons : List (Nat × Option Nat)) : List UBlock :=
  bs.zipIdx.map fun b =>
    { func := b.1.func, frame := b.1.frame, chain := b.1.chain, argBase := if b.1.args = [] then 0 else b.1.argBase
      recon := (recons.lookup b.2).getD none
      items := b.1.items.map fun i =>
        { func := b.1.func, off := i.item.off, bytes := i.item.bytes, succ := i.succ, first := i.item.first
          nres := (((fns.find? fun f => f.idx == b.1.func).map fun f => f.entry.nres)).getD 0 } }

/-- What stages 1 to 3 make of a unit: its functions, its blocks, their linear order, and the reconvergence blocks. -/
structure Inlined where
  fns : List VFun
  blocks : List GBlock
  order : List Nat
  recons : List (Nat × Option Nat)
  deriving DecidableEq, Repr

/-- Stages 1 to 3 (R422). -/
def State.inlined (s : State) (die : Nat) (job : KnitJob) : Except KnitFail Inlined :=
  match s.verifyUnit die job with
  | .error x => .error x
  | .ok fs =>
    if tooLarge fs then .error (.refuse 0x17 job.key.entry noOffset)
    else
      match stageTwo fs with
      | some (c, f, o) => .error (.refuse c f o)
      | none =>
        let bs := inlineUnit fs
        let order := linearOrder bs
        let recons := reconsOf bs order
        match tooNested bs order recons with
        | some (f, o) => .error (.refuse 0x46 f o)
        | none => .ok ⟨fs, bs, order, recons⟩

end Sys2Proof.Machine
end

