-- ==== Sys2Proof/Machine/KnitAlloc.lean ====
section
/-! DEFINITION. Stages 4 and 5 of the knitter (spec/16_knitter.md R424 to R429): the instructions of a unit in linear
order, intervals, folding, registers, predicates and spill words. -/
namespace Sys2Proof.Machine

/-! ### The instructions in linear order (R424) -/

/-- A value of a unit: its frame and number. -/
abbrev Val := Nat × Nat

/-- A source of an instruction: a value, or an immediate as a 52-bit literal (R396). -/
inductive LSrc where
  | val (v : Val)
  | lit (x : Nat)
  deriving DecidableEq, Repr

/-- An instruction of the unit: an implicit blk has opcode 0xB8, and a call or a ret that of br (R423). -/
structure LIns where
  block : Nat
  func : Nat
  off : Nat
  opc : Nat
  ins : Ins := {}
  /-- Results, or for blk the block's arguments. -/
  defs : List Val := []
  srcs : List LSrc := []
  /-- Guard and POL. -/
  guard : Option (Val × Nat) := none
  /-- One for each result. -/
  falls : List Val := []
  /-- Targets with the values passed. -/
  jumps : List (Nat × List Val) := []
  deriving DecidableEq, Repr

/-- An immediate in 64 bits; a literal slot takes the low 52. -/
def immLit (x : Int) : Nat := (x % 2 ^ 64).toNat

/-- A literal slot, which a 64-bit operand sign-extends from bit 51 (R396), does not give this number. -/
def beyondLit (v : Nat) : Bool := v % 2 ^ 64 != IntOps.wrap 64 (IntOps.sext 52 v)

/-- An immediate of an instruction other than const goes through the scratch pair (log entry 35). -/
def LIns.wide (i : LIns) : Bool :=
  i.opc != 0x27 && i.srcs.any fun s => match s with
    | .lit k => beyondLit k
    | .val _ => false

/-- The instruction that an item of block `b`, number `k`, gives. -/
def linIns (b : GBlock) (k : Nat) (g : GItem) : LIns :=
  let v := g.item
  let canon := canonOf b.params b.frame
  let i := v.ins
  let s := (sig v.opc i.form.toNat i.attr).getD {}
  let srcs := i.src.map fun o => match o with
    | .val n => LSrc.val (canon n)
    | .int x => .lit (immLit x)
    | .raw x => .lit x
    | .idx n => .lit n
    | .reg _ | .pred _ | .lit _ => .lit 0
  let defs := if v.opc = 0xB8 then (List.range b.args.length).map fun j => (b.frame, b.argBase + j)
    else if v.opc = 0xBC then [] else (List.range v.res.length).map fun j => (b.frame, v.first + j)
  let falls := i.falls.map fun o => canon o.num
  { block := k, func := b.func, off := v.off, opc := if v.opc = 0xBC ∨ v.opc = 0xBD then 0xB9 else v.opc, ins := i
    defs := defs
    srcs := if v.opc = 0xBD then [] else srcs
    guard := match i.guard with
      | .always => none
      | .whenTrue o => some (canon o.num, 0)
      | .whenFalse o => some (canon o.num, 1)
    falls := match i.guard with
      | .always => []
      | .whenTrue _ | .whenFalse _ => falls ++ (if s.pi then (match i.src with
          | .val n :: _ => [canon n]
          | _ => []) else [])
    jumps := if v.opc = 0xBC then g.succ.map fun t => (t, [])
      else if v.opc = 0xBD then g.succ.map fun t => (t, i.src.map fun o => canon o.num)
      else List.zip g.succ (i.succ.map fun t => t.args.map canon) }

/-- The instructions of a block. -/
def blockIns (b : GBlock) (k : Nat) : List LIns :=
  (if b.implicit then
    [{ block := k, func := b.func, off := b.start, opc := 0xB8
       defs := (List.range b.args.length).map fun j => (b.frame, b.argBase + j) }]
   else [])
  ++ b.items.map (linIns b k)

/-- The instructions of a unit, numbered by their place. -/
def linear (u : Inlined) : List LIns :=
  (u.order.map fun k => match u.blocks[k]? with
    | some b => blockIns b k
    | none => []).flatten

/-- The number of a block's first instruction. -/
def firstOf (lin : List LIns) (b : Nat) : Nat := lin.findIdx fun i => i.block == b

/-- The number of a block's last instruction. -/
def lastOf (lin : List LIns) (b : Nat) : Nat := firstOf lin b + (lin.filter fun i => i.block == b).length - 1

/-- Types of the unit's values. -/
def typesOf (u : Inlined) : List (Val × Nat) :=
  (u.blocks.map fun b =>
    (b.args.zipIdx.map fun t => ((b.frame, b.argBase + t.2), t.1))
    ++ (b.items.map fun g => if g.item.opc = 0xBC then [] else
        g.item.res.zipIdx.map fun t => ((b.frame, g.item.first + t.2), t.1)).flatten).flatten

def typeIn (ts : List (Val × Nat)) (v : Val) : Nat := (ts.lookup v).getD tI32

/-- The order of values: by frame, counted from the entry function inwards, and number. -/
def valKey (u : Inlined) (v : Val) : Nat :=
  let depth := ((u.blocks.find? fun b => b.frame == v.1).map fun b => b.chain.length).getD 0
  (depth * 2 ^ 32 + v.2) * 2 ^ 32 + v.1

/-! ### Loops (R424) -/

/-- Blocks that a block dominates in a unit: those not reached without passing it. -/
def dominatesIn (bs : List GBlock) (d b : Nat) : Bool :=
  d == b || d == 0 || !((reachFrom (succIn bs) (reachFuel bs.length (succIn bs)) [0] [d]).contains b)

/-- The natural loops of the back edges: header and blocks. -/
def loopsOf (u : Inlined) : List (Nat × List Nat) :=
  let bs := u.blocks
  let pred (b : Nat) : List Nat := u.order.filter fun c => (succIn bs c).contains b
  (u.order.map fun s => ((succIn bs s).eraseDups.filter fun h => dominatesIn bs h s).map fun h =>
    (h, reachFrom pred (reachFuel bs.length pred) [s] [h])).flatten

/-! ### Intervals (R425) -/

/-- An interval: the value, its type and its order, and its first and last position. -/
structure Ival where
  val : Val
  ty : Nat
  key : Nat
  start : Nat
  stop : Nat
  deriving DecidableEq, Repr

/-- The positions at which instruction `n` uses a value. -/
def usesAt (i : LIns) (n : Nat) (v : Val) : List Nat :=
  let held := i.srcs.contains (.val v) || (i.guard.any fun g => g.1 == v)
  (if held then [if i.guard.isSome && i.defs != [] then 2 * n + 1 else 2 * n] else [])
  ++ (if i.falls.contains v || (i.jumps.any fun j => j.2.contains v) then [2 * n] else [])

/-- The greatest position of a list, none of an empty one. -/
def maxOf : List Nat → Option Nat
  | [] => none
  | x :: xs => some (xs.foldl Nat.max x)

/-- The intervals of the values that have uses, before loops raise their ends. -/
def rawIvals (u : Inlined) (lin : List LIns) : List Ival :=
  let ts := typesOf u
  (lin.zipIdx.map fun d => d.1.defs.filterMap fun v =>
    (maxOf ((lin.zipIdx.map fun i => usesAt i.1 i.2 v).flatten)).map fun e =>
      ({ val := v, ty := typeIn ts v, key := valKey u v, start := 2 * d.2 + 1, stop := e } : Ival)).flatten

/-- Raises the end of an interval by the loops whose header it is live on entry to: header position and last read position
of each loop. -/
def raiseEnd (spans : List (Nat × Nat)) : Nat → Ival → Ival
  | 0, v => v
  | fuel + 1, v =>
    match spans.find? fun l => decide (v.start < l.1) && decide (l.1 ≤ v.stop) && decide (v.stop < l.2) with
    | some l => raiseEnd spans fuel { v with stop := l.2 }
    | none => v

/-- The intervals of a unit's values, the folded ones included. -/
def ivalsOf (u : Inlined) (lin : List LIns) : List Ival :=
  let spans := (loopsOf u).map fun l => (2 * firstOf lin l.1, (maxOf (l.2.map fun b => 2 * lastOf lin b)).getD 0)
  (rawIvals u lin).map (raiseEnd spans (spans.length + 1))

/-! ### Folding (R426) -/

/-- An instruction takes an extension word (R396). -/
def needsExt (i : LIns) : Bool := decide (3 < i.srcs.length) || (i.opc != 0xB8 && decide (1 < i.defs.length))

/-- The literal demands of an instruction but for folded sources. -/
def baseDemands (i : LIns) : Nat :=
  (i.srcs.filter fun s => match s with
    | .lit _ => true
    | .val _ => false).length
  + (if needsExt i then 1 else 0) + (if attrKind i.opc = .none then 0 else 1)

/-- A const that may be folded: its value's bits. -/
def foldable (ts : List (Val × Nat)) (i : LIns) : Option (Val × Nat) :=
  match i.defs, i.ins.src with
  | [v], [o] =>
    let w := tyBits (typeIn ts v)
    let x : Nat := match o with
      | .int n => (n % 2 ^ w).toNat
      | .raw n => n % 2 ^ w
      | _ => 0
    if i.opc = 0x27 ∧ i.guard = none ∧ i.ins.attr.low = 0 ∧ (w < 64 ∨ IntOps.wrap 64 (IntOps.sext 52 (x % 2 ^ 52)) = x) then
      some (v, x)
    else none
  | _, _ => none

/-- How often an instruction reads a value as a source. -/
def sourceCount (i : LIns) (v : Val) : Nat := (i.srcs.filter fun s => s == .val v).length

/-- Inserts by a key. -/
def insertBy {α : Type} (key : α → Nat) (x : α) : List α → List α
  | [] => [x]
  | y :: ys => if key x < key y then x :: y :: ys else y :: insertBy key x ys

def sortBy {α : Type} (key : α → Nat) (xs : List α) : List α := xs.foldl (fun ys x => insertBy key x ys) []

/-- The folded values with their bits, considered in order. -/
def foldedOf (u : Inlined) (lin : List LIns) : List (Val × Nat) :=
  let ts := typesOf u
  (sortBy (fun c => valKey u c.1) (lin.filterMap (foldable ts))).foldl (fun done c =>
    let ok (i : LIns) : Bool :=
      (i.guard.all fun g => g.1 != c.1) && !(i.opc == 0xBA && i.srcs.contains (.val c.1))
      && (sourceCount i c.1 == 0 ||
        decide (baseDemands i + sourceCount i c.1 + (done.map fun d => sourceCount i d.1).foldl (· + ·) 0 ≤ 4))
    if lin.all ok then done ++ [c] else done) []

/-! ### Allocation (R427, R428) -/

/-- Where a value stands: an i1 in a predicate, others in a register or the even pair it opens, or in a spill word or
pair; a folded constant with its bits; nothing for a value without use. -/
inductive Place where
  | reg (n : Nat)
  | pred (n : Nat)
  | word (n : Nat)
  | konst (x : Nat)
  | unused
  deriving DecidableEq, Repr

/-- Words of a type in a register file: 2 for 64 bits. -/
def wordsOf (ty : Nat) : Nat := if tyBits ty = 64 then 2 else 1

/-- The lower register of the scratch pair (R427). -/
def scratchOf (budget : Nat) : Nat := 2 * (budget / 2) - 2

/-- A linear scan in progress: active intervals with the registers they hold, places given, values spilled, and the
instruction at which it failed. -/
structure Scan where
  active : List (Ival × Nat) := []
  placed : List (Val × Nat) := []
  spilled : List Ival := []
  fail : Option Nat := none

/-- The registers an active interval holds. -/
def heldBy (a : Ival × Nat) : List Nat := (List.range (wordsOf a.1.ty)).map fun k => a.2 + k

/-- The lowest free register or even pair of a pool for an interval. -/
def Scan.free (x : Scan) (pool : List Nat) (v : Ival) : Option Nat :=
  let used := (x.active.map heldBy).flatten
  let ok (r : Nat) : Bool := pool.contains r && !used.contains r
  pool.find? fun r => if wordsOf v.ty = 2 then r % 2 == 0 && ok r && ok (r + 1) else ok r

/-- Spilling these values leaves every instruction with few enough spilled sources and results (R428). A guard counts as
a source in the predicate pool, where a spilled guard also excludes a spilled result. Arguments of branches and fallbacks
pass through moves and are no sources. A wide immediate fills the scratch pair as a spilled source does. -/
def spillsFit (lin : List LIns) (preds : Bool) (vs : List Ival) : Bool :=
  let words (ws : List Val) : Nat :=
    (vs.filter fun v => ws.contains v.val).foldl (fun n v => n + (if preds then 1 else wordsOf v.ty)) 0
  lin.all fun i =>
    let srcs := i.srcs.filterMap fun s => match s with
      | .val v => some v
      | .lit _ => none
    let g := (i.guard.map fun g => g.1).toList
    let defs := if i.opc = 0xB8 then [] else i.defs
    if preds then
      decide (words (srcs ++ g) ≤ 1) && decide (words defs ≤ 1) && !(decide (0 < words g) && decide (0 < words defs))
    else decide (words srcs + (if i.wide then 2 else 0) ≤ 2) && decide (words defs ≤ 2)

/-- The eligible interval of greatest end among some, the higher value on ties. -/
def Scan.victim (x : Scan) (lin : List LIns) (preds : Bool) (cs : List Ival) : Option Ival :=
  (cs.filter fun c => spillsFit lin preds (c :: x.spilled)).foldl (fun best c =>
    match best with
    | none => some c
    | some b => if b.stop < c.stop ∨ (b.stop = c.stop ∧ b.key < c.key) then some c else some b) none

/-- Makes room for an interval and places it. -/
def Scan.fit (lin : List LIns) (preds : Bool) (pool : List Nat) (v : Ival) : Nat → Scan → Scan
  | 0, x => x
  | fuel + 1, x =>
    match x.free pool v with
    | some r => { x with active := x.active ++ [(v, r)], placed := (v.val, r) :: x.placed }
    | none =>
      match x.victim lin preds (v :: x.active.map Prod.fst) with
      | none => { x with fail := some (v.start / 2) }
      | some c =>
        let x := { x with spilled := c :: x.spilled }
        if c.val = v.val then x
        else Scan.fit lin preds pool v fuel { x with active := x.active.filter fun a => a.1.val != c.val }

/-- One step of the scan. -/
def Scan.next (lin : List LIns) (preds : Bool) (pool : List Nat) (x : Scan) (v : Ival) : Scan :=
  if x.fail.isSome then x
  else Scan.fit lin preds pool v (x.active.length + 2) { x with active := x.active.filter fun a => decide (v.start ≤ a.1.stop) }

/-- The scan of a pool. -/
def scanPool (lin : List LIns) (preds : Bool) (pool : List Nat) (vs : List Ival) : Scan :=
  (sortBy (fun (v : Ival) => v.start * 2 ^ 128 + v.key) vs).foldl (Scan.next lin preds pool) {}

/-- Spill words (R429): each spilled value, in order of its start, takes the lowest free word or even pair for its whole
interval; the instruction at which none was left. -/
def spillWords (vs : List Ival) : List (Ival × Nat) × Option Nat :=
  (sortBy (fun (v : Ival) => v.start * 2 ^ 128 + v.key) vs).foldl (fun (r : List (Ival × Nat) × Option Nat) v =>
    let busy := ((r.1.filter fun a => decide (v.start ≤ a.1.stop)).map heldBy).flatten
    let n := wordsOf v.ty
    match (List.range 64).find? fun w => w % n == 0 && (List.range n).all fun k => !busy.contains (w + k) with
    | some w => (r.1 ++ [(v, w)], r.2)
    | none => (r.1, if r.2.isNone then some (v.start / 2) else r.2)) ([], none)

/-- What stage 5 gives: the instructions, the intervals, the places, and the spill words used. -/
structure Allocated where
  unit : Inlined
  budget : Nat
  lin : List LIns
  types : List (Val × Nat)
  ivals : List Ival
  places : List (Val × Place)
  words : Nat

def Allocated.place (a : Allocated) (v : Val) : Place := (a.places.lookup v).getD .unused
def Allocated.ty (a : Allocated) (v : Val) : Nat := typeIn a.types v

/-- The refusal of a translation at an instruction. -/
def refuseAt (lin : List LIns) (code n : Nat) : KnitFail :=
  match lin[n]? with
  | some i => .refuse code i.func i.off
  | none => .refuse code 0 noOffset

/-- Stages 4 and 5 for a budget: the failure met first in the linear order, 0x44 before 0x45. -/
def allocate (u : Inlined) (budget : Nat) : Except KnitFail Allocated :=
  let lin := linear u
  let all := ivalsOf u lin
  let folded := foldedOf u lin
  let ivs := all.filter fun v => (folded.lookup v.val).isNone
  let m := scratchOf budget
  let vs := scanPool lin false ((List.range budget).filter fun r => r != m && r != m + 1) (ivs.filter fun v => v.ty != tI1)
  let ps := scanPool lin true (List.range 11) (ivs.filter fun v => v.ty == tI1)
  let words := spillWords (vs.spilled ++ ps.spilled)
  let fails := (vs.fail.toList ++ ps.fail.toList).map fun n => (n, 0x44)
  let fails := fails ++ (if fails = [] then words.2.toList.map fun n => (n, 0x45) else [])
  match sortBy (fun (f : Nat × Nat) => f.1 * 256 + f.2) fails with
  | f :: _ => .error (refuseAt lin f.2 f.1)
  | [] =>
    let slots := words.1.map fun w => (w.1.val, Place.word w.2)
    .ok { unit := u, budget := budget, lin := lin, types := typesOf u, ivals := all
          places := folded.map (fun c => (c.1, Place.konst c.2)) ++ slots
            ++ vs.placed.map (fun p => (p.1, Place.reg p.2)) ++ ps.placed.map (fun p => (p.1, Place.pred p.2))
          words := (words.1.map fun w => w.2 + wordsOf w.1.ty).foldl Nat.max 0 }

end Sys2Proof.Machine
end

