-- ==== Sys2Proof/Machine/KnitSched.lean ====
section
/-! DEFINITION. Stage 6 of the knitter (spec/16_knitter.md R429 to R433): native operations with spill accesses, fallbacks
and edge moves, and the scheduling of each block. -/
namespace Sys2Proof.Machine

/-! ### Native operations -/

/-- A native operand place: a register, an even pair, a predicate. -/
inductive NLoc where
  | reg (n : Nat)
  | pair (n : Nat)
  | pred (n : Nat)
  deriving DecidableEq, Repr

/-- The start of a piece of native code: a block, the edge block of a block's successor, a link of a lowered brt. -/
inductive NLabel where
  | block (b : Nat)
  | edge (b k : Nat)
  | link (b k : Nat)
  deriving DecidableEq, Repr

/-- A native source: a place, a literal, a bundle index to be filled in, a spill word. -/
inductive NSrc where
  | loc (l : NLoc)
  | lit (x : Nat)
  | goto (l : NLabel)
  | word (w : Nat)
  deriving DecidableEq, Repr

/-- A native operation: the fields of its slot, its destinations with their latencies (whether fixed), and the Delaro
instruction it belongs to. `ordered` marks the Delaro instructions of slots F, M, X and C. -/
structure NOp where
  opc : Nat
  form : Nat := 0
  attr : Option Nat := none
  guard : Option (Nat × Nat) := none
  dst : List (Option NLoc) := []
  src : List NSrc := []
  lats : List (Nat × Bool) := []
  lin : Nat
  ordered : Bool := false
  deriving DecidableEq, Repr

/-- The slot of an opcode (Table 1.4): I, F, M, X, C. -/
def slotOf (opc : Nat) : Nat :=
  if opc < 0x40 then 0 else if opc < 0x80 then 1 else if opc < 0xA8 then 2 else if opc < 0xB8 then 3 else 4

/-- L of R431. -/
def NOp.lat (o : NOp) : Nat := if o.lats = [] then 1 else (o.lats.map Prod.fst).foldl Nat.max 1
/-- It is a fixed-latency instruction. -/
def NOp.fixed (o : NOp) : Bool := o.lats.any Prod.snd

/-- Numbers of the registers and predicates of a place. -/
def NLoc.cells : NLoc → List Nat
  | .reg n => [n]
  | .pair n => [n, n + 1]
  | .pred n => [1000 + n]

/-- What an operation reads. -/
def NOp.reads (o : NOp) : List Nat :=
  (o.src.map fun s => match s with
    | .loc l => l.cells
    | .lit _ | .goto _ | .word _ => []).flatten ++ (o.guard.map fun g => 1000 + g.1).toList

/-- What an operation writes, with the latency of each. -/
def NOp.writes (o : NOp) : List (Nat × Nat) :=
  ((List.zip o.dst o.lats).map fun d => match d.1 with
    | some l => l.cells.map fun c => (c, d.2.1)
    | none => []).flatten

/-- The latency with which the knitter schedules a variable result (R431). `p` is the type of a pointer operand. -/
def plannedLatency (ident opc p : Nat) : Nat :=
  let b := ident / 16 == 1
  let own := if b then 12 else 10
  let l1 := if b then 28 else 24
  if [0x80, 0x82, 0x88, 0x8A].contains opc then own
  else if [0x81, 0x83, 0x89, 0x8B, 0x95].contains opc then l1
  else if 0x98 ≤ opc ∧ opc ≤ 0xA3 then (if p = tPtrL then (if b then 14 else 12) else if b then 106 else 100)
  else if [0xE8, 0xDA, 0xFA].contains opc then (if p = tPtrL then own else l1) + 8
  else variableLatency ident opc

/-- Latency of an integer result, by the die. -/
def intLatency (ident : Nat) : Nat := fixedLatency ident 0x3E tI32 0

/-! ### Small operations -/

/-- What the emission of a piece of code knows. -/
structure EmitCx where
  a : Allocated
  ident : Nat

def EmitCx.scratch (x : EmitCx) : Nat := scratchOf x.a.budget

/-- A register place of a type. -/
def regLoc (ty n : Nat) : NLoc := if wordsOf ty = 2 then .pair n else .reg n
/-- The type under which a value is held in registers or spill words: an i1 is held there as an i32. -/
def wordTy (ty : Nat) : Nat := if ty = tI1 then tI32 else ty

/-- An integer operation of the knitter's own. -/
def EmitCx.own (x : EmitCx) (lin opc form attr : Nat) (dst : NLoc) (src : List NSrc) : NOp :=
  { opc := opc, form := form, attr := some attr, dst := [some dst], src := src, lats := [(intLatency x.ident, true)], lin := lin }

/-- A spill store and a reload (R429): bit [7] of the second memory byte is set. -/
def EmitCx.store (_ : EmitCx) (lin ty w n : Nat) : NOp :=
  { opc := 0x84, form := ty, attr := some 0x8000, src := [.word w, .loc (regLoc ty n)], lin := lin }
def EmitCx.reload (x : EmitCx) (lin ty w n : Nat) : NOp :=
  { opc := 0x80, form := ty, attr := some 0x8000, dst := [some (regLoc ty n)], src := [.word w]
    lats := [(plannedLatency x.ident 0x80 tPtrL, false)], lin := lin }

/-- cmp.ne of a word with 0 into a predicate; sel.i32 of 1 or 0 by a predicate. -/
def EmitCx.toPred (x : EmitCx) (lin p n : Nat) : NOp := x.own lin 0x22 tI32 1 (.pred p) [.loc (.reg n), .lit 0]
def EmitCx.ofPred (x : EmitCx) (lin n p : Nat) : NOp := x.own lin 0x24 tI32 0 (.reg n) [.loc (.pred p), .lit 1, .lit 0]

/-- The operations of one move (R430). -/
def EmitCx.move (x : EmitCx) (lin ty : Nat) (d s : Place) : List NOp :=
  let t := wordTy ty
  let tmp := if wordsOf t = 2 then x.scratch else x.scratch + 1
  let const (form : Nat) (d : NLoc) (v : Nat) : NOp := x.own lin 0x27 form 0 d [.lit (v % 2 ^ 52)]
  match d, s with
  | .reg n, .reg k => [x.own lin 0x3E t 0 (regLoc t n) [.loc (regLoc t k)]]
  | .reg n, .word w => [x.reload lin t w n]
  | .reg n, .konst v => [const t (regLoc t n) v]
  | .reg n, .pred p => [x.ofPred lin n p]
  | .pred p, .pred q => [x.own lin 0x3E tI1 0 (.pred p) [.loc (.pred q)]]
  | .pred p, .word w => [x.reload lin tI32 w (x.scratch + 1), x.toPred lin p (x.scratch + 1)]
  | .pred p, .reg n => [x.toPred lin p n]
  | .pred p, .konst v => [const tI1 (.pred p) v]
  | .word w, .reg n => [x.store lin t w n]
  | .word w, .word v => [x.reload lin t v tmp, x.store lin t w tmp]
  | .word w, .pred p => [x.ofPred lin tmp p, x.store lin t w tmp]
  | .word w, .konst v => [const t (regLoc t tmp) v, x.store lin t w tmp]
  | .unused, _ | .konst _, _ | _, .unused => []

/-! ### Parallel moves (R430) -/

/-- A move: type, destination and source. -/
structure PMove where
  ty : Nat
  dst : Place
  src : Place
  deriving DecidableEq, Repr

/-- The cells of a location, in the order of R430. -/
def placeCells (ty : Nat) : Place → List Nat
  | .reg n => (List.range (wordsOf ty)).map fun k => n + k
  | .pred n => [1000 + n]
  | .word n => (List.range (wordsOf ty)).map fun k => 2000 + n + k
  | .konst _ | .unused => []

def PMove.into (p : PMove) : List Nat := placeCells p.ty p.dst
def PMove.outOf (p : PMove) : List Nat := placeCells p.ty p.src
def PMove.order (p : PMove) : Nat := (p.into.head?).getD 0

/-- One word of a 64-bit location. -/
def Place.half (k : Nat) : Place → Place
  | .reg n => .reg (n + k)
  | .word n => .word (n + k)
  | .konst v => .konst (v / 2 ^ (32 * k) % 2 ^ 32)
  | .pred n => .pred n
  | .unused => .unused

/-- The two halves of a 64-bit move. -/
def PMove.halves (p : PMove) : List PMove :=
  if wordsOf p.ty = 2 then [⟨tI32, p.dst.half 0, p.src.half 0⟩, ⟨tI32, p.dst.half 1, p.src.half 1⟩] else [p]

def overlap (xs ys : List Nat) : Bool := xs.any fun c => ys.contains c

/-- The move of lowest destination. -/
def lowestMove (ps : List PMove) : Option PMove :=
  ps.foldl (fun best p => match best with
    | none => some p
    | some b => if p.order < b.order then some p else some b) none

/-- The cycle on which a move lies. -/
def cycleOf (ps : List PMove) : Nat → PMove → List PMove → List PMove
  | 0, _, acc => acc
  | fuel + 1, p, acc =>
    match ps.find? fun q => overlap q.into p.outOf with
    | none => acc
    | some q => if acc.contains q then acc else cycleOf ps fuel q (acc ++ [q])

/-- The single moves of a parallel move, in order; none where two free spill words are wanted and there are not.
`m` is the scratch register and `spare` the spill words free at the edge. A cycle in which pairs and single words meet is
taken word by word. -/
def sequence (m : Nat) (spare : List Nat) : Nat → List PMove → Option (List PMove)
  | 0, _ => some []
  | fuel + 1, ps =>
    let ps := ps.filter fun p => p.dst != p.src && p.dst != .unused
    match lowestMove (ps.filter fun p => !(ps.any fun q => q != p && overlap q.outOf p.into)) with
    | some p => (sequence m spare fuel (ps.erase p)).map fun r => p :: r
    | none =>
      match lowestMove ps with
      | none => some []
      | some p =>
        if ps.any fun q => q != p && q.src != p.dst && overlap q.outOf p.into then
          sequence m spare fuel (ps.map PMove.halves).flatten
        else
          let via (t : Place) : Option (List PMove) :=
            let ps' := ps.map fun q => if q.src = p.dst then { q with src := t } else q
            (sequence m spare fuel ps').map fun r => ⟨p.ty, t, p.dst⟩ :: r
          match p.dst with
          | .pred _ => via (.pred 11)
          | _ =>
            if wordsOf p.ty = 1 then via (.reg m)
            else if !((cycleOf ps (ps.length + 1) p [p]).any fun q => match q.dst, q.src with
                | .word _, .word _ => true
                | _, _ => false) then via (.reg m)
            else
              match spare with
              | w :: v :: _ =>
                let ps' := (ps.map fun q => if q.src = p.dst then
                  [⟨tI32, q.dst.half 0, .word w⟩, ⟨tI32, q.dst.half 1, .word v⟩] else [q]).flatten
                (sequence m spare fuel ps').map fun r =>
                  ⟨tI32, .word w, p.dst.half 0⟩ :: ⟨tI32, .word v, p.dst.half 1⟩ :: r
              | _ => none

/-- The spill words that no value live at an instruction holds, and no move of a list. -/
def Allocated.spare (a : Allocated) (n : Nat) (ps : List PMove) : List Nat :=
  let used := (a.ivals.map fun v => match a.place v.val with
      | .word w => if v.start ≤ 2 * n ∧ 2 * n ≤ v.stop then placeCells v.ty (.word w) else []
      | _ => []).flatten ++ (ps.map fun p => p.into ++ p.outOf).flatten
  (List.range 64).filter fun w => !used.contains (2000 + w)

/-- The operations of a parallel move at instruction `n`; 0x45 where they need words that are not free. -/
def EmitCx.moves (x : EmitCx) (n : Nat) (ps : List PMove) : Except KnitFail (List NOp) :=
  match sequence x.scratch (x.a.spare n ps) (8 * ps.length + 8) ps with
  | none => .error (refuseAt x.a.lin 0x45 n)
  | some qs => .ok (qs.map fun p => x.move n p.ty p.dst p.src).flatten

/-! ### The operations of an instruction -/

/-- A spilled predicate is reloaded into P11 (R429). -/
def EmitCx.predOf (x : EmitCx) (n : Nat) (v : Val) : List NOp × Nat :=
  match x.a.place v with
  | .pred p => ([], p)
  | .word w => ([x.reload n tI32 w x.scratch, x.toPred n 11 x.scratch], 11)
  | .reg _ | .konst _ | .unused => ([], 11)

/-- The sources of an instruction: the reloads they need, and the operands. Predicates are reloaded first. -/
def EmitCx.sources (x : EmitCx) (n : Nat) (srcs : List LSrc) : List NOp × List NSrc :=
  let vals := (srcs.filterMap fun s => match s with
    | .val v => some v
    | .lit _ => none).eraseDups
  let spilled := vals.filterMap fun v => match x.a.place v with
    | .word w => some (v, w)
    | _ => none
  let ps := spilled.filter fun v => x.a.ty v.1 == tI1
  let vs := (spilled.filter fun v => x.a.ty v.1 != tI1).foldl (fun (r : List (Val × Nat × Nat) × Nat) v =>
    (r.1 ++ [(v.1, v.2, r.2)], r.2 + wordsOf (x.a.ty v.1))) ([], x.scratch)
  let ops := (ps.map fun v => (x.predOf n v.1).1).flatten ++ vs.1.map fun v => x.reload n (x.a.ty v.1) v.2.1 v.2.2
  (ops, srcs.map fun s => match s with
    | .lit k => .lit k
    | .val v => match x.a.place v with
      | .reg r => .loc (regLoc (x.a.ty v) r)
      | .pred p => .loc (.pred p)
      | .konst k => .lit (k % 2 ^ 52)
      | .word _ => if x.a.ty v = tI1 then .loc (.pred 11)
          else .loc (regLoc (x.a.ty v) (((vs.1.find? fun u => u.1 == v).map fun u => u.2.2).getD x.scratch))
      | .unused => .lit 0)

/-- The operand whose type names the space of an instruction (R488). -/
def spaceArg (opc : Nat) : Option Nat :=
  if 0x98 ≤ opc ∧ opc ≤ 0xA7 ∨ opc = 0xEC ∨ opc = 0xED ∨ opc = 0xFA then some 0
  else if [0xE9, 0xEE, 0xE8, 0xDA].contains opc then some 1 else none

/-- The type of that operand. -/
def EmitCx.spaceTy (x : EmitCx) (i : LIns) : Nat :=
  match (spaceArg i.opc).bind fun k => i.srcs[k]? with
  | some (.val v) => x.a.ty v
  | _ => tI32

/-- The 16-bit attribute value of an instruction (R396, R488); none for an opcode without attribute byte. -/
def EmitCx.attrOf (x : EmitCx) (i : LIns) : Option Nat :=
  if attrKind i.opc = .none then none
  else
    let base := leNat (attrBytes i.ins.attr)
    let bit := if 0x98 ≤ i.opc ∧ i.opc ≤ 0xA7 then 2 ^ 14 else 2 ^ 8
    some (base + if x.spaceTy i = tPtrG then bit else 0)

/-- Latencies of an instruction's results, and whether they are fixed. -/
def EmitCx.latsOf (x : EmitCx) (i : LIns) : List (Nat × Bool) :=
  let n := i.defs.length
  let pi := [0x82, 0x83, 0x86, 0x87].contains i.opc
  (List.range n).map fun k =>
    if pi && k + 1 == n then (intLatency x.ident, true)
    else if isFixed i.opc then (fixedLatency x.ident i.opc i.ins.form.toNat i.ins.attr.srcTy, true)
    else (plannedLatency x.ident i.opc (x.spaceTy i), false)

/-- A number that no literal gives, into a pair: each half by a const.i32 (log entry 35). -/
def EmitCx.wideConst (x : EmitCx) (lin n v : Nat) : List NOp :=
  [x.own lin 0x27 tI32 0 (.reg n) [.lit (v % 2 ^ 32)], x.own lin 0x27 tI32 0 (.reg (n + 1)) [.lit (v / 2 ^ 32 % 2 ^ 32)]]

/-- A const of 64 bits whose value is not its low 52 bits sign-extended is written half by half. Any other operation
stands as it is. -/
def EmitCx.halves (x : EmitCx) (o : NOp) : List NOp :=
  match o.opc, o.attr, o.dst, o.src with
  | 0x27, some 0, [some (.pair n)], [.lit v] =>
    if beyondLit v then x.wideConst o.lin n v else [o]
  | _, _, _, _ => [o]

/-- What an instruction needs beside itself because a native source carries no type and a literal only 52 bits (log
entries 24, 35): operations before it, its sources, operations after it. lea and ptradd read their index natively as an
i32: an i64 index is scaled and added beforehand, in the scratch pair; a sign-extended i8 or i16 offset is widened in its
own register, whose upper bits no other read sees (R397), and narrowed again after. A wide immediate comes from the
scratch pair. -/
def EmitCx.adapt (x : EmitCx) (n : Nat) (i : LIns) (dst : List (Option NLoc)) (srcs : List NSrc) :
    List NOp × List NSrc × List NOp :=
  let s := x.scratch
  let idxTy : Nat := match (i.srcs[1]? : Option LSrc) with
    | some (.val v) => x.a.ty v
    | _ => tI32
  match i.opc, srcs with
  | 0x28, base :: idx :: rest
  | 0x29, base :: idx :: rest =>
    if (idxTy == tI64 && i.ins.form.toNat == tPtrG) = true then
      let scale := if i.opc = 0x28 then 2 ^ i.ins.attr.low else 1
      ([{ x.own n 0x07 tI64 0 (.pair s) [idx, .lit scale, base] with lats := [(fixedLatency x.ident 0x07 tI64 0, true)] }],
        .loc (.pair s) :: .lit 0 :: rest, [])
    else if i.opc == 0x29 && i.ins.attr.sxBit && (idxTy == tI8 || idxTy == tI16) then
      match idx with
      | .lit v => ([], base :: .lit (IntOps.wrap 32 (IntOps.sext (tyBits idxTy) v)) :: rest, [])
      | .loc (.reg r) =>
        let ext (sx : Nat) : NOp := x.own n 0x25 tI32 (sx + 2 ^ 8 * idxTy) (.reg r) [.loc (.reg r)]
        let lost := r == s || r == s + 1 || dst.any fun d => (d.map fun d => d.cells.contains r).getD false
        ([ext 8], srcs, if lost then [] else [ext 0])
      | .loc _ | .goto _ | .word _ => ([], srcs, [])
    else ([], srcs, [])
  | _, _ =>
    if i.wide then
      ((srcs.map fun o => match o with
        | .lit v => if beyondLit v then x.wideConst n s v else []
        | .loc _ | .goto _ | .word _ => []).flatten,
       srcs.map fun o => match o with
        | .lit v => if beyondLit v then .loc (.pair s) else o
        | .loc _ | .goto _ | .word _ => o, [])
    else ([], srcs, [])

/-- The operations of an instruction that is no branch: the fallbacks placed first (R398), reloads, the instruction, and the
spill stores of its results, under its guard (R429). -/
def EmitCx.plainOps (x : EmitCx) (n : Nat) (i : LIns) : Except KnitFail (List NOp) :=
  let folded := match i.defs with
    | [v] => i.opc == 0x27 && (match x.a.place v with
        | .konst _ => true
        | _ => false)
    | _ => false
  if i.opc = 0xB8 || folded then .ok []
  else
    let falls := (List.zip i.defs i.falls).map fun p => (⟨x.a.ty p.1, x.a.place p.1, x.a.place p.2⟩ : PMove)
    match x.moves n falls with
    | .error e => .error e
    | .ok before =>
      let g := i.guard.map fun g => (x.predOf n g.1, g.2)
      let guard := g.map fun g => (g.1.2, g.2)
      let q := x.sources n i.srcs
      let res := i.defs.foldl (fun (r : List (Option NLoc) × List NOp × Nat) v =>
        let ty := x.a.ty v
        match x.a.place v with
        | .reg k => (r.1 ++ [some (regLoc ty k)], r.2)
        | .pred p => (r.1 ++ [some (.pred p)], r.2)
        | .konst _ | .unused => (r.1 ++ [none], r.2)
        | .word w =>
          if ty = tI1 then
            (r.1 ++ [some (.pred 11)], r.2.1 ++ [x.ofPred n r.2.2 11, x.store n tI32 w r.2.2], r.2.2 + 1)
          else (r.1 ++ [some (regLoc ty r.2.2)], r.2.1 ++ [x.store n ty w r.2.2], r.2.2 + wordsOf ty)) ([], [], x.scratch)
      let fit := x.adapt n i res.1 q.2
      let op : NOp :=
        { opc := i.opc, form := i.ins.form.toNat, attr := x.attrOf i, guard := guard, dst := res.1, src := fit.2.1
          lats := x.latsOf i, lin := n, ordered := decide (0x40 ≤ i.opc) && i.opc != 0xBE }
      .ok (before ++ (g.map fun g => g.1.1).getD [] ++ q.1 ++
        (fit.1 ++ x.halves op ++ fit.2.2 ++ res.2.1).map fun o => { o with guard := guard })

/-! ### Pieces of code (R430, R433) -/

/-- A piece of code scheduled on its own: where it starts, and the block it belongs to. -/
structure Seg where
  label : NLabel
  block : Nat
  ops : List NOp
  deriving DecidableEq, Repr

/-- The moves of an edge. -/
def EmitCx.edgeMoves (x : EmitCx) (t : Nat) (args : List Val) : List PMove :=
  match x.a.unit.blocks[t]? with
  | none => []
  | some b =>
    (args.zipIdx.map fun v =>
      let d : Val := (b.frame, b.argBase + v.2)
      (⟨x.a.ty d, x.a.place d, x.a.place v.1⟩ : PMove)).filter fun p => p.dst != p.src && p.dst != .unused

/-- Where successor `k` of a block goes: the block, or the edge block that holds its moves. -/
def EmitCx.labelOf (x : EmitCx) (b k : Nat) (j : Nat × List Val) : NLabel :=
  if x.edgeMoves j.1 j.2 = [] then .block j.1 else .edge b k

/-- The bundle a branch reconverges at (R399). -/
def EmitCx.reconOf (x : EmitCx) (b : Nat) : NSrc :=
  match (x.a.unit.recons.lookup b).getD none with
  | some r => .goto (.block r)
  | none => .lit 0xFFFFFF

def brOp (n : Nat) (l : NLabel) : NOp := { opc := 0xB9, attr := some 0, src := [.goto l], lin := n }

/-- The operations of a block's terminator, and the links of a lowered brt after the first. -/
def EmitCx.lastOps (x : EmitCx) (n : Nat) (i : LIns) : Except KnitFail (List NOp × List Seg) :=
  let target (k : Nat) : NSrc := match i.jumps[k]? with
    | some j => .goto (x.labelOf i.block k j)
    | none => .lit 0
  let rc := x.reconOf i.block
  if i.opc = 0xBE then (x.plainOps n i).map fun ops => (ops, [])
  else if i.opc = 0xB9 then
    match i.jumps with
    | j :: _ => (x.moves n (x.edgeMoves j.1 j.2)).map fun ops => (ops ++ [brOp n (.block j.1)], [])
    | [] => .ok ([], [])
  else if i.opc = 0xBA then
    let cond := match i.srcs with
      | .val v :: _ => x.predOf n v
      | _ => ([], 11)
    let pol := (i.ins.attr.ctlByte.toNat % 2)
    .ok (cond.1 ++ [{ opc := 0xBA, attr := some pol, guard := some (cond.2, pol)
                      src := if pol = 0 then [target 0, target 1, rc] else [target 1, target 0, rc], lin := n }], [])
  else
    let m := i.jumps.length - 1
    let link (j : Nat) : List NOp :=
      let q := x.sources n i.srcs
      q.1 ++ [x.own n 0x22 tI32 0 (.pred 11) (q.2 ++ [.lit j]),
        { opc := 0xBA, attr := some 0, guard := some (11, 0), lin := n
          src := [target j, if j + 1 < m then .goto (.link i.block (j + 1)) else target m, rc] }]
    .ok (link 0, (List.range (m - 1)).map fun j => ⟨.link i.block (j + 1), i.block, link (j + 1)⟩)

/-- The edge blocks of a block's branch: the moves and a br. -/
def EmitCx.edgeSegs (x : EmitCx) (n : Nat) (i : LIns) : Except KnitFail (List Seg) :=
  if i.jumps.length ≤ 1 then .ok []
  else
    i.jumps.zipIdx.foldl (fun (r : Except KnitFail (List Seg)) j =>
      match r with
      | .error e => .error e
      | .ok segs =>
        let ps := x.edgeMoves j.1.1 j.1.2
        if ps = [] then .ok segs
        else (x.moves n ps).map fun ops => segs ++ [⟨.edge i.block j.2, i.block, ops ++ [brOp n (.block j.1.1)]⟩]) (.ok [])

/-- The pieces of a block: the block with the links of its brt, and its edge blocks. -/
def EmitCx.blockSegs (x : EmitCx) (b : Nat) : Except KnitFail (List Seg × List Seg) :=
  let first := firstOf x.a.lin b
  let is := (x.a.lin.zipIdx).filter fun i => i.1.block == b
  let body := (is.take (is.length - 1)).foldl (fun (r : Except KnitFail (List NOp)) i =>
    match r with
    | .error e => .error e
    | .ok ops => (x.plainOps i.2 i.1).map fun os => ops ++ os) (.ok [])
  match body, is.getLast? with
  | .error e, _ => .error e
  | .ok ops, none => .ok ([⟨.block b, b, ops⟩], [])
  | .ok ops, some i =>
    match x.lastOps (first + is.length - 1) i.1, x.edgeSegs (first + is.length - 1) i.1 with
    | .ok q, .ok es => .ok (⟨.block b, b, ops ++ q.1⟩ :: q.2, es)
    | .error e, _ | _, .error e => .error e

/-- The pieces of a unit in the order in which their bundles stand: the blocks in linear order, each with the links of its
brt, and then the edge blocks. -/
def EmitCx.segments (x : EmitCx) : Except KnitFail (List Seg) :=
  (x.a.unit.order.foldl (fun (r : Except KnitFail (List Seg × List Seg)) b =>
    match r with
    | .error e => .error e
    | .ok q => (x.blockSegs b).map fun p => (q.1 ++ p.1, q.2 ++ p.2)) (.ok ([], []))).map fun q => q.1 ++ q.2

/-! ### Scheduling (R431, R432) -/

/-- A constraint on operation `i` from an earlier operation `j`: `j` is placed, and the cycle of `i` plus `a` is at least
that of `j` plus `b`. -/
structure Dep where
  j : Nat
  a : Nat
  b : Nat
  deriving DecidableEq, Repr

/-- The last operation before `i` that writes a cell. -/
def lastWriter (ops : List NOp) (i c : Nat) : Option (Nat × NOp) :=
  (((List.range i).reverse.zip (ops.take i).reverse).find? fun o => o.2.writes.any fun w => w.1 == c)

/-- The constraints on operation `i`: the results it reads; the readers and the earlier writes of what it writes, never in
one bundle with them (R413); earlier operations of its slot M, X or C; and program order among the instructions of slots F,
M, X and C, in which one shares the cycle of an earlier one of slot F only, and mode.set, mode.get and flags.clr not even
that. -/
def depsOf (ops : List NOp) (i : Nat) (o : NOp) : List Dep :=
  let flow := o.reads.filterMap fun c => (lastWriter ops i c).map fun w => ⟨w.1, 0, (w.2.writes.lookup c).getD 1⟩
  let before := (ops.take i).zipIdx
  let later := before.map fun p =>
    (if o.writes.any fun w => p.1.reads.contains w.1 then [(⟨p.2, 0, 0⟩ : Dep)] else [])
    ++ (o.writes.filterMap fun w => (p.1.writes.lookup w.1).map fun l => (⟨p.2, w.2, Nat.max (l + 1) (w.2 + 1)⟩ : Dep))
    ++ (if slotOf o.opc = slotOf p.1.opc ∧ 2 ≤ slotOf o.opc then [⟨p.2, 0, 1⟩] else [])
    ++ (if o.ordered && p.1.ordered then
          [⟨p.2, 0, if slotOf p.1.opc = 1 && !([0xC8, 0xC9, 0xD5].contains o.opc) then 0 else 1⟩] else [])
  flow ++ later.flatten

/-- Priorities, from the last operation backwards (R431). -/
def prioritiesFrom (ops : List NOp) : Nat → List (Nat × Nat) → List (Nat × Nat)
  | 0, done => done
  | i + 1, done =>
    match ops[i]? with
    | none => prioritiesFrom ops i done
    | some o =>
      let users := done.filter fun d => match ops[d.1]? with
        | some q => q.reads.any fun c => (lastWriter ops d.1 c).any fun w => w.1 == i
        | none => false
      prioritiesFrom ops i ((i, o.lat + (users.map Prod.snd).foldl Nat.max 0) :: done)

/-- A schedule in progress: the cycle of each operation placed, and the attribute table. -/
structure Sched where
  cycles : List (Nat × Nat) := []
  attrs : List Nat
  deriving DecidableEq, Repr

/-- The literals an operation demands (R396). -/
def Sched.demands (x : Sched) (o : NOp) : Nat :=
  (o.src.filter fun s => match s with
    | .lit _ | .goto _ => true
    | .loc _ | .word _ => false).length
  + (if 3 < o.src.length ∨ 1 < o.dst.length then 1 else 0)
  + (match o.attr with
    | some v => if !x.attrs.contains v && decide (31 ≤ x.attrs.length) then 1 else 0
    | none => 0)

/-- Operation `i` is ready in cycle `t`. -/
def Sched.ready (x : Sched) (ops : List NOp) (deps : List Dep) (o : NOp) (t : Nat) : Bool :=
  let here := (x.cycles.filter fun c => c.2 == t).filterMap fun c => ops[c.1]?
  (deps.all fun d => match x.cycles.lookup d.j with
    | some c => decide (c + d.b ≤ t + d.a)
    | none => false)
  && !(here.any fun q => slotOf q.opc == slotOf o.opc)
  && (!o.fixed || decide ((x.cycles.filter fun c => match ops[c.1]? with
      | some q => q.fixed && decide (t < c.2 + q.lat)
      | none => false).length < 16))
  && decide ((here.map x.demands).foldl (· + ·) 0 + x.demands o + here.length + 1 ≤ 5)

/-- Places an operation. -/
def Sched.put (x : Sched) (i : Nat) (o : NOp) (t : Nat) : Sched :=
  { cycles := (i, t) :: x.cycles
    attrs := match o.attr with
      | some v => if x.attrs.contains v || decide (31 ≤ x.attrs.length) then x.attrs else x.attrs ++ [v]
      | none => x.attrs }

/-- Fills one cycle: for each slot, the ready operation of highest priority, the earliest on ties. -/
def Sched.fill (ops : List NOp) (deps : List (List Dep)) (prio : List (Nat × Nat)) (t : Nat) (x : Sched) : Sched :=
  (List.range 5).foldl (fun x slot =>
    let cand := (ops.take (ops.length - 1)).zipIdx.filter fun o =>
      slotOf o.1.opc == slot && (x.cycles.lookup o.2).isNone && x.ready ops ((deps[o.2]?).getD []) o.1 t
    match cand.foldl (fun best o => match best with
        | none => some o
        | some b => if countOf b.2 prio < countOf o.2 prio then some o else some b) none with
    | some o => x.put o.2 o.1 t
    | none => x) x

/-- Fills cycles until every operation but the last is placed. -/
def Sched.run (ops : List NOp) (deps : List (List Dep)) (prio : List (Nat × Nat)) : Nat → Nat → Sched → Sched
  | 0, _, x => x
  | fuel + 1, t, x =>
    if x.cycles.length + 1 ≥ ops.length then x else Sched.run ops deps prio fuel (t + 1) (Sched.fill ops deps prio t x)

/-- A bundle before it is written out: its operations in slot order, its cycle in its piece, and DELAY. -/
structure SBundle where
  ops : List NOp
  cycle : Nat
  delay : Nat
  deriving DecidableEq, Repr

/-- Schedules a piece: its bundles and the attribute table after it. -/
def schedule (attrs : List Nat) (ops : List NOp) : List SBundle × List Nat :=
  let deps := ops.zipIdx.map fun o => depsOf ops o.2 o.1
  let prio := prioritiesFrom ops ops.length []
  let fuel := (ops.map fun o => o.lat + 6).foldl (· + ·) 8
  let x := Sched.run ops deps prio fuel 0 { attrs := attrs }
  let last := (x.cycles.map Prod.snd).foldl Nat.max 0
  let n := ops.length - 1
  let x := match ops[n]? with
    | none => x
    | some o => match (List.range fuel).find? fun k => x.ready ops ((deps[n]?).getD []) o (last + k) with
      | some k => x.put n o (last + k)
      | none => x
  let times := sortBy id (x.cycles.map Prod.snd).eraseDups
  let landed := (maxOf ((x.cycles.map fun c => match ops[c.1]? with
      | some o => (o.lats.filter Prod.snd).map fun l => c.2 + l.1
      | none => []).flatten)).getD 0
  let bundles := times.zipIdx.map fun t =>
    let mine := sortBy (fun (o : NOp) => slotOf o.opc) ((x.cycles.filter fun c => c.2 == t.1).filterMap fun c => ops[c.1]?)
    { ops := mine, cycle := t.1
      delay := match times[t.2 + 1]? with
        | some u => u - t.1
        | none => Nat.max 1 (landed - t.1) : SBundle }
  (bundles, x.attrs)

end Sys2Proof.Machine
end

