-- ==== Sys2Proof/Machine/Native.lean ====
section
/-! DEFINITION. The native level: reading a bundle and its slots, and the causes of NATIVE_CHECK that the bundle alone
shows (spec/15_issue_engine.md R393 to R397, R399, R413, R488; spec/16_knitter.md R429). -/
namespace Sys2Proof.Machine

/-- A slot that holds an instruction: its number, opcode and fields, the word of a spill access, and what it reads and
writes. -/
structure Slot where
  num : Nat
  opc : Nat
  ins : Ins
  spill : Option Nat := none
  guard : Option Nat := none
  reads : List Loc := []
  writes : List Loc := []
  deriving DecidableEq, Repr

/-- A bundle (R393, R394). -/
structure Bundle where
  kind : Nat
  ravel : Nat
  delay : Nat
  slots : List Slot
  literals : Nat
  deriving DecidableEq, Repr

/-- How many sources and results an opcode's form can have, whatever its attribute byte. -/
def arity (opc form : Nat) : Nat × Nat :=
  ((List.range 8).filterMap fun low => sig opc form (.arith 0 false false (BitVec.ofNat 3 low))).foldl
    (fun n s => (Nat.max n.1 s.args.length, Nat.max n.2 s.res.length)) (0, 0)

/-- What a source field of an operand names: whether a predicate, and its width in bits. A pointer whose type the opcode
leaves open takes the space bit (R488). -/
def ArgReq.native (q : ArgReq) (space : Option Bool) : Bool × Nat :=
  match q with
  | .v [t] => (t == tI1, tyBits t)
  | .v ts => (false, if ts = tysPtr ∧ space = some true then 64 else 32)
  | .i lo hi => if lo = -1 ∧ hi = 1 then (true, 1) else (false, if 2 ^ 32 ≤ hi then 64 else 32)
  | .f n => (false, 8 * n)
  | .x => (false, 8)

/-- Table 15.10: a predicate field above 11, a register field of 64 bits that is odd or above 252, or a register field at
or above the budget. -/
def fieldOk (pred : Bool) (bits budget n : Nat) : Bool :=
  if pred then decide (n ≤ 11)
  else decide (n < budget) && (bits != 64 || (n % 2 == 0 && decide (n ≤ 252)))

/-- What a register or predicate field names. -/
def fieldLocs (pred : Bool) (bits n : Nat) : List Loc := if pred then [.pred n] else locParts (.reg n) bits

/-- The fields of some sources with the literals they take, in turn; none where no literal is left (R396). -/
def takeFields : List Nat → List Nat → Option (List (Nat × Option Nat) × List Nat)
  | [], ls => some ([], ls)
  | f :: fs, ls =>
    if f = 255 then
      match ls with
      | [] => none
      | l :: rest => (takeFields fs rest).map fun q => ((f, some l) :: q.1, q.2)
    else (takeFields fs ls).map fun q => ((f, none) :: q.1, q.2)

/-- Takes one literal when it is demanded. -/
def takeOne (want : Bool) (ls : List Nat) : Option (Nat × List Nat) :=
  if want then (match ls with
    | [] => none
    | l :: rest => some (l, rest))
  else some (0, ls)

/-- The native space bit of an opcode's attribute value (R488). -/
def spaceOf (opc attr : Nat) : Option Bool :=
  if 0x98 ≤ opc ∧ opc ≤ 0xA7 then some (attr / 2 ^ 14 % 2 == 1)
  else if [0xE9, 0xEE, 0xEC, 0xED, 0xE8, 0xDA, 0xFA].contains opc then some (attr / 2 ^ 8 % 2 == 1)
  else none

/-- A native source operand. -/
def nativeOpnd (pred : Bool) (f : Nat × Option Nat) : Opnd :=
  match f.2 with
  | some l => .lit l
  | none => if pred then .pred f.1 else .reg f.1

/-- The operands of a slot: each source with what it reads; none where a field is refused. -/
def nativeArgs (budget : Nat) (space : Option Bool) : List ArgReq → List (Nat × Option Nat) → Option (List (Opnd × List Loc))
  | [], _ => some []
  | _ :: _, [] => some []
  | q :: qs, f :: fs =>
    let n := ArgReq.native q space
    if f.2.isNone && !fieldOk n.1 n.2 budget f.1 then none
    else (nativeArgs budget space qs fs).map fun r =>
      (nativeOpnd n.1 f, if f.2.isSome then [] else fieldLocs n.1 n.2 f.1) :: r

/-- The destinations of a slot; 255 discards. -/
def nativeDsts (budget : Nat) : List Nat → List Nat → Option (List Loc)
  | [], _ => some []
  | _ :: _, [] => some []
  | t :: ts, d :: ds =>
    if d = 255 then nativeDsts budget ts ds
    else if !fieldOk (t == tI1) (tyBits t) budget d then none
    else (nativeDsts budget ts ds).map fun r => fieldLocs (t == tI1) (tyBits t) d ++ r

/-- A slot word, taken apart (Table 15.3). -/
structure SlotWord where
  opc : Nat
  form : Nat
  pol : Nat
  gix : Nat
  dst : Nat
  src : List Nat
  mod : Nat

def slotWord (x : Nat) : SlotWord :=
  { opc := x / 2 ^ 48 % 256, form := x / 2 ^ 42 % 64, pol := x / 2 ^ 41 % 2, gix := x / 2 ^ 37 % 16
    dst := x / 2 ^ 29 % 256, src := [x / 2 ^ 21 % 256, x / 2 ^ 13 % 256, x / 2 ^ 5 % 256], mod := x % 32 }

/-- The literal of a literal slot (R396). -/
def literalOf (x : Nat) : Nat := x / 2 ^ 41 % 2 ^ 15 * 2 ^ 37 + x % 2 ^ 37

/-- A br or brc (R399): its sources are bundle indices, and brc's condition stands in GIX. -/
def branchSlot (w : SlotWord) (fs : List (Nat × Option Nat)) : Option Slot :=
  let tgt := fs.map fun f => nativeOpnd false f
  if w.opc = 0xB9 then some { num := 4, opc := 0xB9, ins := { src := tgt } }
  else if 11 < w.gix then none
  else some { num := 4, opc := 0xBA, ins := { src := .pred w.gix :: tgt, attr := .ctl (BitVec.ofNat 8 w.pol) }
              reads := [.pred w.gix] }

/-- Reads the instruction of a slot, with the literals it takes from the list; none for a cause of Table 15.10. A form
that the opcode does not accept counts as one (log entry 30). -/
def readSlot (attrs : List (BitVec 16)) (budget num : Nat) (w : SlotWord) (ls : List Nat) : Option (Slot × List Nat) :=
  if slotOf w.opc ≠ num ∨ [0xB8, 0xBB, 0xBC, 0xBD].contains w.opc then none
  else
    let ar := if w.opc = 0xBA then (3, 0) else if w.opc = 0xB9 then (1, 0) else arity w.opc w.form
    match takeFields (w.src.take ar.1) ls with
    | none => none
    | some (fs, ls) =>
      match takeOne (decide (3 < ar.1) || decide (1 < ar.2)) ls with
      | none => none
      | some (x, ls) =>
        match takeFields ([x % 256, x / 2 ^ 8 % 256].take (ar.1 - 3)) ls with
        | none => none
        | some (more, ls) =>
          let plain := attrKind w.opc == .none
          match takeOne (!plain && w.mod == 31) ls with
          | none => none
          | some (lit, ls) =>
            let av := if plain then some 0 else if w.mod = 31 then some (lit % 2 ^ 16) else (attrs[w.mod]?).map BitVec.toNat
            match av with
            | none => none
            | some av =>
              if w.opc = 0xB9 ∨ w.opc = 0xBA then (branchSlot w fs).map fun s => (s, ls)
              else
                match readAttr w.opc (toBytes 2 av) with
                | none => none
                | some (a, _, _) =>
                  match sig w.opc w.form a with
                  | none => none
                  | some sg =>
                    let space := spaceOf w.opc av
                    let spill := (w.opc == 0x80 || w.opc == 0x84) && av / 2 ^ 15 == 1
                    let fields := fs ++ more
                    let dsts := w.dst :: [x / 2 ^ 16 % 256, x / 2 ^ 24 % 256, x / 2 ^ 32 % 256]
                    let first := if spill then [(.lit 0, [])] else ([] : List (Opnd × List Loc))
                    let k := first.length
                    match nativeArgs budget space (sg.args.drop k) (fields.drop k), nativeDsts budget sg.res dsts with
                    | some args, some writes =>
                      let args := first ++ args
                      let ins : Ins :=
                        { guard := if 11 < w.gix then .always
                                   else if w.pol = 0 then .whenTrue (.pred w.gix) else .whenFalse (.pred w.gix)
                          form := BitVec.ofNat 6 w.form, attr := a, src := args.map Prod.fst, dst := dsts.take sg.res.length
                          space := space }
                      some ({ num := num, opc := w.opc, ins := ins, writes := writes
                              spill := if spill then (fs.head?).map Prod.fst else none
                              guard := if 11 < w.gix then none else some w.gix
                              reads := (args.map Prod.snd).flatten }, ls)
                    | _, _ => none

/-- The instructions of the slots in order, sharing one list of literals. -/
def readSlots (attrs : List (BitVec 16)) (budget : Nat) : List (Nat × SlotWord) → List Nat → Option (List Slot)
  | [], _ => some []
  | w :: ws, ls =>
    if 13 ≤ w.2.gix then readSlots attrs budget ws ls
    else
      match readSlot attrs budget w.1 w.2 ls with
      | none => none
      | some (s, ls) => (readSlots attrs budget ws ls).map fun r => s :: r

/-- No entry stands twice. -/
def distinct : List Loc → Bool
  | [] => true
  | l :: ls => !ls.contains l && distinct ls

/-- The branch targets of a slot lie within a translation of `n` bundles. -/
def Slot.inRange (s : Slot) (n : Nat) : Bool :=
  let ok (o : Opnd) : Bool := match o with
    | .lit x => decide (x % 2 ^ 24 < n)
    | .val _ | .int _ | .raw _ | .idx _ | .reg _ | .pred _ => true
  let none_ (o : Opnd) : Bool := match o with
    | .lit x => x % 2 ^ 24 == 0xFFFFFF
    | .val _ | .int _ | .raw _ | .idx _ | .reg _ | .pred _ => false
  if s.opc = 0xB9 then s.ins.src.all ok
  else if s.opc = 0xBA then (s.ins.src.take 3).all ok && (s.ins.src.drop 3).all fun o => ok o || none_ o
  else true

/-- Reads a bundle of a translation; none for a cause of Table 15.10 that the bundle alone shows. -/
def Translation.bundle (t : Translation) (i : Nat) : Option Bundle :=
  match t.bundles[i]? with
  | none => none
  | some bs =>
    let h := ofBytes (bs.take 4)
    let words := (List.range 5).map fun k => ofBytes ((bs.drop (4 + 7 * k)).take 7)
    let ws := words.map slotWord
    let kind := h / 2 ^ 28
    let ravel := h / 2 ^ 16 % 2 ^ 12
    let msa := h / 2 ^ 4 % 16
    if 5 < kind ∨ 1 < msa ∨ h % 16 ≠ 0 ∨ (bs.drop 39).head? ≠ some 0 ∨ t.ravels.length ≤ ravel
        ∨ ws.any fun w => w.gix == 15 then none
    else
      let lits := (words.filter fun x => (slotWord x).gix == 14).map literalOf
      match readSlots t.attrs t.key.budget (ws.zipIdx.map fun w => (w.2, w.1)) lits with
      | none => none
      | some slots =>
        if distinct (slots.map Slot.writes).flatten && ((slots.any fun s => s.opc == 0xBA) == (msa == 1))
            && slots.all fun s => s.inRange t.bundles.length then
          some { kind := kind, ravel := ravel, delay := h / 2 ^ 8 % 256, slots := slots, literals := lits.length }
        else none

end Sys2Proof.Machine
end

