-- ==== Sys2Proof/Machine/Remap.lean ====
section
/-! DEFINITION. Native registers between translations (spec/16_knitter.md R440; spec/15_issue_engine.md R411, R412): what
lands, and how a stream saved at a ravel point of one translation stands in another. -/
namespace Sys2Proof.Machine

/-- A result is written, with its flags (R403); a variable one clears its pending bit. -/
def Stream.land (st : Stream) (x : Landing) : Stream :=
  let st := if x.lanes = 0 then st else st.put x.dst x.lanes x.val
  let st := if x.var then (st.landed x.dst).overtake x.lanes x.dst else st
  { st with mode := st.mode ||| (x.flags.setWidth 32 <<< (16 : Nat)) }

/-- Every result in flight is written. -/
def Stream.landAll (st : Stream) : Stream := st.landings.foldl Stream.land { st with landings := [] }

/-- The value of a record of a ravel entry, every lane (Table 16.4). -/
def RavelVal.read (v : RavelVal) (st : Stream) (lanes : Nat) : TVal :=
  let w := tyBits v.ty
  let word (l : Nat) : Nat := match v.loc with
    | 1 | 5 => st.getWide (.reg v.place) w l
    | 2 | 6 => (st.get (.pred v.place)).lane l % 2
    | 3 => (st.get (.spill v.place)).lane l + (if w = 64 then 2 ^ 32 * (st.get (.spill (v.place + 1))).lane l else 0)
    | 4 => v.const
    | _ => 0
  ⟨v.ty, (List.range lanes).map fun l => BitVec.ofNat 64 (word l)⟩

/-- Puts a value where a record of a ravel entry says. -/
def RavelVal.write (v : RavelVal) (x : TVal) (st : Stream) : Stream :=
  let all : BitVec 32 := BitVec.allOnes 32
  match v.loc with
  | 1 | 5 => st.putWide (.reg v.place) all x
  | 2 | 6 => st.put (.pred v.place) all x
  | 3 =>
    let low := st.put (.spill v.place) all ⟨tI32, x.lanes.map fun (w : Word) => w &&& 0xFFFFFFFF⟩
    if tyBits v.ty = 64 then low.put (.spill (v.place + 1)) all ⟨tI32, x.lanes.map fun (w : Word) => (w >>> (32 : Nat) : Word)⟩
    else low
  | _ => st

/-- Two entries name one position. -/
def RavelEntry.same (a b : RavelEntry) : Bool :=
  a.off == b.off && a.func == b.func && a.pkind == b.pkind && a.succ == b.succ && a.frames == b.frames

/-- The entry of a ravel point. -/
def Translation.entryAt (t : Translation) (i : Nat) : Option RavelEntry := t.ravels.find? fun e => e.bundle == i

/-- The lowest-index bundle of a translation that stands at the position of a ravel point of another. -/
def Translation.find (t old : Translation) (i : Nat) : Nat :=
  match old.entryAt i with
  | none => i
  | some e => ((t.ravels.find? fun x => x.same e).map RavelEntry.bundle).getD i

/-- The values a class 2 save reads, put where a new translation wants them, and every pc turned into its own (R440). -/
def Stream.remap (st : Stream) (old new : Translation) (lanes : Nat) : Stream :=
  if !st.native || st.finished then st
  else
    let here := st.landAll
    let at_ := new.find old st.bundle
    let clean := { here with file := [], pending := [], bundle := at_, delay := 0
                             stack := here.stack.map fun e => { e with pc := new.find old e.pc } }
    match old.entryAt st.bundle, new.entryAt at_ with
    | some a, some b =>
      b.vals.foldl (fun st v =>
        match a.vals.find? fun u => u.frame == v.frame && u.num == v.num with
        | some u => if u.loc = 0 then st else v.write (u.read here lanes) st
        | none => st) clean
    | _, _ => clean

/-- Where a location that holds a value at a ravel point of one translation holds it in another. -/
def Translation.mapLoc (new old : Translation) (i : Nat) (l : Loc) : Loc :=
  let holds (v : RavelVal) : Bool := match l with
    | .reg n => (v.loc == 1 || v.loc == 5) && v.place == n
    | .pred n => (v.loc == 2 || v.loc == 6) && v.place == n
    | .val .. | .spill _ => false
  match old.entryAt i, new.entryAt (new.find old i) with
  | some a, some b =>
    match (a.vals.find? holds).bind fun u => b.vals.find? fun v => u.frame == v.frame && u.num == v.num with
    | some v => if v.loc = 2 ∨ v.loc = 6 then .pred v.place else .reg v.place
    | none => .reg 255
  | _, _ => l

/-- The destinations of the accesses of a stream that wait for a page, in a new translation; they stay pending. -/
def State.remapAccs (s : State) (r : StreamRef) (old new : Translation) : State :=
  match s.stream? r with
  | none => s
  | some st =>
    if !st.native then s
    else
      let move (a : Acc) : Acc :=
        if a.ref = r ∧ !a.wb then { a with dsts := a.dsts.map fun d => (new.mapLoc old st.bundle d.1, d.2) } else a
      let s := { s with flights := s.flights.map move }
      let wait := ((s.flights.filter fun a => a.ref == r && !a.wb).map fun a =>
        (a.dsts.map fun d => locParts d.1 (tyBits d.2)).flatten).flatten
      s.modStream r fun st => { st.remap old new (laneCount r.idx) with pending := wait.filter fun l => l != .reg 255 }

/-- Moves the streams of a team that were saved under class 2 onto the translations they now have. -/
def State.remapTeam (s : State) (c : CoreRef) : State :=
  match s.team? c with
  | none => s
  | some t =>
    let s := match t.oldCtl, t.ctlUnit with
      | some old, some new => (s.remapAccs ⟨c.die, c.core, 32⟩ old new).modTeam c fun t => { t with oldCtl := none }
      | _, _ => s
    match t.oldGrp, t.grpUnit with
    | some old, some new =>
      ((List.range t.groups.length).foldl (fun s g => s.remapAccs ⟨c.die, c.core, g⟩ old new) s).modTeam c
        fun t => { t with oldGrp := none }
    | _, _ => s

end Sys2Proof.Machine
end

