-- ==== Sys2Proof/Machine/Copy.lean ====
section
/-! DEFINITION. The copy instructions (spec/10_copy_engine.md R278 to R291, R297): descriptors, the issue of commands with
their spills to the overflow ring, residual slots and status. How commands move data is in `Machine/CopyEvents.lean`. -/
namespace Sys2Proof.Machine

/-! ### Descriptors (R278, R280, R284) -/

/-- The fields of a descriptor (Table 10.1). -/
def descriptorOf (bs : List Byte) : Descriptor :=
  let cvt := fieldAt bs 66 1
  { ext := (List.range 4).map fun k => fieldAt bs (4 * k) 4
    sstr := (List.range 3).map fun k => IntOps.sext 64 (fieldAt bs (16 + 8 * k) 8)
    dstr := (List.range 3).map fun k => IntOps.sext 64 (fieldAt bs (40 + 8 * k) 8)
    stype := fieldAt bs 64 1, dtype := fieldAt bs 65 1
    cvtRm := cvt % 8, cvtSat := cvt / 16 % 2 == 1
    sfw := fieldAt bs 68 4, dfw := fieldAt bs 72 4, sscale := fieldAt bs 80 8, dscale := fieldAt bs 88 8 }

/-- Extent `k`. -/
def Descriptor.e (d : Descriptor) (k : Nat) : Nat := (d.ext[k]?).getD 1

/-- The pairs of types of Table 10.2. -/
def pairOk (s d : Nat) : Bool :=
  tysAll.contains s && tysAll.contains d && s != tI1 && d != tI1 &&
    (s == d || (isFloatTy s && isFloatTy d) || (isFloatTy s && d == tNf) || (s == tNf && isFloatTy d))

/-- The format word's block size; 0 without block scales (R167). -/
def blockSize (fw : Nat) : Nat :=
  match Fp.scaleOf fw with
  | 0 => 0
  | 1 => 32
  | _ => 16

/-- The reason code of a descriptor for slot `k`, 0 when it is valid (Table 10.5). -/
def descriptorReason (k : Nat) (bs : List Byte) : Nat :=
  let d := descriptorOf bs
  let word (t fw : Nat) : Bool := t != tNf || (Fp.narrowFmt fw).isSome
  let row (t fw : Nat) : Bool := t != tNf || d.e 0 * (fw % 16) % 8 == 0
  let scaled (t fw : Nat) : Bool := t != tNf || blockSize fw == 0 || d.e 0 % blockSize fw == 0
  let zeros (a n : Nat) : Bool := fieldAt bs a n == 0
  if 16 ≤ k then 1
  else if !(zeros 67 1 && zeros 76 4 && zeros 96 32 && fieldAt bs 66 1 / 32 == 0 && fieldAt bs 66 1 / 8 % 2 == 0) then 2
  else if d.ext.any (fun e => e == 0) || 2 ^ 32 ≤ d.ext.foldl (fun x y => x * y) 1 then 3
  else if !pairOk d.stype d.dtype then 4
  else if !(word d.stype d.sfw && word d.dtype d.dfw) then 5
  else if !(row d.stype d.sfw && row d.dtype d.dfw) then 6
  else if !(scaled d.stype d.sfw && scaled d.dtype d.dfw) || (d.dtype == tNf && Fp.scaleOf d.dfw == 3) then 7
  else if d.cvtRm = 7 then 8
  else 0

/-- A command in a queue, not complete, names the slot. -/
def CopyEngine.names (e : CopyEngine) (k : Nat) : Bool :=
  (e.ldq.cmds ++ e.stq.cmds).any fun c => c.slot == k && !(match c.op with
    | .fence _ => true
    | _ => false)

/-- cp.desc (R284). -/
def execCpDesc (i : Ins) (s : State) : Out :=
  withCx s fun c =>
    if !c.performs i then c.guardedOff 0xE8 i [tI32]
    else
      let k := c.warg i 0 32
      let glob := c.isGlobal i 1
      if c.t.copy.names k then c.block (.slot k)
      else c.readRecord glob 128 128 (c.warg i 1 (if glob then 64 else 32)) fun s bytes =>
        let why := descriptorReason k bytes
        let s := s.modTeam c.core fun t =>
          { t with copy := { t.copy with slots := setAt t.copy.slots k (if why = 0 then some (descriptorOf bytes) else none) } }
        .next (c.finishWide 0xE8 i [tI32] [why] s)

/-! ### Issue of a command (R24, R285, R291) -/

/-- The entries of a queue that stand in the overflow ring: all but the oldest 64. -/
def CopyQueue.spilled (x : CopyQueue) : Nat := x.cmds.length - 64

/-- Bytes of the team's overflow ring and its address (R24, R85). -/
def Cx.ring (c : Cx) : Nat × Nat :=
  let rec_ := ((c.s.launch? c.t.launch).map Launch.record).getD {}
  let units := Nat.max 1 rec_.ring
  (units * 65536, rec_.ringBase + (160 * c.r.die + c.r.core) * units * 65536)

/-- Every page of the ring is mapped and pinned. -/
def Cx.ringPinned (c : Cx) : Bool :=
  let r := c.ring
  (List.range (r.1 / 65536)).all fun k =>
    match (c.s.translate c.core c.t.asid (r.2 + 65536 * k)).1 with
    | .leaf f _ => leafPin f.entry
    | _ => false

/-- Takes an entry in each of some queues: goes on, blocks while the ring is full, or raises RING_FAULT at a spill to a
ring that is not mapped or not pinned (R24). -/
def Cx.withRoom (c : Cx) (qs : List Nat) (go : Out) : Out :=
  let spills := (qs.filter fun q => 64 ≤ (c.t.copy.queue q).cmds.length).length
  if spills = 0 then go
  else if !c.ringPinned then
    .next (c.s.takeTrap c.r { c.st.trapAt c.r.idx 0x48 with value := c.ring.2, lanes := maskOfList [c.lead] })
  else if c.ring.1 / 64 < c.t.copy.ldq.spilled + c.t.copy.stq.spilled + spills then c.block (.ring spills)
  else go

/-- The fields of the copy attribute byte (Table 10.3). -/
def cpPush (i : Ins) : Bool := i.attr.ctlByte.getLsbD 0
def cpPop (i : Ins) : Bool := i.attr.ctlByte.getLsbD 1
def cpScope (i : Ins) : Nat := (i.attr.ctlByte.extractLsb' 2 3).toNat
def cpSpec (i : Ins) : Bool := i.attr.ctlByte.getLsbD 5
def cpEf (i : Ins) : Bool := i.attr.ctlByte.getLsbD 6
def cpNorel (i : Ins) : Bool := i.attr.ctlByte.getLsbD 7

/-- The descriptor meets the limits of an operation's own row (R287, R288); no payload takes E4M3 scales (R282). -/
def Descriptor.fits (d : Descriptor) : CopyOp → Bool
  | .fill _ => d.stype == d.dtype
  | .red .. => d.stype == tF32 && [tF16, tBf16, tF32].contains d.dtype && (d.dfw == 0 || ((Fp.narrowFmt d.dfw).isSome && Fp.scaleOf d.dfw != 3))
  | .load | .store | .gg | .bcast | .gather _ | .scatter _ | .fence _ => true

/-- A release of a stream's earlier accesses, of every lane and class, at a scope (R291, R325). -/
def Cx.issueRelease (c : Cx) (scope : Nat) : State × Nat :=
  c.fenceOf false true scope (BitVec.allOnes 16) (BitVec.allOnes 32)

/-- Issues a copy command: its descriptor is read now, it joins its queue with its release, and CP is raised
(R285, R291, R297). A fault of an earlier copy is delivered first (R293): log entry 109 (DEDUCED). `dg` and `sg` tell whether the destination and
the source are global. -/
def copyOp (q : Nat) (i : Ins) (s : State) (dstArg srcArg slotArg : Nat) (dg sg : Cx → Bool) (op : Cx → CopyOp) : Out :=
  withCx s fun c =>
    if !c.performs i then c.guardedOff 0xE9 i []
    else c.unlessDue [4] <|
      if !c.st.hasRoom 4 then c.block (.room 4)
      else c.withRoom [q] <|
        let k := c.warg i slotArg 32
        let o := op c
        let desc := ((c.t.copy.slots[k]?).getD none).filter fun d => d.fits o
        let r := if cpNorel i then (s, 0) else c.issueRelease (cpScope i)
        let region := if cpSpec i && c.r.idx == 32 then c.t.matrix.region.map SpecRegion.num else none
        let addr (a : Nat) (glob : Bool) : BitVec 64 := BitVec.ofNat 64 (c.warg i a (if glob then 64 else 32))
        let cmd : CopyCmd :=
          { id := r.1.nextId, op := o, stream := c.r.idx, pos := ⟨c.st.func, c.st.off⟩, desc := desc, slot := k
            dst := addr dstArg (dg c), src := addr srcArg (sg c), dstG := dg c, srcG := sg c
            push := cpPush i, pop := cpPop i, scope := cpScope i, ef := cpEf i, spec := region
            release := if cpNorel i then none else some r.2 }
        let s := { r.1 with nextId := r.1.nextId + 1 }
        let s := s.modQueue c.core q fun x => { x with cmds := x.cmds ++ [cmd] }
        let s := match o with
          | .red slot _ => if slot < 8 then s.modTeam c.core fun t => { t with copy := { t.copy with
              residuals := modAt t.copy.residuals slot fun x => { x with key := cmd.dst, valid := true } } } else s
          | _ => s
        .next (s.modStream c.r fun st => (st.raise 4 cmd.id).retired)

/-- cp.ld (R286). -/
def execCpLd (i : Ins) (s : State) : Out :=
  copyOp 0 i s 0 1 2 (fun _ => false) (fun c => c.isGlobal i 1) fun _ => .load

/-- cp.st (R286). -/
def execCpSt (i : Ins) (s : State) : Out := copyOp 1 i s 0 1 2 (fun _ => true) (fun _ => false) fun _ => .store

/-- cp.gg (R286). -/
def execCpGg (i : Ins) (s : State) : Out := copyOp 0 i s 0 1 2 (fun _ => true) (fun _ => true) fun _ => .gg

/-- cp.red (R288): a residual slot is in use below 8, and keeps its contents when its key is the destination (R289). -/
def execCpRed (i : Ins) (s : State) : Out :=
  copyOp 0 i s 0 1 2 (fun c => c.isGlobal i 0) (fun _ => false) fun c =>
    let slot := c.warg i 3 32
    let x := (c.t.copy.residuals[slot]?).getD {}
    .red slot (x.valid && x.key == BitVec.ofNat 64 (c.warg i 0 (if c.isGlobal i 0 then 64 else 32)))

/-- cp.fill (R287). -/
def execCpFill (i : Ins) (s : State) : Out :=
  copyOp 0 i s 0 1 2 (fun c => c.isGlobal i 0) (fun _ => true) fun c => .fill (BitVec.ofNat 64 (c.warg i 1 64))

/-- cp.bcast (R286). -/
def execCpBcast (i : Ins) (s : State) : Out :=
  copyOp 0 i s 0 1 2 (fun _ => false) (fun c => c.isGlobal i 1) fun _ => .bcast

/-- cp.gat (R286). -/
def execCpGat (i : Ins) (s : State) : Out :=
  copyOp 0 i s 0 1 3 (fun _ => false) (fun _ => true) fun c => .gather (BitVec.ofNat 64 (c.warg i 2 32))

/-- cp.sct (R286). -/
def execCpSct (i : Ins) (s : State) : Out :=
  copyOp 1 i s 0 1 3 (fun _ => true) (fun _ => false) fun c => .scatter (BitVec.ofNat 64 (c.warg i 2 32))

/-- cp.fence: one entry in each queue, together (R290). -/
def execCpFence (i : Ins) (s : State) : Out :=
  withCx s fun c =>
    if !c.performs i then c.guardedOff 0xF1 i []
    else c.unlessDue [4] <| c.withRoom [0, 1] <|
      let n := c.t.copy.fences
      let entry (id : Nat) : CopyCmd :=
        { id := id, op := .fence n, stream := c.r.idx, pos := ⟨c.st.func, c.st.off⟩, desc := none, slot := 0, dst := 0
          src := 0, dstG := false, srcG := false, push := false, pop := false, scope := 0, ef := false, spec := none
          release := none }
      let add (x : CopyQueue) (id : Nat) : CopyQueue := { x with cmds := x.cmds ++ [entry id] }
      let s := { s with nextId := s.nextId + 2 }.modTeam c.core fun t =>
        { t with copy := { t.copy with fences := n + 1, ldq := add t.copy.ldq s.nextId, stq := add t.copy.stq (s.nextId + 1) } }
      .next (s.modStream c.r Stream.retired)

/-- cp.res (R289). -/
def execCpRes (i : Ins) (s : State) : Out :=
  withCx s fun c =>
    if !c.performs i then c.guardedOff 0xF2 i []
    else
      let s := s.modTeam c.core fun t => { t with copy := { t.copy with
        residuals := modAt t.copy.residuals (c.warg i 0 32) fun x =>
          { x with base := c.warg i 1 32 % 2 ^ 24, valid := false } } }
      .next (s.modStream c.r Stream.retired)

/-- The status of Table 10.6 at this point of a cycle: the sticky bits are those of the previous cycle's end and those set
since. -/
def CopyEngine.status (e : CopyEngine) : Nat :=
  e.ldq.cmds.length + 2 ^ 15 * e.stq.cmds.length + 2 ^ 30 * e.ldq.halted.isSome.toNat + 2 ^ 31 * e.stq.halted.isSome.toNat
    + 2 ^ 32 * (e.stat / 2 ^ 32 ||| (e.err.toNat + 2 * e.cvx.toNat + 2 ^ 6 * e.psn.toNat))

/-- The end of a cycle: cp.stat returns this state in the next one. -/
def CopyEngine.settle (e : CopyEngine) : CopyEngine := { e with stat := e.status, err := false, cvx := 0, psn := false }

/-- cp.stat; bit 0 is .clr, which keeps the bits set in this cycle (R297). -/
def execCpStat (i : Ins) (s : State) : Out :=
  withCx s fun c =>
    if !c.performs i then c.guardedOff 0xF3 i [tI64]
    else
      let s := if i.attr.ctlByte.getLsbD 0 then
        s.modTeam c.core fun t => { t with copy := { t.copy with stat := t.copy.stat % 2 ^ 32 } } else s
      .next (c.finishWide 0xF3 i [tI64] [c.t.copy.stat] s)

end Sys2Proof.Machine
end

