-- ==== Sys2Proof/Machine/Float.lean ====
section
/-! DEFINITION. The float engine (spec/06_float_engine.md): one meaning per instruction, over the element functions of
`Machine/FloatOps.lean` and `Machine/Special.lean`. -/
namespace Sys2Proof.Machine

/-- A special function of one operand (R202, R203). -/
def special (opc : Nat) (fn : SpecialFn) (i : Ins) (s : State) : Out :=
  floatwise opc i s fun f v _ x => Fp.special1 fn f v (x 0)

/-- A function of codes that raises no flag (R189). -/
def signwise (opc : Nat) (i : Ins) (s : State) (g : Fp.Fmt → (Nat → Nat) → Nat) : Out :=
  floatwise opc i s fun f _ _ x => (g f x, 0)

/-- A comparison by the condition in bits [2:0] (R190). -/
def floatCmp (opc : Nat) (i : Ins) (s : State) : Out :=
  lanewise opc i s [tI1] fun c l =>
    let r := Fp.cmp (fmtOf i.form.toNat) (c.env i) i.attr.low (c.arg i 0 (tyBits i.form.toNat) l)
      (c.arg i 1 (tyBits i.form.toNat) l)
    { vals := [r.1.toNat], flags := r.2 }

/-- ldexp: the exponent is a signed i32 (R200). -/
def scaleExp (opc : Nat) (i : Ins) (s : State) : Out :=
  lanewise opc i s [i.form.toNat] fun c l =>
    c.elements opc i l
      [fun u => Fp.scaleBy (fmtOf i.form.toNat) (c.env i) u (c.arg i 0 (tyBits i.form.toNat) l)
        (IntOps.sext 32 (c.arg i 1 32 l))] id

/-- add (R184, R185). -/
def execFadd (i : Ins) (s : State) : Out :=
  floatwise 0x40 i s fun f v u x => Fp.add f v u (x 0) (x 1)

/-- add# (R184, R185). -/
def execFaddImm (i : Ins) (s : State) : Out :=
  floatwise 0x70 i s fun f v u x => Fp.add f v u (x 0) (x 1)

/-- sub (R184, R185). -/
def execFsub (i : Ins) (s : State) : Out :=
  floatwise 0x41 i s fun f v u x => Fp.sub f v u (x 0) (x 1)

/-- mul (R184, R185). -/
def execFmul (i : Ins) (s : State) : Out :=
  floatwise 0x42 i s fun f v u x => Fp.mul f v u (x 0) (x 1)

/-- mul# (R184, R185). -/
def execFmulImm (i : Ins) (s : State) : Out :=
  floatwise 0x71 i s fun f v u x => Fp.mul f v u (x 0) (x 1)

/-- fma (R184, R185). -/
def execFma (i : Ins) (s : State) : Out :=
  floatwise 0x43 i s fun f v u x => Fp.fma f f v u (x 0) (x 1) (x 2)

/-- fma# (R184, R185). -/
def execFmaImm (i : Ins) (s : State) : Out :=
  floatwise 0x72 i s fun f v u x => Fp.fma f f v u (x 0) (x 1) (x 2)

/-- fnma (R185). -/
def execFnma (i : Ins) (s : State) : Out :=
  floatwise 0x44 i s fun f v u x => Fp.fnma f v u (x 0) (x 1) (x 2)

/-- div (R187). -/
def execFdiv (i : Ins) (s : State) : Out :=
  floatwise 0x45 i s fun f v u x => Fp.div f v u (x 0) (x 1)

/-- sqrt (R187). -/
def execSqrt (i : Ins) (s : State) : Out :=
  floatwise 0x46 i s fun f v u x => Fp.sqrt f v u (x 0)

/-- rcp (R187). -/
def execRcp (i : Ins) (s : State) : Out :=
  floatwise 0x47 i s fun f v u x => Fp.rcp f v u (x 0)

/-- rsqrt: within 1 ulp (R187). -/
def execRsqrt (i : Ins) (s : State) : Out :=
  special 0x48 .rsqrt i s

/-- min: bit 0 is .nan (R188). -/
def execFmin (i : Ins) (s : State) : Out :=
  floatwise 0x49 i s fun f v _ x => Fp.minmax f v (i.attr.low == 1) false (x 0) (x 1)

/-- min#: bit 0 is .nan (R188). -/
def execFminImm (i : Ins) (s : State) : Out :=
  floatwise 0x73 i s fun f v _ x => Fp.minmax f v (i.attr.low == 1) false (x 0) (x 1)

/-- max: bit 0 is .nan (R188). -/
def execFmax (i : Ins) (s : State) : Out :=
  floatwise 0x4A i s fun f v _ x => Fp.minmax f v (i.attr.low == 1) true (x 0) (x 1)

/-- max#: bit 0 is .nan (R188). -/
def execFmaxImm (i : Ins) (s : State) : Out :=
  floatwise 0x74 i s fun f v _ x => Fp.minmax f v (i.attr.low == 1) true (x 0) (x 1)

/-- amax (R188). -/
def execAmax (i : Ins) (s : State) : Out :=
  floatwise 0x6D i s fun f v _ x => Fp.amax f v (i.attr.low == 1) (x 0) (x 1)

/-- max3 (R188). -/
def execMax3 (i : Ins) (s : State) : Out :=
  floatwise 0x7C i s fun f v _ x => Fp.minmax3 f v (i.attr.low == 1) true (x 0) (x 1) (x 2)

/-- min3 (R188). -/
def execMin3 (i : Ins) (s : State) : Out :=
  floatwise 0x7D i s fun f v _ x => Fp.minmax3 f v (i.attr.low == 1) false (x 0) (x 1) (x 2)

/-- clamp (R188). -/
def execClamp (i : Ins) (s : State) : Out :=
  floatwise 0x6B i s fun f v _ x => Fp.clamp f v (i.attr.low == 1) (x 0) (x 1) (x 2)

/-- clamp# (R188). -/
def execClampImm (i : Ins) (s : State) : Out :=
  floatwise 0x76 i s fun f v _ x => Fp.clamp f v (i.attr.low == 1) (x 0) (x 1) (x 2)

/-- neg (R189). -/
def execFneg (i : Ins) (s : State) : Out :=
  signwise 0x4B i s fun f x => Fp.neg f (x 0)

/-- abs (R189). -/
def execFabs (i : Ins) (s : State) : Out :=
  signwise 0x4C i s fun f x => Fp.abs f (x 0)

/-- copysign (R189). -/
def execCopysign (i : Ins) (s : State) : Out :=
  signwise 0x4D i s fun f x => Fp.copysign f (x 0) (x 1)

/-- canon (R189). -/
def execCanon (i : Ins) (s : State) : Out :=
  floatwise 0x7E i s fun f v _ x => Fp.canon f v (x 0)

/-- cmp (R190). -/
def execFcmp (i : Ins) (s : State) : Out :=
  floatCmp 0x4E i s

/-- cmp# (R184, R190). -/
def execFcmpImm (i : Ins) (s : State) : Out :=
  floatCmp 0x75 i s

/-- class: the mask is the last source (R191). -/
def execFclass (i : Ins) (s : State) : Out :=
  lanewise 0x4F i s [tI1] fun c l =>
    { vals := [c.arg i 1 10 l / 2 ^ Fp.classBit (fmtOf i.form.toNat) (c.arg i 0 (tyBits i.form.toNat) l) % 2] }

/-- cvt from float to float (R192). -/
def execCvtFF (i : Ins) (s : State) : Out :=
  lanewise 0x50 i s [i.form.toNat] fun c l =>
    c.elements 0x50 i l
      [fun u => Fp.convert (fmtOf i.attr.srcTy) (fmtOf i.form.toNat) (c.env i) u (c.arg i 0 (tyBits i.attr.srcTy) l)] id

/-- cvt from float to integer (R193). -/
def execCvtFI (i : Ins) (s : State) : Out :=
  lanewise 0x51 i s [i.form.toNat] fun c l =>
    c.elements 0x51 i l
      [fun u => Fp.toInt (fmtOf i.attr.srcTy) (c.env i) i.attr.sxBit (tyBits i.form.toNat) u (c.arg i 0 (tyBits i.attr.srcTy) l)] id

/-- cvt from integer to float (R194). -/
def execCvtIF (i : Ins) (s : State) : Out :=
  lanewise 0x52 i s [i.form.toNat] fun c l =>
    c.elements 0x52 i l
      [fun u => Fp.fromInt (fmtOf i.form.toNat) (c.env i) i.attr.sxBit (tyBits i.attr.srcTy) u (c.arg i 0 (tyBits i.attr.srcTy) l)] id

/-- One element converted to the format of a format word; 0 and invalid for a word that is not valid (R170, R195). -/
def narrowElement (g : Fp.Fmt) (v : Fp.Env) (fw x u : Nat) : Nat × Fp.Flags :=
  match Fp.narrowFmt fw with
  | none => (0, Fp.fInv)
  | some nf => Fp.toNarrow nf v u (g.decodeFtz v.ftzi x)

/-- Element `k` of a word in the format of a format word, converted to a type; the canonical NaN and invalid for a
format word that is not valid (R170, R196). -/
def wideElement (f : Fp.Fmt) (v : Fp.Env) (fw x k u : Nat) : Nat × Fp.Flags :=
  match Fp.narrowFmt fw with
  | none => (f.nanCode, Fp.fInv)
  | some nf => Fp.fromNarrow nf f v u (Fp.element nf.width x k)

/-- cvt.nf (R195). -/
def execCvtToNf (i : Ins) (s : State) : Out :=
  lanewise 0x53 i s [tNf] fun c l =>
    c.elements 0x53 i l
      [narrowElement (fmtOf i.attr.srcTy) (c.env i) (c.arg i 1 32 l) (c.arg i 0 (tyBits i.attr.srcTy) l)] id

/-- cvt from nf: bits [2:0] name the element (R196). -/
def execCvtFromNf (i : Ins) (s : State) : Out :=
  lanewise 0x54 i s [i.form.toNat] fun c l =>
    c.elements 0x54 i l
      [wideElement (fmtOf i.form.toNat) (c.env i) (c.arg i 1 32 l) (c.arg i 0 32 l) i.attr.low] id

/-- rnd (R199). -/
def execRnd (i : Ins) (s : State) : Out :=
  floatwise 0x55 i s fun f v u x => Fp.rnd f v u (x 0)

/-- fract (R199). -/
def execFract (i : Ins) (s : State) : Out :=
  floatwise 0x56 i s fun f v _ x => Fp.fract f v (x 0)

/-- ldexp (R200). -/
def execLdexp (i : Ins) (s : State) : Out :=
  scaleExp 0x57 i s

/-- ldexp# (R184, R200). -/
def execLdexpImm (i : Ins) (s : State) : Out :=
  scaleExp 0x77 i s

/-- frexp (R200). -/
def execFrexp (i : Ins) (s : State) : Out :=
  lanewise 0x58 i s [i.form.toNat, tI32] fun c l =>
    let r := Fp.frexp (fmtOf i.form.toNat) (c.env i) (c.arg i 0 (tyBits i.form.toNat) l)
    { vals := [r.1, r.2.1], flags := r.2.2 }

/-- exp2 (R202, R203). -/
def execExp2 (i : Ins) (s : State) : Out :=
  special 0x59 .exp2 i s

/-- log2 (R202, R203). -/
def execLog2 (i : Ins) (s : State) : Out :=
  special 0x5A .log2 i s

/-- exp (R202, R203). -/
def execExp (i : Ins) (s : State) : Out :=
  special 0x5B .exp i s

/-- log (R202, R203). -/
def execLog (i : Ins) (s : State) : Out :=
  special 0x5C .log i s

/-- sin (R202, R203). -/
def execSin (i : Ins) (s : State) : Out :=
  special 0x5D .sin i s

/-- cos (R202, R203). -/
def execCos (i : Ins) (s : State) : Out :=
  special 0x5E .cos i s

/-- tanh (R202, R203). -/
def execTanh (i : Ins) (s : State) : Out :=
  special 0x60 .tanh i s

/-- sigm (R202, R203). -/
def execSigm (i : Ins) (s : State) : Out :=
  special 0x61 .sigm i s

/-- erf (R202, R203). -/
def execErf (i : Ins) (s : State) : Out :=
  special 0x62 .erf i s

/-- cbrt (R202, R203). -/
def execCbrt (i : Ins) (s : State) : Out :=
  special 0x66 .cbrt i s

/-- silu (R202, R203). -/
def execSilu (i : Ins) (s : State) : Out :=
  special 0x67 .silu i s

/-- gelu; bit 0 is .tanh (R202, R203). -/
def execGelu (i : Ins) (s : State) : Out :=
  special 0x63 (if i.attr.low = 1 then .geluTanh else .gelu) i s

/-- sincos: the results of sin and cos (R202). -/
def execSincos (i : Ins) (s : State) : Out :=
  lanewise 0x5F i s [i.form.toNat, i.form.toNat] fun c l =>
    let f := fmtOf i.form.toNat
    let x := c.arg i 0 (tyBits i.form.toNat) l
    let a := Fp.special1 .sin f (c.env i) x
    let b := Fp.special1 .cos f (c.env i) x
    { vals := [a.1, b.1], flags := a.2 ||| b.2 }

/-- atan2 (R202, R203). -/
def execAtan2 (i : Ins) (s : State) : Out :=
  floatwise 0x64 i s fun f v _ x => Fp.atan2 f v (x 0) (x 1)

/-- pow (R202, R203). -/
def execPow (i : Ins) (s : State) : Out :=
  floatwise 0x65 i s fun f v _ x => Fp.pow f v (x 0) (x 1)

/-- dot2: bit 0 names the source type (R186). -/
def execDot2 (i : Ins) (s : State) : Out :=
  lanewise 0x68 i s [tF32] fun c l =>
    c.elements 0x68 i l
      [fun u => Fp.dot2 (if i.attr.low = 0 then Fp.f16 else Fp.bf16) (c.env i) u (c.arg i 0 32 l) (c.arg i 1 32 l)
        (c.arg i 2 32 l)] id

/-- pack2 (R197). -/
def execPack2 (i : Ins) (s : State) : Out :=
  lanewise 0x69 i s [i.form.toNat] fun c l =>
    let e (k u : Nat) := Fp.convert Fp.f32 (fmtOf i.form.toNat) (c.env i) u (c.arg i k 32 l)
    c.elements 0x69 i l [e 0, e 1] packed

/-- unpack2: bit 0 names the source type (R197). -/
def execUnpack2 (i : Ins) (s : State) : Out :=
  lanewise 0x6A i s [tF32, tF32] fun c l =>
    let g := if i.attr.low = 0 then Fp.f16 else Fp.bf16
    let x := c.arg i 0 32 l
    c.elements 0x6A i l
      [fun u => Fp.convert g Fp.f32 (c.env i) u (x % 2 ^ 16), fun u => Fp.convert g Fp.f32 (c.env i) u (x / 2 ^ 16)] id

/-- lerp (R186). -/
def execLerp (i : Ins) (s : State) : Out :=
  floatwise 0x6C i s fun f v u x => Fp.lerp f v u (x 0) (x 1) (x 2)

/-- scx (R201). -/
def execScx (i : Ins) (s : State) : Out :=
  lanewise 0x6E i s [tI32] fun c l =>
    let r := Fp.scx (fmtOf i.form.toNat) (c.env i) (c.arg i 1 32 l) (c.arg i 0 (tyBits i.form.toNat) l)
    { vals := [r.1], flags := r.2 }

/-- scl (R201). -/
def execScl (i : Ins) (s : State) : Out :=
  lanewise 0x6F i s [i.form.toNat] fun c l =>
    c.elements 0x6F i l
      [fun u => Fp.scl (fmtOf i.form.toNat) (c.env i) u (c.arg i 0 (tyBits i.form.toNat) l) (c.arg i 1 32 l)] id

/-- dot4n (R198); an invalid format word gives the canonical NaN (R170). -/
def execDot4n (i : Ins) (s : State) : Out :=
  lanewise 0x78 i s [tF32] fun c l =>
    let v := c.env i
    c.elements 0x78 i l
      [fun u => match Fp.narrowFmt (c.arg i 3 32 l) with
        | none => (Fp.sat01 Fp.f32 v.sat Fp.f32.nanCode, Fp.fInv)
        | some nf => Fp.dot4n nf v u (c.arg i 0 32 l) (c.arg i 1 32 l) (c.arg i 2 32 l)] id

/-- pack4 (R195): an element takes WIDTH bits. -/
def execPack4 (i : Ins) (s : State) : Out :=
  lanewise 0x79 i s [tNf] fun c l =>
    let fw := c.arg i 4 32 l
    let w := ((Fp.narrowFmt fw).map Fp.Fmt.width).getD 0
    c.elements 0x79 i l
      ((List.range 4).map fun k => narrowElement Fp.f32 (c.env i) fw (c.arg i k 32 l))
      fun xs => [(xs.zipIdx.map fun x => x.1 * 2 ^ (w * x.2)).foldl (· + ·) 0]

/-- unpack4 (R196). -/
def execUnpack4 (i : Ins) (s : State) : Out :=
  lanewise 0x7A i s [tF32, tF32, tF32, tF32] fun c l =>
    c.elements 0x7A i l
      ((List.range 4).map fun k => wideElement Fp.f32 (c.env i) (c.arg i 1 32 l) (c.arg i 0 32 l) k) id

/-- rseed (R204). -/
def execRseed (i : Ins) (s : State) : Out :=
  lanewise 0x7B i s [] fun c l =>
    let x := c.arg i 0 32 l
    { vals := [], rng := some (if x = 0 then 0x9E3779B9 else BitVec.ofNat 32 x) }

/-- fmaw: bits [1:0] name the source type (R186). -/
def execFmaw (i : Ins) (s : State) : Out :=
  lanewise 0x7F i s [i.form.toNat] fun c l =>
    let t := if i.attr.low = 0 then tF16 else if i.attr.low = 1 then tBf16 else tF32
    c.elements 0x7F i l
      [fun u => Fp.fma (fmtOf t) (fmtOf i.form.toNat) (c.env i) u (c.arg i 0 (tyBits t) l) (c.arg i 1 (tyBits t) l)
        (c.arg i 2 (tyBits i.form.toNat) l)] id

end Sys2Proof.Machine
end

