-- ==== Sys2Proof/Machine/Integer.lean ====
section
/-! DEFINITION. The integer engine (spec/05_integer_engine.md): one meaning per instruction, lane by lane over the
functions of `Machine/IntOps.lean`. A form that ends in an immediate reads it as its last source (R136). -/
namespace Sys2Proof.Machine
open IntOps

/-- Width of the primary type. -/
def wOf (i : Ins) : Nat := tyBits i.form.toNat

/-- An integer instruction of one source of the primary type and one result of it. -/
def int1 (opc : Nat) (i : Ins) (s : State) (f : Nat → Nat) : Out :=
  lanewise opc i s [i.form.toNat] fun c l => { vals := [f (c.arg i 0 (wOf i) l)] }

/-- An integer instruction whose second source has a width of its own. -/
def int2 (opc : Nat) (i : Ins) (w1 : Nat) (s : State) (f : Nat → Nat → Nat) : Out :=
  lanewise opc i s [i.form.toNat] fun c l => { vals := [f (c.arg i 0 (wOf i) l) (c.arg i 1 w1 l)] }

/-- An integer instruction of three sources, the last two of widths of their own. -/
def int3 (opc : Nat) (i : Ins) (w1 w2 : Nat) (s : State) (f : Nat → Nat → Nat → Nat) : Out :=
  lanewise opc i s [i.form.toNat] fun c l =>
    { vals := [f (c.arg i 0 (wOf i) l) (c.arg i 1 w1 l) (c.arg i 2 w2 l)] }

/-- A comparison of two values of the primary type. -/
def intCmp (opc : Nat) (i : Ins) (s : State) : Out :=
  lanewise opc i s [tI1] fun c l =>
    { vals := [(IntOps.cmp i.attr.low i.attr.sxBit (wOf i) (c.arg i 0 (wOf i) l) (c.arg i 1 (wOf i) l)).toNat] }

/-- A choice by the predicate in source 0 (R155). -/
def intSel (opc : Nat) (i : Ins) (s : State) : Out :=
  lanewise opc i s [i.form.toNat] fun c l =>
    { vals := [if c.arg i 0 1 l = 1 then c.arg i 1 (wOf i) l else c.arg i 2 (wOf i) l] }

/-- The die of a member of the team's cluster. -/
def Cx.memberDie (c : Cx) (m : Nat) : Option Nat :=
  ((c.s.walker.clusters.find? fun k => k.key == c.t.cluster).bind fun k => k.cores[m]?).map CoreRef.die

/-- add (R140). -/
def execAdd (i : Ins) (s : State) : Out :=
  int2 0x00 i (wOf i) s (IntOps.add i.attr.satBit i.attr.sxBit (wOf i))

/-- sub (R140). -/
def execSub (i : Ins) (s : State) : Out :=
  int2 0x02 i (wOf i) s (IntOps.sub i.attr.satBit i.attr.sxBit (wOf i))

/-- mul (R140). -/
def execMul (i : Ins) (s : State) : Out :=
  int2 0x04 i (wOf i) s (IntOps.mul i.attr.satBit i.attr.sxBit (wOf i))

/-- add# (R136, R140). -/
def execAddImm (i : Ins) (s : State) : Out :=
  int2 0x2C i (wOf i) s (IntOps.add i.attr.satBit i.attr.sxBit (wOf i))

/-- mul# (R136, R140). -/
def execMulImm (i : Ins) (s : State) : Out :=
  int2 0x2D i (wOf i) s (IntOps.mul i.attr.satBit i.attr.sxBit (wOf i))

/-- div (R142). -/
def execDiv (i : Ins) (s : State) : Out :=
  int2 0x08 i (wOf i) s (IntOps.div i.attr.satBit i.attr.sxBit (wOf i))

/-- div# (R142). -/
def execDivImm (i : Ins) (s : State) : Out :=
  int2 0x39 i (wOf i) s (IntOps.div i.attr.satBit i.attr.sxBit (wOf i))

/-- mulhi (R140). -/
def execMulhi (i : Ins) (s : State) : Out :=
  int2 0x05 i (wOf i) s (IntOps.mulhi i.attr.sxBit (wOf i))

/-- rem (R142). -/
def execRem (i : Ins) (s : State) : Out :=
  int2 0x09 i (wOf i) s (IntOps.rem i.attr.sxBit (wOf i))

/-- rem# (R142). -/
def execRemImm (i : Ins) (s : State) : Out :=
  int2 0x3A i (wOf i) s (IntOps.rem i.attr.sxBit (wOf i))

/-- min (R143). -/
def execMin (i : Ins) (s : State) : Out :=
  int2 0x0C i (wOf i) s (IntOps.min i.attr.sxBit (wOf i))

/-- min# (R136, R143). -/
def execMinImm (i : Ins) (s : State) : Out :=
  int2 0x33 i (wOf i) s (IntOps.min i.attr.sxBit (wOf i))

/-- max (R143). -/
def execMax (i : Ins) (s : State) : Out :=
  int2 0x0D i (wOf i) s (IntOps.max i.attr.sxBit (wOf i))

/-- max# (R136, R143). -/
def execMaxImm (i : Ins) (s : State) : Out :=
  int2 0x34 i (wOf i) s (IntOps.max i.attr.sxBit (wOf i))

/-- mad (R140). -/
def execMad (i : Ins) (s : State) : Out :=
  int3 0x07 i (wOf i) (wOf i) s (IntOps.mad i.attr.satBit i.attr.sxBit (wOf i))

/-- madhi (R140). -/
def execMadhi (i : Ins) (s : State) : Out :=
  int3 0x0E i (wOf i) (wOf i) s (IntOps.madhi i.attr.satBit i.attr.sxBit (wOf i))

/-- sad (R144). -/
def execSad (i : Ins) (s : State) : Out :=
  int3 0x10 i (wOf i) (wOf i) s (IntOps.sad i.attr.satBit i.attr.sxBit (wOf i))

/-- neg (R143). -/
def execNeg (i : Ins) (s : State) : Out :=
  int1 0x0A i s (IntOps.neg i.attr.satBit i.attr.sxBit (wOf i))

/-- abs (R143). -/
def execAbs (i : Ins) (s : State) : Out :=
  int1 0x0B i s (IntOps.abs i.attr.satBit (wOf i))

/-- mulw: the sources are half as wide as the result (R140). -/
def execMulw (i : Ins) (s : State) : Out :=
  lanewise 0x06 i s [i.form.toNat] fun c l =>
    { vals := [IntOps.mulw i.attr.sxBit (wOf i) (c.arg i 0 (wOf i / 2) l) (c.arg i 1 (wOf i / 2) l)] }

/-- addc: the result and the carry, borrow or overflow (R141). -/
def execAddc (i : Ins) (s : State) : Out :=
  lanewise 0x01 i s [i.form.toNat, tI1] fun c l =>
    let r := IntOps.addc i.attr.sxBit (wOf i) (c.arg i 0 (wOf i) l) (c.arg i 1 (wOf i) l) (c.arg i 2 1 l)
    { vals := [r.1, r.2] }

/-- subb: the result and the carry, borrow or overflow (R141). -/
def execSubb (i : Ins) (s : State) : Out :=
  lanewise 0x03 i s [i.form.toNat, tI1] fun c l =>
    let r := IntOps.subb i.attr.sxBit (wOf i) (c.arg i 0 (wOf i) l) (c.arg i 1 (wOf i) l) (c.arg i 2 1 l)
    { vals := [r.1, r.2] }

/-- idot: bit 0 .sa, bit 1 .sb, bit 2 the halves (R145). -/
def execIdot (i : Ins) (s : State) : Out :=
  int3 0x0F i 32 32 s
    (IntOps.idot i.attr.satBit i.attr.sxBit (i.attr.low % 2 == 1) (i.attr.low / 2 % 2 == 1) (i.attr.low / 4 % 2 == 1))

/-- and (R146). -/
def execAnd (i : Ins) (s : State) : Out :=
  int2 0x11 i (wOf i) s IntOps.and

/-- or (R146). -/
def execOr (i : Ins) (s : State) : Out :=
  int2 0x12 i (wOf i) s IntOps.or

/-- xor (R146). -/
def execXor (i : Ins) (s : State) : Out :=
  int2 0x13 i (wOf i) s IntOps.xor

/-- and# (R146). -/
def execAndImm (i : Ins) (s : State) : Out :=
  int2 0x2E i (wOf i) s IntOps.and

/-- or# (R146). -/
def execOrImm (i : Ins) (s : State) : Out :=
  int2 0x2F i (wOf i) s IntOps.or

/-- xor# (R146). -/
def execXorImm (i : Ins) (s : State) : Out :=
  int2 0x30 i (wOf i) s IntOps.xor

/-- not (R146). -/
def execNot (i : Ins) (s : State) : Out :=
  int1 0x14 i s (IntOps.not (wOf i))

/-- tlut, the table in the last source (R146). -/
def execTlut (i : Ins) (s : State) : Out :=
  lanewise 0x15 i s [i.form.toNat] fun c l =>
    { vals := [IntOps.tlut (wOf i) (c.arg i 0 (wOf i) l) (c.arg i 1 (wOf i) l) (c.arg i 2 (wOf i) l) (c.arg i 3 8 l)] }

/-- shl, the amount an unsigned i32 (R147). -/
def execShl (i : Ins) (s : State) : Out :=
  int2 0x16 i 32 s (IntOps.shl (wOf i))

/-- rotl, the amount an unsigned i32 (R147). -/
def execRotl (i : Ins) (s : State) : Out :=
  int2 0x18 i 32 s (IntOps.rotl (wOf i))

/-- rotr, the amount an unsigned i32 (R147). -/
def execRotr (i : Ins) (s : State) : Out :=
  int2 0x19 i 32 s (IntOps.rotr (wOf i))

/-- shl#, the amount an unsigned i32 (R147). -/
def execShlImm (i : Ins) (s : State) : Out :=
  int2 0x31 i 32 s (IntOps.shl (wOf i))

/-- rotl#, the amount an unsigned i32 (R147). -/
def execRotlImm (i : Ins) (s : State) : Out :=
  int2 0x3B i 32 s (IntOps.rotl (wOf i))

/-- shr, the amount an unsigned i32 (R147). -/
def execShr (i : Ins) (s : State) : Out :=
  int2 0x17 i 32 s (IntOps.shr i.attr.sxBit (wOf i))

/-- shr#, the amount an unsigned i32 (R147). -/
def execShrImm (i : Ins) (s : State) : Out :=
  int2 0x32 i 32 s (IntOps.shr i.attr.sxBit (wOf i))

/-- fshl: bit 0 is .wrap (R148). -/
def execFshl (i : Ins) (s : State) : Out :=
  int3 0x1A i (wOf i) 32 s (IntOps.fshl (i.attr.low == 1) (wOf i))

/-- fshr: bit 0 is .wrap (R148). -/
def execFshr (i : Ins) (s : State) : Out :=
  int3 0x1B i (wOf i) 32 s (IntOps.fshr (i.attr.low == 1) (wOf i))

/-- clz (R149). -/
def execClz (i : Ins) (s : State) : Out :=
  int1 0x1C i s (IntOps.clz (wOf i))

/-- ctz (R149). -/
def execCtz (i : Ins) (s : State) : Out :=
  int1 0x1D i s (IntOps.ctz (wOf i))

/-- popc (R149). -/
def execPopc (i : Ins) (s : State) : Out :=
  int1 0x1E i s (IntOps.popc (wOf i))

/-- cls (R149). -/
def execCls (i : Ins) (s : State) : Out :=
  int1 0x36 i s (IntOps.cls (wOf i))

/-- brev (R150). -/
def execBrev (i : Ins) (s : State) : Out :=
  int1 0x1F i s (IntOps.brev (wOf i))

/-- bswap (R150). -/
def execBswap (i : Ins) (s : State) : Out :=
  int1 0x37 i s (IntOps.bswap (wOf i))

/-- bpick (R151). -/
def execBpick (i : Ins) (s : State) : Out :=
  int3 0x38 i 32 32 s IntOps.bpick

/-- bfx (R152). -/
def execBfx (i : Ins) (s : State) : Out :=
  int3 0x20 i 32 32 s (IntOps.bfx i.attr.sxBit (wOf i))

/-- bfx# (R152). -/
def execBfxImm (i : Ins) (s : State) : Out :=
  int3 0x3C i 32 32 s (IntOps.bfx i.attr.sxBit (wOf i))

/-- bfi (R153). -/
def execBfi (i : Ins) (s : State) : Out :=
  lanewise 0x21 i s [i.form.toNat] fun c l =>
    { vals := [IntOps.bfi (wOf i) (c.arg i 0 (wOf i) l) (c.arg i 1 (wOf i) l) (c.arg i 2 32 l) (c.arg i 3 32 l)] }

/-- bfi# (R153). -/
def execBfiImm (i : Ins) (s : State) : Out :=
  lanewise 0x3D i s [i.form.toNat] fun c l =>
    { vals := [IntOps.bfi (wOf i) (c.arg i 0 (wOf i) l) (c.arg i 1 (wOf i) l) (c.arg i 2 32 l) (c.arg i 3 32 l)] }

/-- cmp (R154). -/
def execCmp (i : Ins) (s : State) : Out :=
  intCmp 0x22 i s

/-- cmp# (R154). -/
def execCmpImm (i : Ins) (s : State) : Out :=
  intCmp 0x23 i s

/-- sel (R155). -/
def execSel (i : Ins) (s : State) : Out :=
  intSel 0x24 i s

/-- sel# (R155). -/
def execSelImm (i : Ins) (s : State) : Out :=
  intSel 0x3F i s

/-- ext (R156). -/
def execExt (i : Ins) (s : State) : Out :=
  lanewise 0x25 i s [i.form.toNat] fun c l =>
    { vals := [IntOps.ext i.attr.sxBit (tyBits i.attr.srcTy) (wOf i) (c.arg i 0 (tyBits i.attr.srcTy) l)] }

/-- trunc (R156). -/
def execTrunc (i : Ins) (s : State) : Out :=
  lanewise 0x26 i s [i.form.toNat] fun c l =>
    { vals := [IntOps.trunc i.attr.satBit i.attr.sxBit (tyBits i.attr.srcTy) (wOf i) (c.arg i 0 (tyBits i.attr.srcTy) l)] }

/-- bitcast (R157). -/
def execBitcast (i : Ins) (s : State) : Out :=
  int1 0x35 i s id

/-- mov (R157). -/
def execMov (i : Ins) (s : State) : Out :=
  int1 0x3E i s id

/-- const; with .cr (bit 0) an address in the constant area of the launch (R158). -/
def execConstant (i : Ins) (s : State) : Out :=
  lanewise 0x27 i s [i.form.toNat] fun c l =>
    let x := c.arg i 0 (wOf i) l
    { vals := [if i.attr.low = 1 then (((c.s.launch? c.t.launch).map fun a => a.record.const).getD 0 + x) % 2 ^ 64 else x] }

/-- lea (R159). -/
def execLea (i : Ins) (s : State) : Out :=
  lanewise 0x28 i s [i.form.toNat] fun c l =>
    { vals := [IntOps.lea i.attr.sxBit (wOf i) (c.argBits i 1) (c.arg i 0 (wOf i) l) (c.arg i 1 (c.argBits i 1) l) i.attr.low
        (IntOps.sext 32 (c.arg i 2 32 l))] }

/-- ptradd (R160). -/
def execPtradd (i : Ins) (s : State) : Out :=
  lanewise 0x29 i s [i.form.toNat] fun c l =>
    { vals := [IntOps.ptradd i.attr.sxBit (wOf i) (c.argBits i 1) (c.arg i 0 (wOf i) l) (c.arg i 1 (c.argBits i 1) l)] }

/-- ptrdiff (R160). -/
def execPtrdiff (i : Ins) (s : State) : Out :=
  int2 0x2A i (wOf i) s (IntOps.ptrdiff (wOf i))

/-- ptrcvt: .win, .mem and .own (R161, Table 5.5). -/
def execPtrcvt (i : Ins) (s : State) : Out :=
  lanewise 0x2B i s [i.form.toNat] fun c l =>
    let p := c.arg i 0 32 l
    { vals := [match i.attr.low with
      | 0 => IntOps.ptrcvtWin c.t.teamid p
      | 1 =>
        let m := c.arg i 1 32 l
        IntOps.ptrcvtMem (match c.memberDie m with
          | some d => d != c.r.die
          | none => false) p m
      | _ => IntOps.ptrcvtOwn p] }

end Sys2Proof.Machine
end

