-- ==== Sys2Proof/Machine/Launching.lean ====
section
/-! DEFINITION. The two control instructions that reach the launch walker: phase (R128) and launch (R129). -/
namespace Sys2Proof.Machine

/-- A launch's record, with every field 0 where the launch is gone. -/
def Cx.record (c : Cx) : LaunchRec := ((c.s.launch? c.t.launch).map Launch.record).getD {}

/-- phase (R128): PHASE_DENIED without EXCL, without phases or beyond the phase count; nothing for the current phase;
otherwise the team's change of phase begins, and the stream performs the instruction again when it is over. -/
def execPhase (i : Ins) (s : State) : Out :=
  withCx s fun c =>
    let p := c.warg i 0 32
    let rec_ := c.record
    if rec_.flags / 4 % 2 = 0 ∨ rec_.phases = 0 ∨ rec_.phases ≤ p then c.trap 0x1B
    else if p = c.t.phase ∧ c.t.change = none then .next (c.update Stream.retired)
    else
      let s := s.modTeam c.core fun t => { t with change := some (t.change.getD { target := p }) }
      { c with s := s }.block .phase

/-- Records a ring holds (Table 3.1). -/
def LaunchQueue.size (q : LaunchQueue) : Nat := 2 ^ (Nat.min q.log2n.toNat 12 + 4)

/-- Appends a record to a launch queue's ring, with its doorbell (R77, R129). -/
def State.appendRecord (s : State) (n : Nat) (q : LaunchQueue) (bytes : List Byte) : State :=
  let s := s.vwrite hubCore q.asid.toNat (q.base.toNat + 256 * (q.tail.toNat % q.size)) bytes
  { s with walker := { s.walker with queues := setAt s.walker.queues n { q with tail := q.tail + 1 } } }

/-- launch (R129): MISALIGNED first; a release at .dev; the refusals by value; then the record is read, with its own
faults, and appended. -/
def execLaunch (i : Ins) (s : State) : Out :=
  withCx s fun c =>
    let n := c.warg i 0 32
    let p := c.warg i 1 64
    let give (s : State) (v : Nat) : Out := .next (c.finishWide 0xCB i [tI32] [v] s)
    if p % 64 ≠ 0 then
      .next (s.takeTrap c.r { c.st.trapAt c.r.idx 0x24 with value := p, lanes := maskOfList [c.lead] })
    else
      c.afterFence false false 3 <|
        match s.walker.queues[n]? with
        | none => give s 0xFFFFFFFF
        | some q =>
          if !q.en || q.asid.toNat != c.t.asid then give s 0xFFFFFFFF
          else if q.size ≤ (q.tail - q.head).toNat then give s 0xFFFFFFFE
          else c.readRecord true 256 64 p fun s bytes =>
            give (s.appendRecord n q bytes) (q.tail.toNat % q.size)

end Sys2Proof.Machine
end

