-- ==== Sys2Proof/Machine/LoadStore.lean ====
section
/-! DEFINITION. The load-store engine (spec/07_load_store_engine.md): loads and stores, prefetches, fences, l1.inv and
the tag table. Issue is here; what happens to an access in flight is in `Machine/Flight.lean` and
`Machine/FlightEvents.lean`. -/
namespace Sys2Proof.Machine

/-! ### Loads and stores (R217 to R223) -/

/-- Width of a pointer operand: 64 bits for ptr.g, 32 for ptr.l. -/
def ptrBits (glob : Bool) : Nat := if glob then 64 else 32

/-- A load of `n` elements; `pi` adds a post-incremented pointer. -/
def loadOp (glob : Bool) (n : Nat) (pi : Bool) (i : Ins) (s : State) : Out :=
  withCx s fun c =>
    let t := i.form.toNat
    let size := n * tyBytes t
    let m := c.lanes i
    let addr (l : Nat) : Nat := c.arg i 0 (ptrBits glob) l
    let tys := List.replicate n t
    let inc (st : Stream) : Stream :=
      if pi then c.postInc i m n (if glob then tPtrG else tPtrL) addr (IntOps.sext 32 (c.arg i 1 32 0)) st else st
    if m = 0 then .next (c.update fun st => (inc (c.fallbacks i m tys st)).retired)
    else if !c.st.hasRoom (if glob then 1 else 0) then c.block (.room (if glob then 1 else 0))
    else
      let tried := c.tryLanes (lanesOf m) addr fun s a l =>
        if glob then s.checkGlobal c.core c.t.asid { read := true, scope := (memAcc i.attr).bindScope } size a l
        else (c.checkLocal size size a l, s)
      c.launchAcc i m tried { memAcc i.attr with kind := .load, isLocal := !glob, size := size } (fun _ => []) tys
        kindRead inc

/-- A store of `n` elements; `pi` adds a post-incremented pointer, its only result. -/
def storeOp (glob : Bool) (n : Nat) (pi : Bool) (i : Ins) (s : State) : Out :=
  withCx s fun c =>
    let t := i.form.toNat
    let size := n * tyBytes t
    let m := c.lanes i
    let addr (l : Nat) : Nat := c.arg i 0 (ptrBits glob) l
    let data (l : Nat) : List Byte := ((List.range n).map fun k => toBytes (tyBytes t) (c.arg i (k + 1) (tyBits t) l)).flatten
    let inc (st : Stream) : Stream :=
      if pi then c.postInc i m 0 (if glob then tPtrG else tPtrL) addr (IntOps.sext 32 (c.arg i 2 32 0)) st else st
    if m = 0 then .next (c.update fun st => (inc st).retired)
    else if !c.st.hasRoom 2 then c.block (.room 2)
    else
      let tried := c.tryLanes (lanesOf m) addr fun s a l =>
        if glob then s.checkGlobal c.core c.t.asid { write := true, scope := (memAcc i.attr).scope } size a l
        else (c.checkLocal size size a l, s)
      let a := memAcc i.attr
      c.launchAcc i m tried
        { a with kind := .store, isLocal := !glob, size := size, link := if a.rel then some (s.streamRef c.r) else none }
        data [] kindWrite inc

/-- ld.l (R220). -/
def execLdL (i : Ins) (s : State) : Out := loadOp false 1 false i s

/-- st.l (R220). -/
def execStL (i : Ins) (s : State) : Out := storeOp false 1 false i s

/-- ld.l.pi (R220). -/
def execLdLPi (i : Ins) (s : State) : Out := loadOp false 1 true i s

/-- st.l.pi (R220). -/
def execStLPi (i : Ins) (s : State) : Out := storeOp false 1 true i s

/-- ld.l.x2 (R220). -/
def execLdLX2 (i : Ins) (s : State) : Out := loadOp false 2 false i s

/-- st.l.x2 (R220). -/
def execStLX2 (i : Ins) (s : State) : Out := storeOp false 2 false i s

/-- ld.l.x4 (R220). -/
def execLdLX4 (i : Ins) (s : State) : Out := loadOp false 4 false i s

/-- st.l.x4 (R220). -/
def execStLX4 (i : Ins) (s : State) : Out := storeOp false 4 false i s

/-- ld.g (R220). -/
def execLdG (i : Ins) (s : State) : Out := loadOp true 1 false i s

/-- st.g (R220). -/
def execStG (i : Ins) (s : State) : Out := storeOp true 1 false i s

/-- ld.g.pi (R220). -/
def execLdGPi (i : Ins) (s : State) : Out := loadOp true 1 true i s

/-- st.g.pi (R220). -/
def execStGPi (i : Ins) (s : State) : Out := storeOp true 1 true i s

/-- ld.g.x2 (R220). -/
def execLdGX2 (i : Ins) (s : State) : Out := loadOp true 2 false i s

/-- st.g.x2 (R220). -/
def execStGX2 (i : Ins) (s : State) : Out := storeOp true 2 false i s

/-- ld.g.x4 (R220). -/
def execLdGX4 (i : Ins) (s : State) : Out := loadOp true 4 false i s

/-- st.g.x4 (R220). -/
def execStGX4 (i : Ins) (s : State) : Out := storeOp true 4 false i s

/-- ldc: a global read-only load at the constant base plus the offset (R223). -/
def execLdc (i : Ins) (s : State) : Out :=
  withCx s fun c =>
    let t := i.form.toNat
    let m := c.lanes i
    let base := ((s.launch? c.t.launch).map fun a => a.record.const).getD 0
    let addr (l : Nat) : Nat := (base + c.arg i 0 32 l) % 2 ^ 64
    if m = 0 then .next (c.update fun st => (c.fallbacks i m [t] st).retired)
    else if !c.st.hasRoom 1 then c.block (.room 1)
    else
      let tried := c.tryLanes (lanesOf m) addr fun s a l =>
        s.checkGlobal c.core c.t.asid { read := true, scope := (memAcc i.attr).bindScope } (tyBytes t) a l
      c.launchAcc i m tried { memAcc i.attr with kind := .load, size := tyBytes t, ro := true } (fun _ => []) [t] kindRead id

/-! ### Prefetches, fences and l1.inv (R224, R225, R234) -/

/-- A prefetch: it raises GL, and lanes whose address would fault are dropped (R224, R226). -/
def prefetchOp (kind : AccKind) (i : Ins) (s : State) : Out :=
  withCx s fun c =>
    let m := c.lanes i
    if m = 0 then .next (c.update Stream.retired)
    else if !c.st.hasRoom 1 then c.block (.room 1)
    else
      let tried := c.tryLanes (lanesOf m) (c.arg i 0 64) fun s a l =>
        s.checkGlobal c.core c.t.asid { read := true, scope := (memAcc i.attr).scope } 1 a l
      c.launchAcc i m { tried with missed := [], bad := [] } { memAcc i.attr with kind := kind, size := 1 } (fun _ => []) []
        kindRead id

/-- pf (R224). -/
def execPf (i : Ins) (s : State) : Out := prefetchOp .prefetch i s

/-- pf.l1 (R224). -/
def execPfL1 (i : Ins) (s : State) : Out := prefetchOp .prefetchL1 i s

/-- fence: the kind in the acquire and release bits, a scope and a class mask; it acts per lane (R234). -/
def execFence (i : Ins) (s : State) : Out :=
  withCx s fun c =>
    let a := memAcc i.attr
    let m := c.lanes i
    if m = 0 then .next (c.update Stream.retired)
    else
      let q := c.fenceOf a.acq a.rel a.scope (BitVec.ofNat 16 (c.warg i 0 16)) m
      .next (q.1.modStream c.r Stream.retired)

/-- l1.inv: the coalesced bytes are sent, and every line is dropped (R225). -/
def execL1Inv (i : Ins) (s : State) : Out :=
  withCx s fun c =>
    let s := if c.lanes i = 0 then s else (s.flushCore c.core).modCore c.core fun k => k.l1Clear true
    .next (s.modStream c.r Stream.retired)

/-! ### The tag table (R213 to R216) -/

/-- Set `k` of the tag table. -/
def Team.tagSet (t : Team) (k : Nat) : TagSet := (t.tags[k]?).getD {}

def Team.setTagSet (t : Team) (k : Nat) (x : TagSet) : Team :=
  { t with tags := setAt (t.tags ++ List.replicate (256 - t.tags.length) {}) k x }

/-- Makes a way the most recent of its set. -/
def TagSet.touch (x : TagSet) (w : Nat) : TagSet := { x with recency := w :: x.recency.filter fun v => v != w }

/-- tag.lk on one set: the slot, or the miss code naming the victim, and the set after it. -/
def TagSet.lookup (x : TagSet) (set_ k : Nat) (nolru : Bool) : Nat × TagSet :=
  let ways := x.ways.zipIdx
  match ways.find? fun w => w.1.valid && w.1.key.toNat == k with
  | some w => (4 * set_ + w.2, if nolru then x else x.touch w.2)
  | none =>
    let v := match ways.find? fun w => !w.1.valid with
      | some w => w.2
      | none => (x.recency.getLast?).getD 0
    (2 ^ 31 + 4 * set_ + v, x)

/-- Applies a tag instruction lane by lane in ascending order (R216): each lane's results, and the team after it. -/
def Cx.tagwise (c : Cx) (opc : Nat) (i : Ins) (tys : List Nat) (f : Team → Nat → List Nat × Team) : Out :=
  let m := c.lanes i
  let r := (lanesOf m).foldl (fun (acc : List (Nat × LaneOut) × Team) l =>
    let q := f acc.2 l
    (acc.1 ++ [(l, { vals := q.1 })], q.2)) ([], c.t)
  { c with s := c.s.modTeam c.core fun t => { t with tags := r.2.tags } }.finish opc i tys m r.1

/-- tag.lk; bit 0 is .nolru (R215). -/
def execTagLk (i : Ins) (s : State) : Out :=
  withCx s fun c => c.tagwise 0x92 i [tI32] fun t l =>
    let k := c.arg i 0 (tyBits i.form.toNat) l
    let q := (t.tagSet (k % 256)).lookup (k % 256) k (i.attr.low == 1)
    ([q.1], t.setTagSet (k % 256) q.2)

/-- tag.set: the old key and whether it was valid (R215). -/
def execTagSet (i : Ins) (s : State) : Out :=
  withCx s fun c => c.tagwise 0x93 i [tI64, tI1] fun t l =>
    let w := c.arg i 0 32 l % 4
    let k := c.arg i 1 (tyBits i.form.toNat) l
    let x := t.tagSet (k % 256)
    let old := (x.ways[w]?).getD {}
    ([old.key.toNat, old.valid.toNat],
      t.setTagSet (k % 256) ({ x with ways := setAt x.ways w ⟨BitVec.ofNat 64 k, true⟩ }.touch w))

/-- tag.clr (R215). -/
def execTagClr (i : Ins) (s : State) : Out :=
  withCx s fun c => c.tagwise 0x94 i [] fun t l =>
    let n := c.arg i 0 32 l % 1024
    let x := t.tagSet (n / 4)
    ([], t.setTagSet (n / 4) { x with ways := modAt x.ways (n % 4) fun w => { w with valid := false } })

/-- tag.clr.all (R215). -/
def execTagClrAll (i : Ins) (s : State) : Out :=
  withCx s fun c => c.tagwise 0x94 i [] fun t _ =>
    ([], { t with tags := t.tags.map fun x => { x with ways := x.ways.map fun w => { w with valid := false } } })

end Sys2Proof.Machine
end

