-- ==== Sys2Proof/Machine/Matrix.lean ====
section
/-! DEFINITION. The matrix instructions (spec/11_matrix_engine.md R302, R307 to R325, R329): their checks and the entries
they queue. How commands run is in `Machine/MatrixEvents.lean`. -/
namespace Sys2Proof.Machine

/-! ### Issue of a command (R310, R325) -/

/-- A tile index above 11 traps before anything else (R302). -/
def Cx.withTiles (c : Cx) (ts : List Nat) (go : Out) : Out := if ts.any fun t => 11 < t then c.trap 0x41 else go

/-- Goes on when MXQ has an entry free and MX can rise (R22, R27). -/
def Cx.withEntry (c : Cx) (go : Out) : Out :=
  if !c.st.hasRoom 5 then c.block (.room 5)
  else if 32 ≤ c.t.matrix.queue.length then c.block (.engineRoom 2)
  else go

/-- Queues a command, with its release at .tm; it belongs to the open region and is renamed for it (R321). -/
def Cx.queued (c : Cx) (op : MxOp) (push pop : Bool) : State :=
  let r := c.issueRelease 0
  let cmd : MxCmd :=
    { id := r.1.nextId, op := op, push := push, pop := pop, region := c.t.matrix.region.map SpecRegion.num
      ren := (c.t.matrix.region.map SpecRegion.pairs).getD [], pos := ⟨c.st.func, c.st.off⟩, release := some r.2 }
  let s := { r.1 with nextId := r.1.nextId + 1 }
  (s.modTeam c.core fun t => { t with matrix := { t.matrix with queue := t.matrix.queue ++ [cmd] } }).modStream c.r
    fun st => st.raise 5 cmd.id

/-- A command without a result: guard, tile checks, room, entry. -/
def mxCommand (opc : Nat) (i : Ins) (s : State) (tiles : Cx → List Nat) (push pop : Bool) (op : Cx → MxOp) : Out :=
  withCx s fun c =>
    if !c.performs i then c.guardedOff opc i []
    else c.withTiles (tiles c) <| c.withEntry <|
      .next ((c.queued (op c) push pop).modStream c.r Stream.retired)

/-- Bits of the matrix attribute byte (Table 11.3). -/
def mxPush (i : Ins) : Bool := i.attr.ctlByte.getLsbD 0
def mxPop (i : Ins) : Bool := i.attr.ctlByte.getLsbD 1
/-- The rounding field; 0 is rn (R307). -/
def mxRm (i : Ins) : Nat :=
  let r := (i.attr.ctlByte.extractLsb' 2 3).toNat
  if r = 0 then 1 else r
def mxSat (i : Ins) : Bool := i.attr.ctlByte.getLsbD 5
def mxTag (i : Ins) : Nat := (i.attr.ctlByte.extractLsb' 0 3).toNat

/-- mx.nest: writes level K of the shadow table, when its entry executes (R316). -/
def execMxNest (i : Ins) (s : State) : Out :=
  mxCommand 0xD8 i s (fun _ => []) false false fun c =>
    .nest (mxTag i)
      { ext := c.warg i 0 32, da := IntOps.sext 32 (c.warg i 1 32), db := IntOps.sext 32 (c.warg i 2 32)
        dc := IntOps.sext 32 (c.warg i 3 32), ts := IntOps.sext 32 (c.warg i 4 32)
        first := i.attr.ctlByte.getLsbD 3, last := i.attr.ctlByte.getLsbD 4 }

/-- mx.go (R316). -/
def execMxGo (i : Ins) (s : State) : Out :=
  mxCommand 0xD9 i s (fun c => [c.warg i 0 32 % 16]) (mxPush i) (mxPop i) fun c =>
    .go (BitVec.ofNat 32 (c.warg i 0 32)) (mxRm i) (mxSat i)

/-- A layout record's fields (Table 11.1). -/
def layoutOf (bs : List Byte) : Layout :=
  { base := fieldAt bs 0 3
    ext := (List.range 4).map fun k => fieldAt bs (4 + 2 * k) 2
    str := (List.range 4).map fun k => IntOps.sext 32 (fieldAt bs (12 + 4 * k) 4)
    ty := fieldAt bs 28 1 }

/-- The code mx.lay returns for slot `k`, 0 when the record is valid (R319). -/
def layoutReason (k : Nat) (bs : List Byte) : Nat :=
  if 8 ≤ k then 1
  else if fieldAt bs 3 1 ≠ 0 ∨ fieldAt bs 29 3 ≠ 0 then 2
  else if (layoutOf bs).ext.any fun e => e == 0 then 3
  else if !([tF16, tBf16, tF32, tNf].contains (fieldAt bs 28 1)) then 4
  else 0

/-- mx.lay: the record is read at issue, and its entry carries it (R319). -/
def execMxLay (i : Ins) (s : State) : Out :=
  withCx s fun c =>
    if !c.performs i then c.guardedOff 0xDA i [tI32]
    else c.withEntry <|
      let k := c.warg i 0 32
      let glob := c.isGlobal i 1
      c.readRecord glob 32 32 (c.warg i 1 (if glob then 64 else 32)) fun s bytes =>
        let why := layoutReason k bytes
        let s := { c with s := s }.queued (.lay k (if why = 0 then some (layoutOf bytes) else none)) false false
        .next (c.finishWide 0xDA i [tI32] [why] s)

/-- mx.zero (R318). -/
def execMxZero (i : Ins) (s : State) : Out :=
  mxCommand 0xDB i s (fun c => [c.warg i 0 32]) (mxPush i) (mxPop i) fun c => .zero (c.warg i 0 32)

/-- mx.load (R317). -/
def execMxLoad (i : Ins) (s : State) : Out :=
  mxCommand 0xDC i s (fun c => [c.warg i 0 32]) (mxPush i) (mxPop i) fun c => .load (c.warg i 0 32) (c.warg i 1 32)

/-- mx.store (R317). -/
def execMxStore (i : Ins) (s : State) : Out :=
  mxCommand 0xDD i s (fun c => [c.warg i 0 32]) (mxPush i) (mxPop i) fun c =>
    .store (c.warg i 0 32) (c.warg i 1 32) (mxRm i) (mxSat i)

/-- The tiles of a mask. -/
def tilesOf (m : Nat) : List Nat := (List.range 32).filter fun k => m / 2 ^ k % 2 == 1

/-- mx.spec (R321): opens a region, whose first command is the entry itself. -/
def execMxSpec (i : Ins) (s : State) : Out :=
  withCx s fun c =>
    if !c.performs i then c.guardedOff 0xDE i []
    else
      let ren := tilesOf (c.warg i 0 32)
      let don := tilesOf (c.warg i 1 32)
      c.withTiles (ren ++ don) <|
        if c.t.matrix.region.isSome || ren.length != don.length || ren.any (fun t => don.contains t) then c.trap 0x42
        else c.withEntry <|
          let pairs := ren.zip don
          let g : SpecRegion := { num := c.t.matrix.nextRegion, tag := mxTag i, pairs := pairs }
          let t := { c.t with matrix := { c.t.matrix with region := some g, nextRegion := g.num + 1 } }
          let s := s.modTeam c.core fun u => { u with matrix := t.matrix }
          .next (({ c with s := s, t := t }.queued (.spec (mxTag i) pairs) false false).modStream c.r Stream.retired)

/-- The error of a commit or a drop of a region that is not open (R323): ERRC 0x8. -/
def MatrixEngine.fail (m : MatrixEngine) (code : Nat) : MatrixEngine :=
  { m with err := true, errc := if m.errc = 0 then code else m.errc }

/-- mx.commit (R323). -/
def execMxCommit (i : Ins) (s : State) : Out :=
  withCx s fun c =>
    if !c.performs i then c.guardedOff 0xDF i []
    else
      match c.t.matrix.region.filter fun g => g.tag == mxTag i with
      | none =>
        .next ((s.modTeam c.core fun t => { t with matrix := t.matrix.fail 8 }).modStream c.r Stream.retired)
      | some g => c.withEntry <|
        let s := s.commitRegion c.core g.num
        let c := { c with s := s, t := { c.t with matrix := { c.t.matrix with region := none } } }
        .next ((c.queued (.commit g.pairs) false false).modStream c.r Stream.retired)

/-- mx.drop (R324). -/
def execMxDrop (i : Ins) (s : State) : Out :=
  withCx s fun c =>
    if !c.performs i then c.guardedOff 0xE0 i []
    else
      match c.t.matrix.region.filter fun g => g.tag == mxTag i with
      | none =>
        .next ((s.modTeam c.core fun t => { t with matrix := t.matrix.fail 8 }).modStream c.r Stream.retired)
      | some _ => .next ((s.dropRegion c.core).modStream c.r Stream.retired)

/-- mx.fw: pushes a format word; blocks while FWQ holds 16 (R320). -/
def execMxFw (i : Ins) (s : State) : Out :=
  withCx s fun c =>
    if !c.performs i then c.guardedOff 0xE1 i []
    else if 16 ≤ c.t.matrix.fwq.length then c.block (.engineRoom 3)
    else
      let s := s.modTeam c.core fun t =>
        { t with matrix := { t.matrix with fwq := t.matrix.fwq ++ [BitVec.ofNat 32 (c.warg i 0 32)] } }
      .next (s.modStream c.r Stream.retired)

/-- mx.mma (R315). -/
def execMxMma (i : Ins) (s : State) : Out :=
  mxCommand 0xE2 i s (fun c => [c.warg i 0 32 % 16]) (mxPush i) (mxPop i) fun c => .mma (BitVec.ofNat 32 (c.warg i 0 32))

/-- mx.conf.fwb (R320). -/
def execMxConf (i : Ins) (s : State) : Out :=
  mxCommand 0xE3 i s (fun _ => []) false false fun c => .fwb (BitVec.ofNat 32 (c.warg i 0 32))

/-- mx.sclay (R320). -/
def execMxSclay (i : Ins) (s : State) : Out :=
  mxCommand 0xE4 i s (fun _ => []) false false fun c => .sclay (c.warg i 0 32) (BitVec.ofNat 32 (c.warg i 1 32))

/-- mx.tcopy (R318). -/
def execMxTcopy (i : Ins) (s : State) : Out :=
  mxCommand 0xE5 i s (fun c => [c.warg i 0 32, c.warg i 1 32]) (mxPush i) (mxPop i) fun c =>
    .tcopy (c.warg i 0 32) (c.warg i 1 32)

/-- mx.tadd (R318). -/
def execMxTadd (i : Ins) (s : State) : Out :=
  mxCommand 0xE6 i s (fun c => [c.warg i 0 32, c.warg i 1 32]) (mxPush i) (mxPop i) fun c =>
    .tadd (c.warg i 0 32) (c.warg i 1 32)

/-- The status word of Table 11.7 at this point of a cycle: the sticky bits are those of the previous cycle's end and those
set since, and ERRC keeps the first code. -/
def MatrixEngine.status (m : MatrixEngine) : Nat :=
  let run := m.queue.any fun k => k.started && !k.finished && !k.op.isSetup
  let old (n : Nat) : Nat := m.stat / 2 ^ n
  m.queue.length + 2 ^ 6 * m.fwq.length + 2 ^ 11 * run.toNat + 2 ^ 12 * m.region.isSome.toNat
    + 2 ^ 13 * ((m.region.map SpecRegion.tag).getD 0) + 2 ^ 16 * m.stopped.toNat
    + 2 ^ 17 * (old 17 % 2 ||| m.err.toNat) + 2 ^ 18 * (if old 18 % 16 = 0 then m.errc else old 18 % 16)
    + 2 ^ 22 * (old 22 % 32 ||| m.exc.toNat) + 2 ^ 27 * (old 27 % 2 ||| m.psn.toNat)

/-- The end of a cycle: mx.stat returns this state in the next one. -/
def MatrixEngine.settle (m : MatrixEngine) : MatrixEngine :=
  { m with stat := m.status, cflStat := m.conflicts, err := false, errc := 0, exc := 0, psn := false }

/-- mx.stat: bit 0 .cfl, bit 1 .clr, which keeps the bits set in this cycle (R329). -/
def execMxStat (i : Ins) (s : State) : Out :=
  withCx s fun c =>
    if !c.performs i then c.guardedOff 0xE7 i [tI32]
    else
      let cfl := i.attr.ctlByte.getLsbD 0
      let m := c.t.matrix
      let v := if cfl then m.cflStat else m.stat
      let clear (m : MatrixEngine) : MatrixEngine :=
        if cfl then { m with conflicts := 0, cflStat := 0 } else { m with stat := m.stat % 2 ^ 17 }
      let s := if i.attr.ctlByte.getLsbD 1 then s.modTeam c.core fun t => { t with matrix := clear t.matrix } else s
      .next (c.finishWide 0xE7 i [tI32] [v] s)

end Sys2Proof.Machine
end

