-- ==== Sys2Proof/Machine/Observation.lean ====
section
/-! DEFINITION. The observation instructions: ch.step and ch.mark (spec/17_chain_recorder.md R452, R453), tr.start, tr.stop,
tr.emit and ctr.rd (spec/18_trace_sampling_debug.md R465, R469). The walk itself is in `Machine/ChainEvents.lean`. -/
namespace Sys2Proof.Machine

/-- ch.mark (R453). -/
def execChMark (i : Ins) (s : State) : Out :=
  withCx s fun c =>
    if !c.performs i then c.guardedOff 0xF5 i []
    else .next ((s.streamLink c.r 0x0E 0 (c.warg i 0 32) none none).modStream c.r Stream.retired)

/-- ch.step: a STEP link; the walk waits for its turn, and the result is pending until it ends (R453). -/
def execChStep (i : Ins) (s : State) : Out :=
  withCx s fun c =>
    if !c.performs i then c.guardedOff 0xF4 i [tI32]
    else
      let seq := (s.core c.core).nextLink
      let s := s.streamLink c.r 0x0F 0 (c.warg i 0 32) none none
      let ds := c.st.destinations i [tI32]
      let w : Walk :=
        { stream := c.r.idx, pos := ⟨c.st.func, c.st.off⟩, id := BitVec.ofNat 32 (c.warg i 0 32), seq := seq
          start := c.st.stepStart.getD 0, stop := s.now, dsts := ds, lanes := c.st.active }
      let s := s.modCore c.core fun k => { k with walks := k.walks ++ [w] }
      .next (s.modStream c.r fun st =>
        { st with stepStart := some s.now, pending := st.pending ++ pendingOf ds }.retired)

/-- Every page of the team's trace buffer is mapped and pinned. -/
def State.bufferPinned (s : State) (c : CoreRef) (asid va size : Nat) : Bool :=
  (List.range (size / 65536)).all fun k =>
    match (s.translate c asid (va + 65536 * k)).1 with
    | .leaf f _ => leafPin f.entry
    | _ => false

/-- A trace record of the instruction's stream. -/
def Cx.record_ (c : Cx) (type : Nat) (payload : List Byte) : TraceRec :=
  { type := type, core := c.core, stream := c.r.idx, asid := c.t.asid, pos := ⟨c.st.func, c.st.off⟩, payload := payload }

/-- tr.start (R465): TRACE_UNPINNED when a page of the buffer is not pinned. -/
def execTrStart (i : Ins) (s : State) : Out :=
  withCx s fun c =>
    if !c.performs i then c.guardedOff 0xF6 i []
    else
      match s.traceBuf c.t.asid with
      | none => .next (s.modStream c.r Stream.retired)
      | some (va, size, _) =>
        if !s.bufferPinned c.core c.t.asid va size then c.trap 0x70
        else if c.t.capture.isSome then .next (s.modStream c.r Stream.retired)
        else
          let s := s.modTeam c.core fun t => { t with capture := some {} }
          .next ((s.traceWrite (c.record_ 2 (toBytes 4 (c.warg i 0 32)))).modStream c.r Stream.retired)

/-- tr.stop: the STOP record carries the window's counts (R465). -/
def execTrStop (i : Ins) (s : State) : Out :=
  withCx s fun c =>
    if !c.performs i then c.guardedOff 0xF7 i []
    else
      match c.t.capture with
      | none => .next (s.modStream c.r Stream.retired)
      | some w =>
        let s := s.traceWrite (c.record_ 3 (toBytes 8 w.cycles ++ toBytes 8 w.bundles ++ toBytes 8 w.stalls
          ++ toBytes 4 w.preempts ++ toBytes 4 (c.warg i 0 32)))
        .next ((s.modTeam c.core fun t => { t with capture := none }).modStream c.r Stream.retired)

/-- tr.emit: a record while the window is open (R465). -/
def execTrEmit (i : Ins) (s : State) : Out :=
  withCx s fun c =>
    if !c.performs i then c.guardedOff 0xF8 i []
    else
      let s := if c.t.capture.isSome then
        s.traceWrite (c.record_ 4 (toBytes 4 (c.warg i 0 32) ++ [0, 0, 0, 0] ++ toBytes 8 (c.warg i 1 64))) else s
      .next (s.modStream c.r Stream.retired)

/-- A word of a partition's counter page (R467). -/
def CounterPage.word (p : CounterPage) (k : Nat) : Nat :=
  if k < 256 then countOf k p.events
  else if k < 272 then countOf (k - 256) p.reasons
  else if k < 275 then countOf (k - 272) p.jobs
  else if 448 ≤ k ∧ k < 512 then countOf (k - 448) p.muxed
  else 0

/-- ctr.rd: counts as they were at the end of the previous cycle (R469). -/
def execCtrRd (i : Ins) (s : State) : Out :=
  withCx s fun c =>
    if !c.performs i then c.guardedOff 0xF9 i [tI64]
    else
      let k := c.warg i 0 32
      let pages := (s.trace.seen[c.r.die]?).getD []
      let page := (pages[s.partOf c.t.launch]?).getD {}
      let v := if k < 512 then page.word k
        else if k < 768 then ((s.core c.core).seenMatrix[k - 512]?).getD 0
        else 0
      .next (c.finishWide 0xF9 i [tI64] [v] s)

end Sys2Proof.Machine
end

