-- ==== Sys2Proof/Machine/SailIns.lean ====
section
/-! DEFINITION. The sail instructions (spec/13_sail_engine.md R357 to R359). -/
namespace Sys2Proof.Machine

/-- The launch's address space holds the sail privilege (R358). -/
def Cx.sailPrivileged (c : Cx) : Bool := c.s.sailRegs.pasid.any fun p => p.2 && p.1.toNat == c.t.asid

/-- The sail an id names: the issuing cluster's own when it has that id (R358). -/
def Cx.sailKey (c : Cx) (id : Nat) : SailKey :=
  match c.s.sail? (.cluster c.t.cluster) with
  | some x => if x.id = id then .cluster c.t.cluster else .sys id
  | none => .sys id

/-- Ends a sail instruction that records a link, in a state: the producer is the sail controller (R357). -/
def Cx.sailLinked (c : Cx) (s : State) (opc die : Nat) (i : Ins) (tys vals : List Nat) : Out :=
  let p := match c.st.prod with
    | some p => p.1
    | none => s.terminalRef die 255 6
  .next (c.finishWide opc i tys vals (s.streamLink c.r 0x0B (opc % 16) 0 (some p) none))

/-- The change of a number is still in progress. -/
def State.changeRuns (s : State) (n : Nat) : Bool :=
  s.sails.any fun x => x.parts.any fun p => p.change == n && p.phase != .steady

/-- A change that may be waited for (R359): the status comes back once the change is accepted or refused; with .wait, a
change accepted ends first, and a link is recorded whether or not the stream waited (R445). The stream holds the number of
its change. -/
def sailChange (opc : Nat) (i : Ins) (s : State) (idArg : Nat) (privileged : Cx → SailKey → Bool)
    (act : Cx → SailKey → Nat × State) (die : Cx → Nat) : Out :=
  withCx s fun c =>
    if !c.performs i then c.guardedOff opc i [tI32]
    else
      let k := c.sailKey (c.warg i idArg 32)
      match c.st.stage with
      | n :: _ => if s.changeRuns n then c.block (.sail k.num) else c.sailLinked s opc (die c) i [tI32] [0]
      | [] =>
        if privileged c k && !c.sailPrivileged then c.trap 0x32
        else
          let r := act c k
          if i.attr.ctlByte.getLsbD 0 && r.1 == 0 then
            .next (r.2.modStream c.r fun st => { st.blocked s.now (.sail k.num) with stage := [r.2.sailRegs.changes] })
          else if i.attr.ctlByte.getLsbD 0 then c.sailLinked r.2 opc (die c) i [tI32] [r.1]
          else .next (c.finishWide opc i [tI32] [r.1] r.2)

/-- Privilege is needed unless the sail is the issuing cluster's own (Table 13.2). -/
def unlessOwn (_ : Cx) (k : SailKey) : Bool :=
  match k with
  | .sys _ => true
  | .cluster _ => false

/-- sail.def (R359): privileged; the record is read with precise faults. -/
def execSailDef (i : Ins) (s : State) : Out :=
  withCx s fun c =>
    if !c.performs i then c.guardedOff 0xFA i [tI32]
    else if !c.sailPrivileged then c.trap 0x32
    else
      let glob := c.isGlobal i 0
      c.readRecord glob 64 64 (c.warg i 0 (if glob then 64 else 32)) fun s bytes =>
        let r := s.sailDefine bytes
        .next (c.finishWide 0xFA i [tI32] [r.1] r.2)

/-- sail.reef (R359). -/
def execSailReef (i : Ins) (s : State) : Out :=
  sailChange 0xFB i s 0 unlessOwn
    (fun c k => c.s.sailReef k (c.warg i 0 32) (c.warg i 1 32) (c.warg i 2 32) c.core)
    fun c => c.warg i 1 32

/-- sail.shake (R359). -/
def execSailShake (i : Ins) (s : State) : Out :=
  sailChange 0xFC i s 0 unlessOwn
    (fun c k => c.s.sailShake k (c.warg i 0 32) (c.warg i 1 32) (c.warg i 2 32) (c.warg i 3 32) c.core)
    fun c => c.warg i 1 32

/-- sail.drop (R359): always privileged. -/
def execSailDrop (i : Ins) (s : State) : Out :=
  sailChange 0xFD i s 0 (fun _ _ => true) (fun c k => c.s.sailDrop k (c.warg i 0 32)) fun c => c.r.die

/-- sail.query (R359): the word at the end of the previous cycle. -/
def execSailQuery (i : Ins) (s : State) : Out :=
  withCx s fun c =>
    if !c.performs i then c.guardedOff 0xFE i [tI32]
    else .next (c.finishWide 0xFE i [tI32] [s.sailShown (c.sailKey (c.warg i 0 32)) (c.warg i 1 32)] s)

/-- sail.wb (R359): waits for the stream's stores, writes back, and completes when every byte is acknowledged; bit 0 is
.inv. -/
def execSailWb (i : Ins) (s : State) : Out :=
  withCx s fun c =>
    if !c.performs i then c.guardedOff 0xFF i []
    else
      let k := c.sailKey (c.warg i 0 32)
      if c.st.stage != [] then
        if s.flights.any fun a => c.st.stage.contains a.id then c.block (.sail k.num)
        else c.sailLinked s 0xFF c.r.die i [] []
      else if c.st.count 2 ≠ 0 then c.block (.counter 2 0)
      else
        let r := s.sailWriteBack k c.core (i.attr.ctlByte.getLsbD 0)
        if r.2 = [] then c.sailLinked r.1 0xFF c.r.die i [] []
        else .next (r.1.modStream c.r fun st => { st.blocked s.now (.sail k.num) with stage := r.2 })

end Sys2Proof.Machine
end

