-- ==== Sys2Proof/Machine/Run.lean ====
section
/-! DEFINITION. Running an instruction from its opcode and fields: the meanings that `exec` calls, without building the
constructor (see `mkInstr`). A portable stream and the slots of a native bundle run through it. -/
namespace Sys2Proof.Machine

/-- The meaning of an opcode with its fields; none where no instruction has them. -/
def runFields (opc : Nat) (i : Ins) (s : State) : Option Out :=
  match opc with
  | 0x00 => some (Sys2Proof.Machine.execAdd i s)
  | 0x01 => some (Sys2Proof.Machine.execAddc i s)
  | 0x02 => some (Sys2Proof.Machine.execSub i s)
  | 0x03 => some (Sys2Proof.Machine.execSubb i s)
  | 0x04 => some (Sys2Proof.Machine.execMul i s)
  | 0x05 => some (Sys2Proof.Machine.execMulhi i s)
  | 0x06 => some (Sys2Proof.Machine.execMulw i s)
  | 0x07 => some (Sys2Proof.Machine.execMad i s)
  | 0x08 => some (Sys2Proof.Machine.execDiv i s)
  | 0x09 => some (Sys2Proof.Machine.execRem i s)
  | 0x0A => some (Sys2Proof.Machine.execNeg i s)
  | 0x0B => some (Sys2Proof.Machine.execAbs i s)
  | 0x0C => some (Sys2Proof.Machine.execMin i s)
  | 0x0D => some (Sys2Proof.Machine.execMax i s)
  | 0x0E => some (Sys2Proof.Machine.execMadhi i s)
  | 0x0F => some (Sys2Proof.Machine.execIdot i s)
  | 0x10 => some (Sys2Proof.Machine.execSad i s)
  | 0x11 => some (Sys2Proof.Machine.execAnd i s)
  | 0x12 => some (Sys2Proof.Machine.execOr i s)
  | 0x13 => some (Sys2Proof.Machine.execXor i s)
  | 0x14 => some (Sys2Proof.Machine.execNot i s)
  | 0x15 => some (Sys2Proof.Machine.execTlut i s)
  | 0x16 => some (Sys2Proof.Machine.execShl i s)
  | 0x17 => some (Sys2Proof.Machine.execShr i s)
  | 0x18 => some (Sys2Proof.Machine.execRotl i s)
  | 0x19 => some (Sys2Proof.Machine.execRotr i s)
  | 0x1A => some (Sys2Proof.Machine.execFshl i s)
  | 0x1B => some (Sys2Proof.Machine.execFshr i s)
  | 0x1C => some (Sys2Proof.Machine.execClz i s)
  | 0x1D => some (Sys2Proof.Machine.execCtz i s)
  | 0x1E => some (Sys2Proof.Machine.execPopc i s)
  | 0x1F => some (Sys2Proof.Machine.execBrev i s)
  | 0x20 => some (Sys2Proof.Machine.execBfx i s)
  | 0x21 => some (Sys2Proof.Machine.execBfi i s)
  | 0x22 => some (Sys2Proof.Machine.execCmp i s)
  | 0x23 => some (Sys2Proof.Machine.execCmpImm i s)
  | 0x24 => some (Sys2Proof.Machine.execSel i s)
  | 0x25 => some (Sys2Proof.Machine.execExt i s)
  | 0x26 => some (Sys2Proof.Machine.execTrunc i s)
  | 0x27 => some (Sys2Proof.Machine.execConstant i s)
  | 0x28 => some (Sys2Proof.Machine.execLea i s)
  | 0x29 => some (Sys2Proof.Machine.execPtradd i s)
  | 0x2A => some (Sys2Proof.Machine.execPtrdiff i s)
  | 0x2B => some (Sys2Proof.Machine.execPtrcvt i s)
  | 0x2C => some (Sys2Proof.Machine.execAddImm i s)
  | 0x2D => some (Sys2Proof.Machine.execMulImm i s)
  | 0x2E => some (Sys2Proof.Machine.execAndImm i s)
  | 0x2F => some (Sys2Proof.Machine.execOrImm i s)
  | 0x30 => some (Sys2Proof.Machine.execXorImm i s)
  | 0x31 => some (Sys2Proof.Machine.execShlImm i s)
  | 0x32 => some (Sys2Proof.Machine.execShrImm i s)
  | 0x33 => some (Sys2Proof.Machine.execMinImm i s)
  | 0x34 => some (Sys2Proof.Machine.execMaxImm i s)
  | 0x35 => some (Sys2Proof.Machine.execBitcast i s)
  | 0x36 => some (Sys2Proof.Machine.execCls i s)
  | 0x37 => some (Sys2Proof.Machine.execBswap i s)
  | 0x38 => some (Sys2Proof.Machine.execBpick i s)
  | 0x39 => some (Sys2Proof.Machine.execDivImm i s)
  | 0x3A => some (Sys2Proof.Machine.execRemImm i s)
  | 0x3B => some (Sys2Proof.Machine.execRotlImm i s)
  | 0x3C => some (Sys2Proof.Machine.execBfxImm i s)
  | 0x3D => some (Sys2Proof.Machine.execBfiImm i s)
  | 0x3E => some (Sys2Proof.Machine.execMov i s)
  | 0x3F => some (Sys2Proof.Machine.execSelImm i s)
  | 0x40 => some (Sys2Proof.Machine.execFadd i s)
  | 0x41 => some (Sys2Proof.Machine.execFsub i s)
  | 0x42 => some (Sys2Proof.Machine.execFmul i s)
  | 0x43 => some (Sys2Proof.Machine.execFma i s)
  | 0x44 => some (Sys2Proof.Machine.execFnma i s)
  | 0x45 => some (Sys2Proof.Machine.execFdiv i s)
  | 0x46 => some (Sys2Proof.Machine.execSqrt i s)
  | 0x47 => some (Sys2Proof.Machine.execRcp i s)
  | 0x48 => some (Sys2Proof.Machine.execRsqrt i s)
  | 0x49 => some (Sys2Proof.Machine.execFmin i s)
  | 0x4A => some (Sys2Proof.Machine.execFmax i s)
  | 0x4B => some (Sys2Proof.Machine.execFneg i s)
  | 0x4C => some (Sys2Proof.Machine.execFabs i s)
  | 0x4D => some (Sys2Proof.Machine.execCopysign i s)
  | 0x4E => some (Sys2Proof.Machine.execFcmp i s)
  | 0x4F => some (Sys2Proof.Machine.execFclass i s)
  | 0x50 => some (Sys2Proof.Machine.execCvtFF i s)
  | 0x51 => some (Sys2Proof.Machine.execCvtFI i s)
  | 0x52 => some (Sys2Proof.Machine.execCvtIF i s)
  | 0x53 => some (Sys2Proof.Machine.execCvtToNf i s)
  | 0x54 => some (Sys2Proof.Machine.execCvtFromNf i s)
  | 0x55 => some (Sys2Proof.Machine.execRnd i s)
  | 0x56 => some (Sys2Proof.Machine.execFract i s)
  | 0x57 => some (Sys2Proof.Machine.execLdexp i s)
  | 0x58 => some (Sys2Proof.Machine.execFrexp i s)
  | 0x59 => some (Sys2Proof.Machine.execExp2 i s)
  | 0x5A => some (Sys2Proof.Machine.execLog2 i s)
  | 0x5B => some (Sys2Proof.Machine.execExp i s)
  | 0x5C => some (Sys2Proof.Machine.execLog i s)
  | 0x5D => some (Sys2Proof.Machine.execSin i s)
  | 0x5E => some (Sys2Proof.Machine.execCos i s)
  | 0x5F => some (Sys2Proof.Machine.execSincos i s)
  | 0x60 => some (Sys2Proof.Machine.execTanh i s)
  | 0x61 => some (Sys2Proof.Machine.execSigm i s)
  | 0x62 => some (Sys2Proof.Machine.execErf i s)
  | 0x63 => some (Sys2Proof.Machine.execGelu i s)
  | 0x64 => some (Sys2Proof.Machine.execAtan2 i s)
  | 0x65 => some (Sys2Proof.Machine.execPow i s)
  | 0x66 => some (Sys2Proof.Machine.execCbrt i s)
  | 0x67 => some (Sys2Proof.Machine.execSilu i s)
  | 0x68 => some (Sys2Proof.Machine.execDot2 i s)
  | 0x69 => some (Sys2Proof.Machine.execPack2 i s)
  | 0x6A => some (Sys2Proof.Machine.execUnpack2 i s)
  | 0x6B => some (Sys2Proof.Machine.execClamp i s)
  | 0x6C => some (Sys2Proof.Machine.execLerp i s)
  | 0x6D => some (Sys2Proof.Machine.execAmax i s)
  | 0x6E => some (Sys2Proof.Machine.execScx i s)
  | 0x6F => some (Sys2Proof.Machine.execScl i s)
  | 0x70 => some (Sys2Proof.Machine.execFaddImm i s)
  | 0x71 => some (Sys2Proof.Machine.execFmulImm i s)
  | 0x72 => some (Sys2Proof.Machine.execFmaImm i s)
  | 0x73 => some (Sys2Proof.Machine.execFminImm i s)
  | 0x74 => some (Sys2Proof.Machine.execFmaxImm i s)
  | 0x75 => some (Sys2Proof.Machine.execFcmpImm i s)
  | 0x76 => some (Sys2Proof.Machine.execClampImm i s)
  | 0x77 => some (Sys2Proof.Machine.execLdexpImm i s)
  | 0x78 => some (Sys2Proof.Machine.execDot4n i s)
  | 0x79 => some (Sys2Proof.Machine.execPack4 i s)
  | 0x7A => some (Sys2Proof.Machine.execUnpack4 i s)
  | 0x7B => some (Sys2Proof.Machine.execRseed i s)
  | 0x7C => some (Sys2Proof.Machine.execMax3 i s)
  | 0x7D => some (Sys2Proof.Machine.execMin3 i s)
  | 0x7E => some (Sys2Proof.Machine.execCanon i s)
  | 0x7F => some (Sys2Proof.Machine.execFmaw i s)
  | 0x80 => some (Sys2Proof.Machine.execLdL i s)
  | 0x81 => some (Sys2Proof.Machine.execLdG i s)
  | 0x82 => some (Sys2Proof.Machine.execLdLPi i s)
  | 0x83 => some (Sys2Proof.Machine.execLdGPi i s)
  | 0x84 => some (Sys2Proof.Machine.execStL i s)
  | 0x85 => some (Sys2Proof.Machine.execStG i s)
  | 0x86 => some (Sys2Proof.Machine.execStLPi i s)
  | 0x87 => some (Sys2Proof.Machine.execStGPi i s)
  | 0x88 => some (Sys2Proof.Machine.execLdLX2 i s)
  | 0x89 => some (Sys2Proof.Machine.execLdGX2 i s)
  | 0x8A => some (Sys2Proof.Machine.execLdLX4 i s)
  | 0x8B => some (Sys2Proof.Machine.execLdGX4 i s)
  | 0x8C => some (Sys2Proof.Machine.execStLX2 i s)
  | 0x8D => some (Sys2Proof.Machine.execStGX2 i s)
  | 0x8E => some (Sys2Proof.Machine.execStLX4 i s)
  | 0x8F => some (Sys2Proof.Machine.execStGX4 i s)
  | 0x90 => some (Sys2Proof.Machine.execPf i s)
  | 0x91 => some (Sys2Proof.Machine.execFence i s)
  | 0x92 => some (Sys2Proof.Machine.execTagLk i s)
  | 0x93 => some (Sys2Proof.Machine.execTagSet i s)
  | 0x94 => if rowOf opc i = 0 then some (Sys2Proof.Machine.execTagClr i s) else some (Sys2Proof.Machine.execTagClrAll i s)
  | 0x95 => some (Sys2Proof.Machine.execLdc i s)
  | 0x96 => some (Sys2Proof.Machine.execL1Inv i s)
  | 0x97 => some (Sys2Proof.Machine.execPfL1 i s)
  | 0x98 => some (Sys2Proof.Machine.execAtomAdd i s)
  | 0x99 => some (Sys2Proof.Machine.execAtomAddFloat i s)
  | 0x9A => some (Sys2Proof.Machine.execAtomMin i s)
  | 0x9B => some (Sys2Proof.Machine.execAtomMax i s)
  | 0x9C => some (Sys2Proof.Machine.execAtomAnd i s)
  | 0x9D => some (Sys2Proof.Machine.execAtomOr i s)
  | 0x9E => some (Sys2Proof.Machine.execAtomXor i s)
  | 0x9F => some (Sys2Proof.Machine.execAtomExch i s)
  | 0xA0 => some (Sys2Proof.Machine.execAtomCas i s)
  | 0xA1 => some (Sys2Proof.Machine.execAtomCasX2 i s)
  | 0xA2 => some (Sys2Proof.Machine.execAtomInc i s)
  | 0xA3 => some (Sys2Proof.Machine.execAtomDec i s)
  | 0xA4 => some (Sys2Proof.Machine.execRedAdd i s)
  | 0xA5 => some (Sys2Proof.Machine.execRedAddFloat i s)
  | 0xA6 => if rowOf opc i = 0 then some (Sys2Proof.Machine.execRedAnd i s) else if rowOf opc i = 1 then some (Sys2Proof.Machine.execRedOr i s) else some (Sys2Proof.Machine.execRedXor i s)
  | 0xA7 => if rowOf opc i = 0 then some (Sys2Proof.Machine.execRedMin i s) else some (Sys2Proof.Machine.execRedMax i s)
  | 0xA8 => if rowOf opc i = 0 then some (Sys2Proof.Machine.execBallot i s) else if rowOf opc i = 1 then some (Sys2Proof.Machine.execBallotAt i s) else some (Sys2Proof.Machine.execBallotCol i s)
  | 0xA9 => some (Sys2Proof.Machine.execVote i s)
  | 0xAA => some (Sys2Proof.Machine.execShfl i s)
  | 0xAB => some (Sys2Proof.Machine.execBfly i s)
  | 0xAC => some (Sys2Proof.Machine.execMatchLanes i s)
  | 0xAD => some (Sys2Proof.Machine.execGred i s)
  | 0xAE => some (Sys2Proof.Machine.execGscan i s)
  | 0xAF => some (Sys2Proof.Machine.execRsPush i s)
  | 0xB0 => some (Sys2Proof.Machine.execRsPop i s)
  | 0xB1 => some (Sys2Proof.Machine.execRegroup i s)
  | 0xB2 => some (Sys2Proof.Machine.execGredFloat i s)
  | 0xB3 => some (Sys2Proof.Machine.execGscanFloat i s)
  | 0xB4 => some (Sys2Proof.Machine.execShflImm i s)
  | 0xB5 => some (Sys2Proof.Machine.execBflyImm i s)
  | 0xB6 => some (Sys2Proof.Machine.execRsCnt i s)
  | 0xB7 => some (Sys2Proof.Machine.execElect i s)
  | 0xB8 => some (Sys2Proof.Machine.execBlk i s)
  | 0xB9 => some (Sys2Proof.Machine.execBr i s)
  | 0xBA => some (Sys2Proof.Machine.execBrc i s)
  | 0xBB => some (Sys2Proof.Machine.execBrt i s)
  | 0xBC => some (Sys2Proof.Machine.execCall i s)
  | 0xBD => some (Sys2Proof.Machine.execRet i s)
  | 0xBE => some (Sys2Proof.Machine.execEndStream i s)
  | 0xBF => some (Sys2Proof.Machine.execRdv i s)
  | 0xC0 => some (Sys2Proof.Machine.execBar i s)
  | 0xC1 => some (Sys2Proof.Machine.execCbar i s)
  | 0xC2 => some (Sys2Proof.Machine.execQpush i s)
  | 0xC3 => some (Sys2Proof.Machine.execQpop i s)
  | 0xC4 => some (Sys2Proof.Machine.execTokPush i s)
  | 0xC5 => some (Sys2Proof.Machine.execTokPop i s)
  | 0xC6 => some (Sys2Proof.Machine.execWait i s)
  | 0xC7 => some (Sys2Proof.Machine.execSreg i s)
  | 0xC8 => some (Sys2Proof.Machine.execModeSet i s)
  | 0xC9 => some (Sys2Proof.Machine.execModeGet i s)
  | 0xCA => some (Sys2Proof.Machine.execPhase i s)
  | 0xCB => some (Sys2Proof.Machine.execLaunch i s)
  | 0xCC => if rowOf opc i = 0 then some (Sys2Proof.Machine.execTrap i s) else some (Sys2Proof.Machine.execTrapValue i s)
  | 0xCD => some (Sys2Proof.Machine.execBrk i s)
  | 0xCE => some (Sys2Proof.Machine.execYield i s)
  | 0xCF => some (Sys2Proof.Machine.execSleep i s)
  | 0xD0 => some (Sys2Proof.Machine.execQtry i s)
  | 0xD1 => some (Sys2Proof.Machine.execQoffer i s)
  | 0xD2 => some (Sys2Proof.Machine.execTokCnt i s)
  | 0xD3 => some (Sys2Proof.Machine.execCntRd i s)
  | 0xD4 => some (Sys2Proof.Machine.execNop i s)
  | 0xD5 => some (Sys2Proof.Machine.execFlagsClr i s)
  | 0xD6 => some (Sys2Proof.Machine.execBarArv i s)
  | 0xD7 => some (Sys2Proof.Machine.execBarWt i s)
  | 0xD8 => some (Sys2Proof.Machine.execMxNest i s)
  | 0xD9 => some (Sys2Proof.Machine.execMxGo i s)
  | 0xDA => some (Sys2Proof.Machine.execMxLay i s)
  | 0xDB => some (Sys2Proof.Machine.execMxZero i s)
  | 0xDC => some (Sys2Proof.Machine.execMxLoad i s)
  | 0xDD => some (Sys2Proof.Machine.execMxStore i s)
  | 0xDE => some (Sys2Proof.Machine.execMxSpec i s)
  | 0xDF => some (Sys2Proof.Machine.execMxCommit i s)
  | 0xE0 => some (Sys2Proof.Machine.execMxDrop i s)
  | 0xE1 => some (Sys2Proof.Machine.execMxFw i s)
  | 0xE2 => some (Sys2Proof.Machine.execMxMma i s)
  | 0xE3 => some (Sys2Proof.Machine.execMxConf i s)
  | 0xE4 => some (Sys2Proof.Machine.execMxSclay i s)
  | 0xE5 => some (Sys2Proof.Machine.execMxTcopy i s)
  | 0xE6 => some (Sys2Proof.Machine.execMxTadd i s)
  | 0xE7 => some (Sys2Proof.Machine.execMxStat i s)
  | 0xE8 => some (Sys2Proof.Machine.execCpDesc i s)
  | 0xE9 => some (Sys2Proof.Machine.execCpLd i s)
  | 0xEA => some (Sys2Proof.Machine.execCpSt i s)
  | 0xEB => some (Sys2Proof.Machine.execCpGg i s)
  | 0xEC => some (Sys2Proof.Machine.execCpRed i s)
  | 0xED => some (Sys2Proof.Machine.execCpFill i s)
  | 0xEE => some (Sys2Proof.Machine.execCpBcast i s)
  | 0xEF => some (Sys2Proof.Machine.execCpGat i s)
  | 0xF0 => some (Sys2Proof.Machine.execCpSct i s)
  | 0xF1 => some (Sys2Proof.Machine.execCpFence i s)
  | 0xF2 => some (Sys2Proof.Machine.execCpRes i s)
  | 0xF3 => some (Sys2Proof.Machine.execCpStat i s)
  | 0xF4 => some (Sys2Proof.Machine.execChStep i s)
  | 0xF5 => some (Sys2Proof.Machine.execChMark i s)
  | 0xF6 => some (Sys2Proof.Machine.execTrStart i s)
  | 0xF7 => some (Sys2Proof.Machine.execTrStop i s)
  | 0xF8 => some (Sys2Proof.Machine.execTrEmit i s)
  | 0xF9 => some (Sys2Proof.Machine.execCtrRd i s)
  | 0xFA => some (Sys2Proof.Machine.execSailDef i s)
  | 0xFB => some (Sys2Proof.Machine.execSailReef i s)
  | 0xFC => some (Sys2Proof.Machine.execSailShake i s)
  | 0xFD => some (Sys2Proof.Machine.execSailDrop i s)
  | 0xFE => some (Sys2Proof.Machine.execSailQuery i s)
  | 0xFF => some (Sys2Proof.Machine.execSailWb i s)
  | _ => none

end Sys2Proof.Machine
end

