-- ==== Sys2Proof/Machine/Issue.lean ====
section
/-! DEFINITION. The issue engine (spec/15_issue_engine.md R398 to R410, R413 to R415; spec/03_launch_walker.md R96, R97):
when a stream is ready, issuing an instruction of the portable form or a native bundle, and stopping a stream. -/
namespace Sys2Proof.Machine

/-! ### What a blocked stream waits for (R106, R21, R115 to R119) -/

/-- A code that interrupts a wait: FWQ_EMPTY ends every wait of the control stream at once (R332); a fault of a copy, and a
poisoned atomic, end the wait of rdv for its counters (R37, R255, R293). -/
def Stream.interrupted (st : Stream) (w : Wait) : Bool :=
  (w != .translation && w != .held && st.due.any fun d => d.path == 6)
    || (w == .copyMatrix && (st.poisoned != [] || st.due.any fun d => d.path == 4))

/-- What a stream waits for has come about, so that it performs its instruction again: a barrier releases its streams in
the cycle after its generation completes (R116 to R118), and a token taken was there before this cycle (R26). A wait for
a sail or for order is looked at once a cycle; a translation and a debugger end theirs themselves. -/
def State.waitOver (s : State) (r : StreamRef) (t : Team) (st : Stream) (w : Wait) : Bool :=
  st.interrupted w || match w with
  | .push q => decide ((t.queue q).entries.length < 16)
  | .pop q => (t.queue q).entries != []
  | .tokPush f => decide ((t.fifo f).count < 8)
  | .tokPop f => (t.fifo f).ready
  | .counter p n => decide (st.count p ≤ n) || (st.due.any fun d => d.path == p) || (p == 2 && st.ackLost)
      || (p == 3 && st.poisoned != [])
  | .room p => st.hasRoom p
  | .fence id => (s.acc? id).isNone
  | .copyMatrix => st.count 4 == 0 && st.count 5 == 0
  | .slot k => !t.copy.names k
  | .flags => st.flagsSettled
  | .bar k g => (t.bar k).gen != g && t.shown.barGen k != g
  | .cbar k g => (s.cluster? t.cluster).map (fun c => (c.bar k).gen) != some g && t.shown.cbarGen k != g
  | .rdv g => t.rdv.gen != g && t.shown.rdv.2 != g
  | .phase => t.change.isNone
  | .regroup g => if st.mark = some (.regroup g) then t.regroup.gen != g && t.shown.regroup.2 != g
    else st.quiet && (t.regroup.arrived == [] || t.regroupMembers.contains r.idx)
  | .rsPush k n => decide ((t.rs k).recs.length + n ≤ 1024)
  | .rsPop k n => (t.rs k).waiting.head? == some r.idx && decide (n ≤ (t.rs k).recs.length)
  | .engineRoom q => if q = 2 then decide (t.matrix.queue.length < 32) else decide (t.matrix.fwq.length < 16)
  | .ring n =>
    let units := Nat.max 1 (((s.launch? t.launch).map fun l => l.record.ring).getD 0)
    decide (t.copy.ldq.spilled + t.copy.stq.spilled + n ≤ units * 1024)
  | .page => !s.pages.batches.any fun b => b.faults.any fun f => f.who == .record t.cluster t.teamid r.idx
  | .translation | .sail _ | .order | .held => false

/-- The unit a stream of a team runs. -/
def Team.unitOf (t : Team) (idx : Nat) : Option Translation := if idx = 32 then t.ctlUnit else t.grpUnit

/-- A team being saved fetches nothing new; a stream of class 2 runs on to its next ravel point (R100). -/
def Team.mayFetch (t : Team) (cls : Nat) (st : Stream) (u : Translation) : Bool :=
  !t.saving || (cls == 2 && st.native && !u.ravels.any fun e => e.bundle == st.bundle)

/-- A die's cores have stopped for its PLL (R479): a change of point waits until no stop of R409 is in progress there. -/
def State.relocking (s : State) (d : Nat) : Bool :=
  (s.die d).relock && !s.cores.any fun k => k.at_.die == d && (match k.team with
    | some t => t.order.any fun i => match (t.stream? i).map Stream.stop with
        | some (.asked _) => true
        | _ => false
    | none => false)

/-- A stream may issue: it has not ended, sleeps not, is neither blocked nor parked nor stopped, its delay has passed, and
its team is not trapped, saved or changing phase, and its job is not ending (R95, R96, R100, R128, R131, R479). -/
def State.mayIssue (s : State) (r : StreamRef) : Bool :=
  match s.team? (coreOf r) with
  | none => false
  | some t =>
    match t.stream? r.idx, t.unitOf r.idx with
    | some st, some u =>
      let l := s.launch? t.launch
      let cls := (l.map fun l => l.record.cls).getD 0
      (l.bind Launch.status).isNone && !st.finished && st.sleep == 0 && st.stop == .running && st.parked.isNone && st.delay == 0
        && t.trapped.isNone && (t.change.isNone || st.wait == some .phase) && t.mayFetch cls st u
        && !s.relocking r.die
        && (match st.wait with
          | none => true
          | some w => s.waitOver r t st w)
    | _, _ => false

/-! ### Links at the first issue (R445, R453) -/

/-- The first bundle of a stream after placement or resumption records START or PREEMPT. -/
def State.opening (s : State) (r : StreamRef) : State :=
  match s.team? (coreOf r), s.stream? r with
  | some t, some st =>
    let walker := some (s.terminalRef 6 255 9)
    let pos : Position := ⟨st.func, st.off⟩
    let cls := ((s.launch? t.launch).map fun l => l.record.cls).getD 0
    match st.frozen with
    | some at_ =>
      let q := s.addLink (coreOf r) { kind := 0x0D, detail := cls, stream := r.idx, pos := pos, start := at_, prod := walker }
      q.1.modStream r fun st => { st with frozen := none, link := some q.2, stepStart := some (st.stepStart.getD s.now) }
    | none =>
      if st.link.isSome || st.stepStart.isSome then s
      else
        let q := s.addLink (coreOf r) { kind := 0x10, stream := r.idx, pos := pos, start := s.now, prod := walker }
        q.1.modStream r fun st => { st with link := some q.2, stepStart := some s.now }
  | _, _ => s

/-- A bundle of a team has been issued: the window and the partition count it (R465, R467, Table 18.6). -/
def State.countIssue (s : State) (c : CoreRef) : State :=
  match s.team? c with
  | none => s
  | some t =>
    let part := s.partOf t.launch
    let s := s.modTeam c fun t => { t with capture := t.capture.map fun w => { w with bundles := w.bundles + 1 } }
    let s := { s with trace := { s.trace with pages := modAt s.trace.pages part fun p => { p with jobs := addCount 1 1 p.jobs } } }
    s.tally part 0 1

/-! ### Deferred codes and poisoned registers (R23, R37, R39, R255) -/

/-- The lanes in which a portable instruction reads its sources: those of its guard, or the one that decides for the
whole stream (R59, R105). -/
def Cx.readLanes (c : Cx) (opc : Nat) (i : Ins) : BitVec 32 :=
  if 0xB8 ≤ opc ∧ opc ≠ 0xC7 ∧ opc ≠ 0xC2 ∧ opc ≠ 0xD1 then (if c.performs i then maskOfList [c.lead] else 0)
  else c.lanes i

/-- What a portable instruction reads, with the lanes. -/
def Cx.readsOf (c : Cx) (opc : Nat) (i : Ins) : List (Loc × BitVec 32) :=
  let val (m : BitVec 32) (o : Opnd) : List (Loc × BitVec 32) := (opndLocs c.st o 32).map fun l => (l, m)
  let guard := match i.guard with
    | .always => []
    | .whenTrue o | .whenFalse o => val c.st.active o
  let m := c.readLanes opc i
  let branch (k : Nat) : BitVec 32 :=
    if opc = 0xBA then (maskOf fun l => c.st.active.getLsbD l && (c.arg i 0 1 l == 1) == (k == 0))
    else if opc = 0xBB then (maskOf fun l => c.st.active.getLsbD l && Nat.min (c.arg i 0 32 l) (i.succ.length - 1) == k)
    else c.st.active
  guard ++ (i.src.map (val (if 0xB8 ≤ opc ∧ opc ≤ 0xBD then c.st.active else m))).flatten
    ++ (i.falls.map (val (c.st.active &&& ~~~(c.lanes i)))).flatten
    ++ (i.succ.zipIdx.map fun t => t.1.args.map fun n => (Loc.val c.st.frame n, branch t.2)).flatten

/-- The first poisoned register that is read. -/
def Stream.poisonRead (st : Stream) (reads : List (Loc × BitVec 32)) : Option PoisonMark :=
  st.poisoned.find? fun p => reads.any fun r => r.1 == p.loc && (r.2 &&& p.lanes &&& ~~~p.covered) != 0

/-- What becomes due before an instruction takes effect: FWQ_EMPTY, then ATOMIC_POISON (R39). -/
def Cx.dueNow (c : Cx) (reads : List (Loc × BitVec 32)) : Option Out :=
  match c.st.due.find? fun d => d.path == 6 with
  | some d => some (c.trapDue d)
  | none => (c.st.poisonRead reads).map fun p => c.trapPoison p

/-! ### The portable form (log entry 4) -/

/-- The stream as it issues: its wait is over, its place in the order of R96 begins anew, and it issues once in a cycle. -/
def Stream.issuingAt (st : Stream) : Stream :=
  { st with wait := none, idle := 0, readyFor := 0, yielded := false, delay := 1 }

/-- What a bundle holds, as the pairing of two bundles and the float pipe of a B-core look at it (R405, R406): an instruction
in slot M, X or C; one in slot F; one on f64 there. -/
structure IssuePort where
  mxc : Bool := false
  f : Bool := false
  f64 : Bool := false
  deriving DecidableEq, Repr

/-- The core can issue a bundle in this cycle (R405, R406). -/
def Core.admits (k : Core) (isB : Bool) (p : IssuePort) : Bool :=
  if isB then k.used == 0 && (k.hold == 0 || !p.f)
  else k.used == 0 || (k.used == 1 && !(p.mxc && k.usedMxc) && !(p.f64 && k.usedF) && !(p.f && k.usedF64))

/-- A bundle takes its place in the core's cycle. -/
def Core.take (k : Core) (isB : Bool) (group : Bool) (p : IssuePort) : Core :=
  if isB then
    { k with used := if group then 2 else 1, hold := if p.f64 then (if group then 8 else 2) else k.hold }
  else { k with used := k.used + 1, usedMxc := k.usedMxc || p.mxc, usedF := k.usedF || p.f, usedF64 := k.usedF64 || p.f64 }

/-- An instruction is on f64: its primary type (which fmaw.s has) or its source type is f64 (R405). -/
def onF64 (i : Ins) : Bool := i.form.toNat == tF64 || i.attr.srcTy == tF64

/-- A bundle of one slot with an opcode; an instruction that has no native form takes no slot of M, X and C. -/
def portOf (opc : Nat) (i : Ins) : IssuePort :=
  { mxc := decide (2 ≤ slotOf opc) && !([0xB8, 0xBB, 0xBC, 0xBD].contains opc), f := slotOf opc == 1
    f64 := slotOf opc == 1 && onF64 i }

/-- What a bundle holds. -/
def Bundle.port (b : Bundle) : IssuePort :=
  { mxc := b.slots.any fun x => decide (2 ≤ x.num), f := b.slots.any fun x => x.num == 1
    f64 := b.slots.any fun x => x.num == 1 && onF64 x.ins }

/-- The stream with the frame and the value numbers of an instruction of its unit. -/
def Stream.atItem (st : Stream) (frame : Nat) (x : UItem) : Stream :=
  { st with frame := frame, func := x.func, off := x.off, nextVal := x.first, succ := x.succ }

/-- No value that the instruction at a portable stream's place reads or writes is pending (R404; log entry 4). -/
def Cx.plainReady (c : Cx) (u : Translation) : Bool :=
  c.st.pending == [] ||
    match (u.unit[c.st.blk]?).bind fun b => (b.items[c.st.item]?).map fun x => (b, x) with
    | none => true
    | some (b, x) =>
      match decodeFields x.nres x.bytes with
      | .error _ => true
      | .ok (opc, i, _) =>
        let c : Cx := { c with st := c.st.atItem b.frame x }
        let results := match b.items[c.st.item + 1]? with
          | none => 0
          | some y => y.first - x.first
        !(((c.readsOf opc i).any fun l => l.2 != 0 && c.st.pending.contains l.1)
          || (List.range results).any fun k => c.st.pending.contains (.val b.frame (x.first + k)))

/-- An instruction that joins what the cycle's arrivals are ordered for, and blocks whatever the cycle's issue (R116 to R118,
R272, R274): an arrival at a barrier, at rdv or at regroup, and a full pop of records that cannot be served yet. -/
def Cx.joins (c : Cx) (opc : Nat) (i : Ins) : Bool :=
  if opc = 0xB0 then
    let x := (c.t.recs[i.attr.low % 4]?).getD {}
    let p := (lanesOf (c.lanes i)).length
    i.attr.low / 4 != 1 && p != 0
      && !((x.waiting.head?.getD c.r.idx) == c.r.idx && decide (p ≤ x.recs.length))
  else c.st.mark.isNone && [0xBF, 0xC0, 0xC1, 0xB1].contains opc

/-- The opcode of an instruction of a unit: its first byte (R48). -/
def UItem.opc (x : UItem) : Nat := ((x.bytes.head?).map BitVec.toNat).getD 0

/-- What the next instruction or bundle of a stream takes in its core's cycle; none where it takes nothing: it joins an
order of arrivals, or it gives way to a code that is due at once (R23, R332). -/
def Cx.portNeeded (c : Cx) (u : Translation) : Option IssuePort :=
  if c.st.due.any fun d => d.path == 6 then none
  else if c.st.native then
    match u.bundle c.st.bundle with
    | none => none
    | some b => if b.slots.any fun x => c.joins x.opc x.ins then none else some b.port
  else
    match (u.unit[c.st.blk]?).bind fun b => b.items[c.st.item]? with
    | none => none
    | some x =>
      if slotOf x.opc = 1 ∨ x.opc = 0xB0 then
        match decodeFields x.nres x.bytes with
        | .ok (opc, i, _) => if c.joins opc i then none else some (portOf opc i)
        | .error _ => none
      else if c.joins x.opc {} then none else some (portOf x.opc {})

/-! ### The spin detector (R97, R113) -/

/-- The slot's place in its instruction's function (R410): refined by the slot, else that of the ravel entry. -/
def Translation.placeOf (u : Translation) (bundle ravel slot : Nat) : Position :=
  match (u.places[bundle]?).bind fun ps => ps.lookup slot with
  | some p => p
  | none => match u.ravels[ravel]? with
    | some e => ⟨e.func, e.off⟩
    | none => ⟨u.key.entry, 0⟩

/-- The values of a ravel entry that are live, in the active lanes; none while one of them is pending. -/
def Cx.liveValues (c : Cx) (e : RavelEntry) : Option (List TVal) :=
  let live := e.vals.filter fun v => v.loc != 0
  let locs (v : RavelVal) : List Loc := match v.loc with
    | 1 | 5 => locParts (.reg v.place) (tyBits v.ty)
    | 2 | 6 => [.pred v.place]
    | _ => []
  if live.any fun v => (locs v).any c.st.pending.contains then none
  else
    let st := (c.st.landings.filter fun x => !x.var).foldl Stream.land c.st
    some (live.map fun v =>
      let x := v.read st (laneCount c.r.idx)
      { x with lanes := x.lanes.zipIdx.map fun w => if c.st.active.getLsbD w.2 then w.1 else 0 })

/-- The spin detector at the issue of bundle `here`, of some kind (R97), on a group; `vals` are the live values of its ravel
entry, none when one of them is pending. -/
def Cx.spinAt (c : Cx) (here kind : Nat) (vals : Option (List TVal)) (pos : Position) (s : State) : State :=
  if c.r.idx = 32 then s
  else
    let change (st : Stream) : Stream :=
      if kind = 4 then
        let same := vals.isSome && st.spinVals.lookup here == vals
        let spins := if same then st.spins + 1 else 0
        let kept := st.spinVals.filter fun p => p.1 != here
        let st := { st with spins := spins, spinVals := match vals with
          | some v => (here, v) :: kept
          | none => kept }
        if spins = 16 ∧ !st.demoted then { st with demoted := true, spinHead := some here }
        else if st.demoted && !same then { st with demoted := false, spins := 0 }
        else st
      else st
    let leave (st : Stream) : Stream :=
      if st.demoted && (kind == 3 || ((kind == 2 || kind == 4) && st.spinHead != some here)) then
        { st with demoted := false, spins := 0 }
      else st
    let was := ((s.stream? c.r).map Stream.demoted).getD false
    let s := s.modStream c.r fun st => leave (change st)
    if !was && ((s.stream? c.r).map Stream.demoted).getD false then
      (s.teamEvent c.core c.r.idx 0x13 pos).teamTally c.core 14 1
    else s

/-- The spin detector at the issue of a native bundle. -/
def Cx.spin (c : Cx) (u : Translation) (b : Bundle) (s : State) : State :=
  c.spinAt c.st.bundle b.kind ((u.ravels[b.ravel]?).bind c.liveValues) (u.placeOf c.st.bundle b.ravel 5) s

/-- The live values of a ravel entry as a portable stream holds them in a block. -/
def Cx.livePlain (c : Cx) (u : Translation) (b : UBlock) (e : RavelEntry) : Option (List TVal) :=
  let locs := (e.vals.filter fun v => v.loc != 0).map fun v =>
    Loc.val (((u.unit.find? fun k => k.chain.length == v.frame && k.chain.isPrefixOf b.chain).map UBlock.frame).getD 0) v.num
  if locs.any c.st.pending.contains then none
  else some (locs.map fun l =>
    let x := c.st.get l
    { x with lanes := x.lanes.zipIdx.map fun w => if c.st.active.getLsbD w.2 then w.1 else 0 })

/-- The spin detector at the issue of the first instruction of a block of the portable form (log entry 4): that of the block's
first bundle in the translation, and of the bundle after it where the first one is of kind 5 (R435). -/
def Cx.spinPlain (c : Cx) (u : Translation) (s : State) : State :=
  if c.r.idx = 32 || c.st.item != 0 then s
  else
    match u.unit[c.st.blk]?, u.starts[c.st.blk]? with
    | some b, some i =>
      let one (i : Nat) (s : State) : State := match u.bundle i with
        | some x => c.spinAt i x.kind ((u.ravels[x.ravel]?).bind (c.livePlain u b)) (u.placeOf i x.ravel 5) s
        | none => s
      match u.bundle i with
      | some x => if x.kind = 5 then one (i + 1) s else one i s
      | none => s
    | _, _ => s

/-! ### Multiplexed quantities at issue (Table 18.6) -/

/-- An instruction has an effect: in some lane, or at all (R59, R398). -/
def Cx.acts (c : Cx) (opc : Nat) (i : Ins) : Bool :=
  if 0xB8 ≤ opc ∧ opc ≠ 0xC7 then c.performs i else c.lanes i != 0

/-- The quantity of an access: a local load (a window load when a lane names another core), a global load, a store, an atomic or
reduction. -/
def Cx.accessKind (c : Cx) (opc : Nat) (i : Ins) : Option Nat :=
  if [0x80, 0x82, 0x88, 0x8A].contains opc then
    some (if (lanesOf (c.lanes i)).any fun l => c.arg i 0 32 l / 2 ^ 24 != 0 then 17 else 16)
  else if [0x81, 0x83, 0x89, 0x8B].contains opc then some 18
  else if 0x84 ≤ opc ∧ opc ≤ 0x8F then some 19
  else if 0x98 ≤ opc ∧ opc ≤ 0xA7 then some 20
  else none

/-- The lanes of a tag.lk whose key is in the table. -/
def Cx.tagHits (c : Cx) (i : Ins) : Nat :=
  ((lanesOf (c.lanes i)).filter fun l =>
    let k := c.arg i 0 (tyBits i.form.toNat) l
    decide (((c.t.tagSet (k % 256)).lookup (k % 256) k true).1 < 2 ^ 31)).length

/-- A branch parts the lanes of its path. -/
def Cx.splits (c : Cx) (i : Ins) : Bool :=
  let yes := maskOf fun l => c.st.active.getLsbD l && c.arg i 0 1 l == 1
  yes != 0 && (c.st.active &&& ~~~yes) != 0

/-- What an instruction that has issued adds to the quantities; `c` is its stream before it, and `s` the state after it. -/
def Cx.countIns (c : Cx) (opc : Nat) (i : Ins) (s : State) : State :=
  if !c.acts opc i then s
  else
    let add (q n : Nat) (s : State) : State := s.teamTally c.core q n
    let s := match c.accessKind opc i with
      | some q => add q 1 s
      | none => s
    if opc = 0x92 then add 26 ((lanesOf (c.lanes i)).length - c.tagHits i) (add 25 (c.tagHits i) s)
    else if opc = 0xAF then add 51 ((lanesOf (c.lanes i)).filter fun l => c.arg i 0 1 l == 1).length s
    else if opc = 0xBA then (if c.splits i then add 10 1 s else s)
    else if opc = 0xC5 then (if c.st.headAt.isSome then add 48 1 s else s)
    else if 0xE9 ≤ opc ∧ opc ≤ 0xF1 then
      let ring (t : Team) : Nat := t.copy.ldq.spilled + t.copy.stq.spilled
      add 41 (((s.team? c.core).map ring).getD 0 - ring c.t) (add 38 1 s)
    else s

/-- What a slot adds to the quantities. -/
def Cx.countSlot (c : Cx) (num opc : Nat) (i : Ins) (s : State) : State :=
  let s := s.teamTally c.core (2 + num) 1
  c.countIns opc i (if c.acts opc i then s else s.teamTally c.core 7 1)

/-- The active lanes of an issued group bundle. -/
def Cx.countLanes (c : Cx) (s : State) : State :=
  if c.r.idx = 32 then s else s.teamTally c.core 9 (lanesOf c.st.active).length

/-- What the issue of an instruction of the portable form counts, unless it blocked: it takes its place in the core's cycle as
a bundle of one slot (log entry 4), and the spin detector sees it. `c` is the stream before it. -/
def Cx.issuedPlain (c : Cx) (u : Translation) (opc : Nat) (i : Ins) (s : State) : State :=
  if ((s.stream? c.r).bind Stream.wait).isSome then s
  else
    let s := (c.countLanes (c.countSlot (slotOf opc) opc i s)).countIssue c.core
    c.spinPlain u (s.modCore c.core fun k => k.take (s.die c.r.die).isB (c.r.idx != 32) (portOf opc i))

/-- Issues the instruction at a portable stream's place. -/
def State.issuePortable (s : State) (r : StreamRef) (u : Translation) (st : Stream) : Out :=
  match (u.unit[st.blk]?).bind fun b => (b.items[st.item]?).map fun x => (b, x) with
  | none => .fault .badCode
  | some (b, x) =>
    match decodeFields x.nres x.bytes with
    | .error _ => .fault .badCode
    | .ok (opc, i, _) =>
      let s := s.modStream r fun st => st.issuingAt.atItem b.frame x
      let s := { s.opening r with cur := some r }
      match (s.team? (coreOf r)).bind fun t => (t.stream? r.idx).map fun st => (⟨s, r, t, st⟩ : Cx) with
      | none => .next s
      | some c =>
        (c.dueNow (c.readsOf opc i)).getD (match runFields opc i s with
          | none => .fault .badCode
          | some (.next t) => .next (c.issuedPlain u opc i t)
          | some o => o)

/-! ### Native bundles -/

/-- A slot executes in at least one active lane (R398). -/
def Cx.runs (c : Cx) (x : Slot) : Bool := c.acts x.opc x.ins

/-- A pending bit stalls the bundle (R404). -/
def Cx.stalled (c : Cx) (b : Bundle) : Bool :=
  b.slots.any fun x =>
    (match x.guard with
      | some g => c.st.pending.contains (.pred g)
      | none => false)
    || (c.runs x && (x.reads ++ x.writes).any c.st.pending.contains)

/-- Fixed-latency instructions in flight with those of a bundle (R403). -/
def Cx.fixedCount (c : Cx) (b : Bundle) : Nat :=
  let fixed (x : Slot) : Bool :=
    c.runs x && x.writes != [] && (isFixed x.opc || [0x82, 0x83, 0x86, 0x87].contains x.opc)
  ((c.st.landings.filter fun l => !l.var).map Landing.ins).eraseDups.length + (b.slots.filter fixed).length

/-- Entries that a brc pushes on the mask stack (R400). -/
def Cx.pushes (c : Cx) (x : Slot) : Nat :=
  if x.opc ≠ 0xBA then 0
  else
    if !c.splits x.ins then 0
    else
      let rc := c.warg x.ins 3 24
      let top : Bool := match c.st.stack with
        | e :: _ => e.recon && e.pc == rc
        | [] => false
      (if rc == 0xFFFFFF || top then 0 else 1) + (if c.warg x.ins 1 24 = rc then 0 else 1) + (if c.warg x.ins 2 24 = rc then 0 else 1)

/-- The conflicts of a spill access: the areas of 256 bytes put one word of every lane into one bank (R83, R210, R470). -/
def State.loseSpill (s : State) (r : StreamRef) (m : BitVec 32) (w : Nat) (wide : Bool) : State :=
  let words (ls : List Nat) : List Nat := (ls.map fun l => (List.range (if wide then 2 else 1)).map fun j => 64 * l + w + j).flatten
  let ls := lanesOf m
  (if (s.die r.die).isB then [ls.filter fun l => l < 16, ls.filter fun l => 16 ≤ l] else [ls]).foldl
    (fun s ls => s.lose (coreOf r) 7 (bankLoss (words ls))) s

/-- A spill access (R429): it reaches the lane's own spill words and never faults. -/
def Cx.spillAccess (c : Cx) (x : Slot) (w : Nat) : Out :=
  let m := c.lanes x.ins
  let wide := tyBits x.ins.form.toNat == 64
  let c := { c with s := c.s.loseSpill c.r m w wide }
  if x.opc = 0x84 then
    let word (high : Bool) : TVal := ⟨tI32, (List.range (laneCount c.r.idx)).map fun l =>
      BitVec.ofNat 64 (let v := c.arg x.ins 1 (if wide then 64 else 32) l; if high then v / 2 ^ 32 else v % 2 ^ 32)⟩
    .next (c.update fun st =>
      let st := st.put (.spill w) m (word false)
      (if wide then st.put (.spill (w + 1)) m (word true) else st).retired)
  else
    let word (l : Nat) : Nat :=
      (c.st.get (.spill w)).lane l + (if wide then 2 ^ 32 * (c.st.get (.spill (w + 1))).lane l else 0)
    c.finish 0x80 x.ins [x.ins.form.toNat] m ((lanesOf m).map fun l => (l, { vals := [word l] }))

/-- Runs the instruction of a slot. -/
def State.runSlot (s : State) (r : StreamRef) (u : Translation) (b : Bundle) (x : Slot) : State :=
  let p := (s.stream? r).map fun st => u.placeOf st.bundle b.ravel x.num
  let s := s.modStream r fun st => { st with slot := x.num, func := (p.map Position.func).getD 0, off := (p.map Position.off).getD 0 }
  let out := match x.spill with
    | some w => withCx { s with cur := some r } fun c => c.spillAccess x w
    | none => (runFields x.opc x.ins { s with cur := some r }).getD (.next s)
  match out with
  | .next t => t
  | .fault _ | .refused _ => s

/-- What the bundle's waiting instruction had noted before it waited; the slots before it leave that alone. -/
def Stream.rearm (st old : Stream) : Stream :=
  { st with stage := old.stage, mark := old.mark, headAt := old.headAt, prod := old.prod }

/-- NATIVE_CHECK (R414): the stream stops before the bundle until the unit has been translated again; a translation that
was made for this bundle ends the job with TE_VERIFY. -/
def Cx.nativeCheck (c : Cx) (u : Translation) : State :=
  let p := u.placeOf c.st.bundle ((u.ravels.findIdx? fun e => e.bundle == c.st.bundle).getD c.st.ravel) 5
  let s := c.s.teamEvent c.core c.r.idx 0x05 p
  if u.checkedAt = some c.st.bundle then
    (s.modDie c.r.die fun d => { d with verify := some (0x43, p.func, p.off) }).jobFault c.t.asid 0x01
  else
    let s := s.modStream c.r fun st => { st with wait := some .translation }
    if (s.die c.r.die).jobs.any fun j => j.2.key == u.key then s
    else
      let code := ((s.launch? c.t.launch).map fun l => l.record.code).getD 0
      let job : KnitJob := { key := u.key, asid := c.t.asid, code := code, part := s.partOf c.t.launch, check := some c.st.bundle }
      s.modDie c.r.die fun d => { d with jobs := d.jobs ++ [(knitterRow c.r.core, job)] }

/-- The order of R39 among the codes that the slots of a bundle raise. -/
def trapRank (code : Nat) : Nat :=
  [0x22, 0x01, 0x40, 0x28, 0x50, 0x1A, 0x1B, 0x32, 0x41, 0x42, 0x70, 0x23, 0x24, 0x27, 0x21, 0x20, 0x31, 0x48, 0x29, 0x1C,
    0x18, 0x19].idxOf code

/-- The code of the trap a slot raised when it was tried. -/
def State.trapCode (s : State) (c : CoreRef) : Option Nat := ((s.team? c).bind Team.trapped).map TrapRecord.code

/-- The trap that comes first in the order of R39. -/
def firstTrap (c : CoreRef) (xs : List State) : Option State :=
  xs.foldl (fun best s => match s.trapCode c, best with
    | none, b => b
    | some _, none => some s
    | some k, some b => if trapRank k < trapRank ((b.trapCode c).getD 0) then some s else some b) none

/-- The conflict matrix at a bundle of kind 3 (R470): an open window records the row sums and zeroes it. -/
def State.conflictRecord (s : State) (c : CoreRef) (idx : Nat) (pos : Position) : State :=
  match s.team? c with
  | none => s
  | some t =>
    if t.capture.isNone then s
    else
      let m := (s.core c).matrix
      let row (r : Nat) : Nat := ((m.drop (32 * r)).take 32).foldl (· + ·) 0
      let payload := ((List.range 8).map fun r => toBytes 4 (Nat.min (row r) (2 ^ 32 - 1))).flatten
      (s.traceWrite { type := 6, core := c, stream := idx, asid := t.asid, pos := pos, payload := payload }).modCore c
        fun k => { k with matrix := [] }

/-- What a bundle adds to the multiplexed counters (Table 18.6). -/
def Cx.tallies (c : Cx) (b : Bundle) (second : Bool) (s : State) : State :=
  let s := b.slots.foldl (fun s x => c.countSlot x.num (if x.spill.isSome then 0 else x.opc) x.ins s) s
  let s := s.teamTally c.core 8 b.literals
  let s := c.countLanes (if second then s.teamTally c.core 1 1 else s)
  if b.kind = 0 then s else s.teamTally c.core 15 1

/-- Moves to the next bundle: the one a branch chose, or the one after; DELAY begins (R399, R402). -/
def Stream.advance (st : Stream) (isB : Bool) (idx delay ravel : Nat) : Stream :=
  { st with issuing := false, slot := 0, bundle := st.jump.getD (st.bundle + 1), jump := none, ravel := ravel
            delay := Nat.max delay (if isB ∧ idx ≠ 32 then 2 else 1) }

/-- Executes a bundle that may issue. -/
def Cx.execBundle (c : Cx) (u : Translation) (b : Bundle) : Out :=
  let isB := (c.s.die c.r.die).isB
  let clear (s : State) : State := s.modStream c.r fun st => { st with issuing := false, slot := 0 }
  let tries := b.slots.map fun x => (x.num, c.s.runSlot c.r u b x)
  match firstTrap c.core (tries.map Prod.snd) with
  | some s => .next ((clear s).settleTrap c.core)
  | none =>
    let waits (s : State) : Bool := match s.stream? c.r with
      | some st => st.wait.isSome
      | none => false
    match [3, 4, 2, 0, 1].findSome? fun k => (tries.find? fun x => x.1 == k && waits x.2).map Prod.snd with
    | some s => .next (clear s)
    | none =>
      let k := c.s.core c.core
      let s := b.slots.foldl (fun s x => (s.modStream c.r fun st => st.rearm c.st).runSlot c.r u b x) c.s
      let s := (c.tallies b (!isB && k.used == 1) s).countIssue c.core
      let s := s.modCore c.core fun k => k.take isB (c.r.idx != 32) b.port
      let s := s.touchLine c.core u.key (c.st.bundle / 8)
      let s := if b.kind = 3 then s.conflictRecord c.core c.r.idx (u.placeOf c.st.bundle b.ravel 5) else s
      .next ((c.spin u b s).modStream c.r fun st => st.advance isB c.r.idx b.delay b.ravel)

/-- Issues the next bundle of a native stream (R400, R402 to R406, R410, R413): lanes that arrive at a reconvergence entry
may wait; a pending bit, more than 16 results in flight, or the core's other bundles hold it back. -/
def State.issueNative (s : State) (r : StreamRef) (u : Translation) (t : Team) (st : Stream) : Out :=
  match u.bundle st.bundle with
  | none => .next (Cx.nativeCheck ⟨s, r, t, st⟩ u)
  | some b =>
    let q := if b.kind = 5 then st.reconverge st.bundle (st.stack.length + 1) else (st, false)
    if q.2 then
      .next ((s.modStream r fun _ => { q.1.issuingAt with bundle := q.1.jump.getD st.bundle, jump := none, delay := 1 }).teamTally
        (coreOf r) 11 1)
    else
      let c : Cx := ⟨s, r, t, q.1⟩
      if b.slots.any fun x => 7 < q.1.stack.length + c.pushes x then .next (Cx.nativeCheck ⟨s, r, t, st⟩ u)
      else if c.stalled b || decide (16 < c.fixedCount b)
          || (c.portNeeded u).any (fun p => !(s.core (coreOf r)).admits (s.die r.die).isB p) then .next s
      else
        let p := u.placeOf st.bundle b.ravel 5
        let here := { q.1.issuingAt with issuing := true, func := p.func, off := p.off }
        let s := (s.modStream r fun _ => here).opening r
        match s.team? (coreOf r), s.stream? r with
        | some t, some st =>
          let c : Cx := ⟨{ s with cur := some r }, r, t, st⟩
          let reads := (b.slots.map fun x => x.reads.map fun l => (l, if c.runs x then c.lanes x.ins else 0)).flatten
          match c.dueNow (reads ++ b.slots.filterMap fun x => x.guard.map fun g => (.pred g, st.active)) with
          | some (.next s) => .next ((s.modStream r fun st => { st with issuing := false }).settleTrap (coreOf r))
          | some o => o
          | none => c.execBundle u b
        | _, _ => .next s

/-- BUNDLE_ISSUE (R402): a ready stream issues; one that is not ready does nothing. -/
def execBundleIssue (r : StreamRef) (s : State) : Out :=
  if !s.mayIssue r then .next s
  else
    match s.team? (coreOf r) with
    | none => .next s
    | some t =>
      match t.stream? r.idx, t.unitOf r.idx with
      | some st, some u =>
        if st.native then s.issueNative r u t st
        else if Cx.plainReady ⟨s, r, t, st⟩ u
            && (Cx.portNeeded ⟨s, r, t, st⟩ u).all (fun p => (s.core (coreOf r)).admits (s.die r.die).isB p) then
          s.issuePortable r u st
        else .next s
      | _, _ => .next s

/-! ### Stops (R409, R471, R472) -/

/-- The Delaro position at which a stream stands (R440). -/
def Team.standsAt (t : Team) (idx : Nat) (st : Stream) : Position :=
  match t.unitOf idx with
  | none => ⟨st.func, st.off⟩
  | some u =>
    if st.native then
      match u.bundle st.bundle with
      | some b => u.placeOf st.bundle b.ravel 5
      | none => ⟨st.func, st.off⟩
    else match (u.unit[st.blk]?).bind fun b => b.items[st.item]? with
      | some x => ⟨x.func, x.off⟩
      | none => ⟨st.func, st.off⟩

/-- A record of firmware debug goes to the sink in the hub's SRAM, above the loss log (R472; log entry 27). -/
def State.firmwareRecord (s : State) (c : CoreRef) (idx : Nat) (pos : Position) : State :=
  let seq := (s.die c.die).seq
  let bytes := toBytes 1 0 ++ toBytes 1 0x74 ++ toBytes 1 c.die ++ toBytes 1 c.core ++ toBytes 1 idx ++ [0, 0, 0] ++ toBytes 8 s.now
    ++ toBytes 2 pos.func ++ [0, 0] ++ toBytes 4 pos.off ++ toBytes 8 seq ++ List.replicate 32 0
  (s.writeBytes (flatHub (16384 + 64 * (seq % 65536))) bytes).modDie c.die fun d => { d with seq := (d.seq + 1) % 2 ^ 64 }

/-- STREAM_STOP (R409): a stream that was asked to stop freezes at its bundle edge once none of its registers is pending, or
parked on a fault. What is in flight stays as its flight record: its landings stand still. DEBUG_STOP then holds the team
(R471); a stop of the management team raises FW_STOP (R472). A trap comes first (R474). -/
def execStreamStop (r : StreamRef) (s : State) : Out :=
  match s.team? (coreOf r) with
  | none => .next s
  | some t =>
    match t.stream? r.idx with
    | none => .next s
    | some st =>
      match st.stop with
      | .running | .stopped _ => .next s
      | .asked code =>
        if t.trapped.isSome || st.finished then .next (s.modStream r fun st => { st with stop := .running })
        else if st.pending ≠ [] ∧ st.parked = none then .next s
        else
          let pos := t.standsAt r.idx st
          let s := s.modStream r fun st => { st with stop := .stopped code }
          if code = 0x73 then
            .next (s.takeTrap r { st.trapAt r.idx 0x73 with pos := pos, lanes := st.active })
          else if code = 0x74 then
            .next ((s.countEvent (s.partOf t.launch) 0x74).firmwareRecord (coreOf r) r.idx pos)
          else .next s

end Sys2Proof.Machine
end

