-- ==== Sys2Proof/Machine/Board.lean ====
section
/-! DEFINITION. Bring-up, clocks and power, soft errors, and the security processor
(spec/19_bringup_power_security.md). -/
namespace Sys2Proof.Machine

/-! ### Power-on (R475 to R478) -/

/-- A step of the power-on sequence is in progress. -/
def State.atStep (s : State) (n : Nat) : State :=
  { s with board := { s.board with step := n, stage := BitVec.ofNat 4 n } }

/-- POWER_GOOD: step 1 begins. -/
def execPowerGood (s : State) : Out := if s.board.step = 0 then .next (s.atStep 1) else .next s

/-- Memory that a module reset leaves as it is: DDR-5, host and peer memory. -/
def keptAtReset (a : Nat) : Bool := 6 ≤ flatTag a && flatTag a < 5000

/-- The state a module reset leaves: everything at its reset value but what is outside the module, what is fused, DDR-5 and
the module incarnation. -/
def State.restarted (s : State) : State :=
  { State.reset with
    agenda := s.agenda
    fresh := s.fresh
    nextId := s.nextId
    mem := s.mem.filter fun c => keptAtReset c.1
    poison := s.poison.filter keptAtReset
    dies := s.dies.map fun d => { ident := d.ident }
    ddrBytes := s.ddrBytes
    nativeStart := s.nativeStart
    fabric := { minc := s.fabric.minc, atsGen := s.fabric.atsGen, refused := s.fabric.refused }
    board := { bootZero := s.board.bootZero, bootDevid := s.board.bootDevid, resets := s.board.resets + 1 }
    security := { serial := s.security.serial, certLen := s.security.certLen, cert := s.security.cert
                  version := s.security.version } }

/-- MODULE_RESET: the sequence starts again (R477). -/
def execModuleReset (s : State) : Out := .next (s.restarted.atStep 1)

/-- The failures that a step of the sequence can have (Table 19.2). -/
def failuresOf (step : Nat) : List Nat :=
  match step with
  | 1 => [0x01, 0x02]
  | 2 => [0x03]
  | 3 => [0x04, 0x05, 0x06]
  | 4 => [0x07]
  | 5 => [0x08]
  | _ => []

/-- The step that follows, step 5 only when the boot configuration asks for it. -/
def State.stepAfter (s : State) (n : Nat) : Nat := if n = 4 ∧ !s.board.bootZero then 6 else n + 1

/-- A die's bit of DIEOK is known once the last of steps 2 to 5 that runs has ended (log entry 32). -/
def State.passed (s : State) (n : Nat) (dieOk : BitVec 6) : State :=
  if n < 2 ∨ 5 < n then s
  else
    let ok := s.board.passing &&& dieOk
    { s with board := { s.board with passing := ok, dieOk := if s.stepAfter n = 6 then ok else s.board.dieOk } }

/-- What a step of Table 19.1 does. -/
def State.stepDone (s : State) (n : Nat) : State :=
  match n with
  | 4 =>
    { s with mem := s.mem.filter fun c => flatTag c.1 < 5000, poison := s.poison.filter fun a => flatTag a < 5000
             cores := [] }
  | 5 =>
    { s with mem := s.mem.filter fun c => !isHbm c.1, poison := s.poison.filter fun a => !isHbm a, written := []
             board := { s.board with zeroed := true } }
  | 6 =>
    { s with sails := [sailZero]
             fabric := { s.fabric with devid := s.board.bootDevid.getD 0, minc := s.fabric.minc + 1 } }
  | 7 => { s with board := { s.board with ready := true } }
  | _ => s

/-- BRING_UP_STEP_END: the step in progress ends, or fails and stays (R477). -/
def execBringUpStepEnd (err : Nat) (dieOk : BitVec 6) (s : State) : Out :=
  let n := s.board.step
  if n = 0 ∨ 7 < n ∨ s.board.err ≠ 0 then .next s
  else if err = 0 then
    let s := (s.passed n dieOk).stepDone n
    .next (if n = 7 then { s with board := { s.board with step := 8 } } else s.atStep (s.stepAfter n))
  else if (failuresOf n).contains err then
    let s := s.passed n dieOk
    .next { s with board := { s.board with err := BitVec.ofNat 8 err } }
  else .next s

/-! ### Clocks and power (R479, R480) -/

/-- The point a die is to run at: held by temperature, or the slower of the one requested and the one the power cap
allows; request 3 acts as 2. -/
def Die.goal (d : Die) : Nat := if d.therm then 2 else Nat.max (Nat.min d.req 2) d.limit

/-- A die whose point is to change begins to relock. -/
def Die.retarget (d : Die) : Die := { d with relock := d.relock || d.goal != d.cur }

/-- HB_DVFS. -/
def execHbDvfs (die : Nat) (w : BitVec 32) (s : State) : Out :=
  if !s.board.ready then .next s
  else .next (s.modDie die fun d => { d with req := (w.extractLsb' 0 2).toNat }.retarget)

/-- The results in flight of a die have landed (R479). -/
def State.landedOn (s : State) (d : Nat) : Bool :=
  s.cores.all fun k => k.at_.die != d || (match k.team with
    | some t => t.order.all fun i => match t.stream? i with
        | some st => st.landings == [] && (st.pending == [] || st.parked.isSome)
        | none => true
    | none => true)

/-- PLL_RELOCK: the die takes its new point, and issue resumes. -/
def execPllRelock (die : Nat) (s : State) : Out :=
  if s.relocking die && s.landedOn die then .next (s.modDie die fun d => { d with cur := d.goal, relock := false })
  else .next s

/-- The die with the highest number that is not yet at 1.6 GHz runs one point slower. -/
def State.lowerOne (s : State) : State :=
  match [5, 4, 3, 2, 1, 0].find? fun d => (s.die d).goal < 2 with
  | some d => s.modDie d fun x => { x with limit := x.goal + 1 }.retarget
  | none => s

/-- The die with the lowest number that the cap holds below its request runs one point faster. -/
def State.raiseOne (s : State) : State :=
  match [0, 1, 2, 3, 4, 5].find? fun d => !(s.die d).therm && Nat.min (s.die d).req 2 < (s.die d).limit with
  | some d => s.modDie d fun x => { x with limit := x.limit - 1 }.retarget
  | none => s

/-- POWER_MEASUREMENT (R480), every 100 µs: the mean is that of ten measurements. -/
def execPowerMeasurement (watts : Nat) (s : State) : Out :=
  if !s.board.ready then .next s
  else
    let xs := (watts :: s.board.samples).take 10
    if xs.length < 10 then .next { s with board := { s.board with samples := xs } }
    else
      let mean := xs.foldl (· + ·) 0 / 10
      let cap := Nat.min s.board.pcap.toNat 6000
      let cool := s.board.cool - 1
      let under := if mean * 100 < cap * 95 then s.board.under + 1 else 0
      let lower := decide (cap < mean) && cool == 0
      let raise := decide (100 ≤ under)
      let s := { s with board := { s.board with samples := xs, power := BitVec.ofNat 13 (Nat.min mean 8191)
                                                cool := if lower then 10 else cool, under := if raise then 0 else under } }
      .next (if lower then s.lowerOne else if raise then s.raiseOne else s)

/-- The job of an address space ends with THERMAL_TRIP. -/
def State.tripJob (s : State) (asid : Nat) : State :=
  match s.walker.launches.find? fun l => l.asid == asid with
  | some l => (s.partEvent (s.partOf l.key) 0x55).endJob asid 0x55 false
  | none => s

/-- THERMAL_TRIP (R480): every job ends without the release of R94, the dies' sails and what else the dies held are lost,
and the compute dies are off until a module reset. -/
def State.thermalTrip (s : State) : State :=
  let s := { s with sails := [] }
  let asids := (s.walker.launches.map Launch.asid).eraseDups
  let s := asids.foldl (fun s a => s.tripJob a) s
  let s := (List.range 6).foldl (fun s d => s.clearDie d) s
  { s with board := { s.board with thermOff := true }, flights := [], fabric := { s.fabric with msgs := [] } }

/-- JUNCTION_TEMPERATURE (R480): above 105 °C a die runs at 1.6 GHz until it falls below 95 °C; above 115 °C the module
powers off its compute dies. -/
def execJunctionTemperature (die : Nat) (celsius : Int) (s : State) : Out :=
  if !s.board.ready || s.board.thermOff || decide (5 < die) then .next s
  else if 115 < celsius then .next s.thermalTrip
  else if 105 < celsius then .next (s.modDie die fun d => { d with therm := true }.retarget)
  else if celsius < 95 then .next (s.modDie die fun d => { d with therm := false }.retarget)
  else .next s

/-! ### Soft errors (R481) -/

/-- A table of an address space, or one below it, maps a flat address; the first number bounds the levels. -/
def State.mapsTo (s : State) (a : Nat) : Nat → Nat → Nat → Bool
  | 0, _, _ => false
  | fuel + 1, l, table =>
    (List.range (levelEntries l)).any fun k =>
      let e := s.natAt (table + 8 * k) 8
      entryV e &&
        (if entryLeaf e then !s.badLeaf l e && decide (leafFlat e ≤ a) && decide (a < leafFlat e + 2 ^ levelShift l)
         else l != 3 && !s.badTable (8 * levelEntries (l + 1)) e && s.mapsTo a fuel (l + 1) (tableFlat e))

/-- An address space maps a flat address. -/
def State.spaceMaps (s : State) (asid a : Nat) : Bool :=
  match s.root asid with
  | some (some t) => s.mapsTo a 4 0 t
  | _ => false

/-- The partition of the job that owns memory at a flat address: the job of the core whose memory it is, or the first whose
address space maps it; partition 0 where there is none. -/
def State.ownerPart (s : State) (a : Nat) : Nat :=
  let job : Option Nat := match s.cores.find? fun k => a / 2 ^ 64 == flatPool k.at_ 0 / 2 ^ 64 || a / 2 ^ 64 == flatTile k.at_ 0 / 2 ^ 64 with
    | some k => k.team.map Team.launch
    | none => (s.walker.launches.find? fun (l : Launch) => s.spaceMaps l.asid a).map Launch.key
  (job.map s.partOf).getD 0

/-- SCRUB: what a scrubber finds in a granule, or in the place the finding names. -/
def execScrub (granule : Nat) (f : ScrubFind) (s : State) : Out :=
  match f with
  | .clean => .next s
  | .singleBit => .next (s.partEvent (s.ownerPart granule) 0x2A)
  | .uncorrectable =>
    let s := s.settle granule
    .next { s with poison := setInsert (granuleOf granule) s.poison }
  | .panelState die panel => if 5 < die ∨ 6144 ≤ panel then .next s else .next (s.failPanel (die, panel))
  | .translation die hash entry ident budget =>
    let key : TransKey := ⟨hash, entry, ident, budget⟩
    .next (s.modDie die fun d =>
      { d with store := d.store.filter fun u => u.key != key, native := d.native.filter fun x => x.2.1 != key })
  | .link c seq => .next (s.modCore c fun k => { k with links := k.links.map fun l => if l.seq = seq then { l with lost := true } else l })

/-! ### The security processor (R484, R485) -/

/-- SEC_CMD: GO starts an attestation report, unless one is being made. -/
def execSecCmd (w : BitVec 32) (s : State) : Out :=
  if !s.board.ready || !w.getLsbD 0 || s.security.job.isSome then .next s
  else if s.security.repAddr.toNat % 4096 ≠ 0 then .next { s with security := { s.security with err := 1 } }
  else .next { s with security := { s.security with job := some (s.security.repAddr.toNat, s.security.nonce), err := 0 } }

/-- Bytes 0 to 303 of the attestation report (Table 19.4). -/
def State.attestation (s : State) (nonce : List Byte) : List Byte :=
  [0x42, 0x58, 0x41, 0x54] ++ toBytes 2 1 ++ toBytes 2 s.fabric.devid.toNat ++ [s.fabric.minc, s.security.version]
    ++ List.replicate 6 0
    ++ ((List.range 4).map fun k => (List.range 48).map fun i => Config.imageDigest k i).flatten
    ++ nonce ++ toBytes 8 s.security.serial.toNat ++ List.replicate 56 0

/-- ATTESTATION_REPORT_DONE: the signed report is in host memory, or its write failed on PCIe. -/
def execAttestationReportDone (written : Bool) (s : State) : Out :=
  match s.security.job with
  | none => .next s
  | some (addr, nonce) =>
    let s := { s with security := { s.security with job := none } }
    if !written then .next { s with security := { s.security with err := 2 } }
    else
      let body := s.attestation nonce
      let sig := (List.range 96).map fun i => Config.identitySignature s.fresh body i
      let s := s.writeBytes (flatHost addr) (body ++ sig)
      .next { s with fresh := s.fresh + 1, security := { s.security with done := true } }

/-- SEC_CHAL: a read of the first word latches a fresh challenge. -/
def execSecChal (s : State) : Out :=
  if !s.board.ready then .next s
  else .next { s with fresh := s.fresh + 32, security := { s.security with
    chal := (List.range 32).map fun i => BitVec.ofNat 8 (Config.freeValue (s.fresh + i)) } }

/-- Replaces bytes of a block of registers. -/
def overlay (off : Nat) (bs xs : List Byte) : List Byte := xs.take off ++ bs ++ xs.drop (off + bs.length)

/-- SEC_UNLOCK: the write of the signature's last word checks it; three invalid ones lock the register. -/
def execSecUnlock (w : BitVec 32) (s : State) : Out :=
  if !s.board.ready || s.security.lockout then .next s
  else
    let sig := overlay 92 (toBytes 4 w.toNat) s.security.unlock
    let x := { s.security with unlock := sig }
    if Config.debugSignature sig (x.chal ++ toBytes 8 x.serial.toNat) then
      .next { s with security := { x with unlocked := true } }
    else .next { s with security := { x with fails := x.fails + 1, lockout := x.fails == 2 } }

end Sys2Proof.Machine
end

