-- ==== Sys2Proof/Machine/ChainEvents.lean ====
section
/-! DEFINITION. The chain walk and its report (spec/17_chain_recorder.md R453 to R460). -/
namespace Sys2Proof.Machine

/-! ### Records and references (Tables 17.2 and 17.3) -/

/-- Bytes `a` to `a + n − 1` of a record as a number. -/
def Link.field (l : Link) (a n : Nat) : Nat := ofBytes ((l.bytes.drop a).take n)
def Link.kind (l : Link) : Nat := l.field 3 1
/-- The waiter: its stream and engine. -/
def Link.waiter (l : Link) : Nat × Nat := (l.field 4 1, l.field 5 1)
def Link.stop (l : Link) : Nat := l.field 24 8
def Link.prod (l : Link) : Nat := l.field 40 16

/-- A reference's parts: valid, it names a link, device, core, sequence number, time. -/
def refValid (p : Nat) : Bool := p / 2 ^ 15 % 2 == 1
def refHasPrev (p : Nat) : Bool := p / 2 ^ 39 % 2 == 1
def refDev (p : Nat) : Nat := p % 2 ^ 12
def refCore (p : Nat) : CoreRef := ⟨p / 2 ^ 12 % 8, p / 2 ^ 16 % 256⟩
def refSeq (p : Nat) : Nat := p / 2 ^ 40 % 2 ^ 24

/-! ### The walk (R454, R455) -/

/-- What a walk looks at next: a record of a core, or none and why. -/
inductive WalkNext where
  | found (c : CoreRef) (l : Link)
  | finished (reason : Nat)
  deriving DecidableEq, Repr

/-- The latest record of a waiter among those that follow in a store, newest first. Where there is none, the waiter's chain
begins here, at its START or in a store that has lost nothing (reason 0); otherwise its older records are overwritten or
stayed behind at a pre-emption (reason 2). `last` is the record that led here (log entry 31). -/
def latestOf (k : Core) (w : Nat × Nat) (ls : List Link) (last : Option Link) : WalkNext :=
  match ls.find? fun l => l.waiter == w with
  | some l => .found k.at_ l
  | none =>
    match last.map Link.kind with
    | some 0x10 => .finished 0
    | some 0x0D => .finished 2
    | _ => .finished (if 2048 ≤ k.links.length then 2 else 0)

/-- The record a producer's reference names: overwritten (2), or unreachable (3) when its core's records were lost at a die
reset or stand on another module, whose stores this model does not hold (log entry 31). -/
def State.producerOf (s : State) (p : Nat) : WalkNext :=
  if refDev p ≠ s.fabric.devid.toNat then .finished 3
  else
    let k := s.core (refCore p)
    match k.links.find? fun l => l.seq == refSeq p with
    | some l => if linkTime p < l.stop then .finished 3 else .found (refCore p) l
    | none => .finished (if k.links = [] then 3 else 2)

/-- What follows a record in its chain: its producer's record, or the waiter's own earlier one. -/
def State.afterLink (s : State) (c : CoreRef) (l : Link) : WalkNext :=
  if refValid l.prod && refHasPrev l.prod then s.producerOf l.prod
  else
    let k := s.core c
    latestOf k l.waiter ((k.links.dropWhile fun m => m.seq != l.seq).drop 1) (some l)

/-- The record a walk begins with. -/
def State.firstLink (s : State) (c : CoreRef) (w : Walk) : WalkNext :=
  let k := s.core c
  latestOf k (w.stream, 0) (((k.links.dropWhile fun m => m.seq != w.seq).drop 1).filter fun l => l.stop ≤ w.stop) none

/-- Cycles in which a walk on a core reads a link of core `c` (R453): a hop that crosses a bridge counts as the bridge alone
(log entry 31). -/
def readCycles (own c : CoreRef) : Nat :=
  if c = own then 8
  else
    let bridges := bridgesTo 6 own.die c.die
    24 + 4 * (meshHops own c - bridges) + 180 * bridges

/-- A walk goes on to a record, whose reading takes its cycles, or ends. -/
def Walk.onto (w : Walk) (own : CoreRef) : WalkNext → Walk
  | .found c l => { w with place := .reading c l.seq, busy := readCycles own c }
  | .finished r => { w with place := .ended r }

/-- A walk has read the record it stood at, as that stands now (R454, R455): the record is emitted, unless it is gone or
ended before the step. A chain has at most 4,096 links. -/
def State.walkRead (s : State) (own : CoreRef) (w : Walk) (c : CoreRef) (seq : Nat) : Walk :=
  let k := s.core c
  match k.links.find? fun l => l.seq == seq with
  | none => { w with place := .ended (if k.links = [] then 3 else 2) }
  | some l =>
    if l.lost then { w with place := .ended 2 }
    else if l.stop < w.start then { w with place := .ended 1 }
    else if w.links.length = 4095 then { w with links := w.links ++ [l], place := .ended 4 }
    else { w with links := w.links ++ [l] }.onto own (s.afterLink c l)

/-! ### The report (R456 to R458) -/

/-- The chain buffer of an address space: its virtual address and size in bytes. -/
def State.chainBuf (s : State) (asid : Nat) : Option (Nat × Nat) :=
  if s.chain.ctx = 0 then none
  else
    let a := flatHost (s.chain.ctx.toNat + 32 * asid)
    if s.natAt (a + 12) 1 % 2 = 1 then some (s.natAt a 8, s.natAt (a + 8) 4 * 4096) else none

/-- Every page of the buffer is mapped and pinned. -/
def State.chainPinned (s : State) (c : CoreRef) (asid va size : Nat) : Bool :=
  (List.range (size / 4096)).all fun k =>
    match (s.translate c asid (va + 4096 * k)).1 with
    | .leaf f _ => leafPin f.entry
    | _ => false

/-- The header of a report (Table 17.7), without VALID. -/
def reportHeader (dev : Nat) (c : CoreRef) (w : Walk) (n reason : Nat) (cut : Bool) : List Byte :=
  toBytes 3 n ++ [0xFF] ++ toBytes 4 w.id.toNat ++ toBytes 2 w.pos.func ++ toBytes 2 dev ++ toBytes 4 w.pos.off
    ++ toBytes 8 w.start ++ toBytes 8 w.stop ++ toBytes 1 reason ++ toBytes 1 (if cut then 1 else 0) ++ toBytes 1 c.die
    ++ toBytes 1 c.core ++ toBytes 1 w.stream ++ List.replicate 27 0

/-- A report that cannot be written is dropped (status 3). -/
def State.dropReport (s : State) (c : CoreRef) (asid va : Nat) (w : Walk) : State × Nat :=
  let s := match s.vread c asid (va + 16) 8 with
    | some (s, bs, _) => s.vwrite c asid (va + 16) (toBytes 8 (ofBytes bs + 1))
    | none => s
  let drop := if s.chain.drop = BitVec.allOnes 32 then s.chain.drop else s.chain.drop + 1
  (({ s with chain := { s.chain with drop := drop } } : State).teamEvent c w.stream 0x72 w.pos, 3)

/-- Writes the report of a walk: reserves its entries on WR, writes the links, the header, and then VALID. The status is
that of Table 17.6. -/
def State.report (s : State) (c : CoreRef) (asid : Nat) (w : Walk) (links : List Link) (reason : Nat) : State × Nat :=
  match s.chainBuf asid with
  | none => (s, 1)
  | some (va, size) =>
    if !s.chainPinned c asid va size then s.dropReport c asid va w
    else
      match s.vread c asid va 16 with
      | none => s.dropReport c asid va w
      | some (s, ctl, _) =>
        let wr := ofBytes (ctl.take 8)
        let n := (size - 64) / 64
        let free := n - (wr - ofBytes (ctl.drop 8))
        if free < 2 ∧ free < links.length + 1 then s.dropReport c asid va w
        else
          let kept := links.take (free - 1)
          let cut := decide (kept.length < links.length)
          let at_ (i : Nat) : Nat := va + 64 + 64 * ((wr + i) % n)
          let s := s.vwrite c asid va (toBytes 8 (wr + kept.length + 1))
          let s := kept.zipIdx.foldl (fun s l => s.vwrite c asid (at_ (l.2 + 1)) l.1.bytes) s
          let s := s.vwrite c asid (at_ 0) (reportHeader s.fabric.devid.toNat c w kept.length reason cut)
          let s := s.vwrite c asid (at_ 0 + 33) [if cut then 0x81 else 0x80]
          if cut then (s.teamEvent c w.stream 0x72 w.pos, 2) else (s, 0)

/-- The result of ch.step: at once in the portable form (log entry 17), in the native form 64 or 72 cycles after the walk
ended (R453, Table 15.7). -/
def Walk.deliver (w : Walk) (ident status : Nat) (st : Stream) : Stream :=
  (w.dsts.filter fun d => d.1 != .reg 255).foldl (fun st d =>
    let v : TVal := ⟨d.2, (List.range (laneCount w.stream)).map fun _ => BitVec.ofNat 64 status⟩
    if st.native then { st with landings := st.landings ++ landingsOf d.1 w.lanes v (variableLatency ident 0xF4) true }
    else (st.put d.1 w.lanes v).landed d.1) st

/-- A core's oldest walk stands otherwise. -/
def State.setWalk (s : State) (c : CoreRef) (w : Walk) : State :=
  s.modCore c fun k => { k with walks := w :: k.walks.drop 1 }

/-- The report of a walk that has ended is written, and its result returns. -/
def State.endWalk (s : State) (c : CoreRef) (asid : Nat) (w : Walk) (reason : Nat) : State :=
  let s := { s with chain := { s.chain with walk := s.chain.walk + BitVec.ofNat 32 w.links.length } }
  let r := s.report c asid w w.links reason
  (r.1.modCore c fun k => { k with walks := k.walks.drop 1 }).modStream ⟨c.die, c.core, w.stream⟩
    (w.deliver (s.die c.die).ident r.2)

/-- WALK_END (R453): the oldest walk of a core begins, reads the record it stands at once that record's cycles have passed, or
ends, which writes its report and returns the result of ch.step. -/
def execWalkEnd (c : CoreRef) (s : State) : Out :=
  match (s.core c).walks, s.team? c with
  | w :: _, some t =>
    match w.place with
    | .waiting => .next (s.setWalk c (w.onto c (s.firstLink c w)))
    | .reading d seq => if w.busy != 0 then .next s else .next (s.setWalk c (s.walkRead c w d seq))
    | .ended reason => .next (s.endWalk c t.asid w reason)
  | _, _ => .next s

end Sys2Proof.Machine
end

