-- ==== Sys2Proof/Machine/Tensor.lean ====
section
/-! DEFINITION. Elements of tensors in flight: rows of bits, block scales and conversions (spec/10_copy_engine.md R279 to
R282). The matrix engine loads and stores tiles with the same operations. -/
namespace Sys2Proof.Machine

/-! ### Elements (R279) -/

/-- Bits of an element of a type. -/
def elemBits (ty fw : Nat) : Nat := if ty = tNf then fw % 16 else tyBits ty

/-- Alignment of an element: nf at byte granularity (R293). -/
def elemAlign (ty : Nat) : Nat := if ty = tNf then 1 else tyBytes ty

/-- `n` elements of `w` bits from bit `b` of a number. -/
def elementsOf (w b n x : Nat) : List Nat := (List.range n).map fun k => x / 2 ^ (b + w * k) % 2 ^ w

/-- The number whose bits from `b` on are elements of `w` bits. -/
def joinElements (w : Nat) : Nat → List Nat → Nat
  | _, [] => 0
  | b, x :: xs => x % 2 ^ w * 2 ^ b + joinElements w (b + w) xs

/-! ### Values and scales (R168, R280, R282) -/

/-- The NaN that a format-word NaN, or a scale of NaN, gives (R196). -/
def canonNan : Fp.FVal := .nan false (2 ^ 51) true

/-- The value of an element. -/
def elemValue (ty fw code : Nat) : Fp.FVal :=
  if ty = tNf then
    match Fp.narrowFmt fw with
    | none => canonNan
    | some f => if (f.decode code).isNan then canonNan else f.decode code
  else (fmtOf ty).decode code

/-- E4M3, the format of the scales of mode 3 (Table 6.2). -/
def e4m3 : Nat := 0x00010798

/-- The value of a scale byte; `mode` is the format word's SCALE (R171): E8M0, or E4M3 with its sign ignored. -/
def scaleValue (mode c : Nat) : Fp.FVal :=
  if mode = 0 then .one
  else if mode = 3 then elemValue tNf e4m3 (c % 128)
  else if c = 255 then canonNan
  else .fin false 1 ((c : Int) - 127)

/-- An exact product; a NaN operand, or an infinity times a zero, gives a NaN. -/
def timesExact (x y : Fp.FVal) : Fp.FVal :=
  if x.isNan then x else if y.isNan then y else (Fp.mulExact x y).getD canonNan

/-- An element times its source scale, exactly. -/
def scaledValue (mode c : Nat) (x : Fp.FVal) : Fp.FVal := if mode = 0 then x else timesExact x (scaleValue mode c)

/-- Multiplies by 2^(127 − c), exactly. -/
def descaled (c : Nat) (x : Fp.FVal) : Fp.FVal :=
  match x with
  | .fin n m e => .fin n m (if m = 0 then e else e + 127 - c)
  | x => x

/-- The E8M0 scale of a block by the rule of scx, from its values: a NaN or an infinity among them counts as the
largest. -/
def blockScale (fw : Nat) (xs : List Fp.FVal) : Nat :=
  match Fp.narrowFmt fw with
  | none => 255
  | some f =>
    if xs.any fun x => x.isNan || x.isInf then 255
    else
      let logs := xs.filterMap fun x => match x with
        | .fin _ m e => if m = 0 then none else some (Fp.floorLog2 m e)
        | _ => none
      match logs with
      | [] => 0
      | l :: ls => (min (max (ls.foldl max l - Fp.emaxOf f + 127) 0) 254).toNat

/-- Delivers a value to a floating-point type (R280): rounding mode, saturation, random bits. -/
def toFloat (f : Fp.Fmt) (rm : Nat) (sat : Bool) (u : Nat) (x : Fp.FVal) : Nat × Fp.Flags :=
  let sat := sat && f.width != 64
  match x with
  | .nan .. => (Fp.pickNan f 0 [x]).getD (f.nanCode, 0)
  | .inf n => if sat then (f.signBit n + f.maxMag, Fp.fInv) else (f.infCode n, 0)
  | .fin n m e => Fp.pack f rm u sat false ⟨n, m, e, false⟩

/-- Delivers a value to a narrow format (R195). -/
def toNf (fw rm : Nat) (sat : Bool) (u : Nat) (x : Fp.FVal) : Nat × Fp.Flags :=
  match Fp.narrowFmt fw with
  | none => (0, Fp.fInv)
  | some f => Fp.toNarrow f { rm := rm, ftzi := false, ftzo := false, nsat := false, nan := 0, sat := sat } u x

/-- Delivers a value to an element type. -/
def toElem (ty fw rm : Nat) (sat : Bool) (u : Nat) (x : Fp.FVal) : Nat × Fp.Flags :=
  if ty = tNf then toNf fw rm sat u x else toFloat (fmtOf ty) rm sat u x

/-- The sum of values rounded once to nearest even: NaNs and opposite infinities give the canonical NaN (R242, R288). -/
def roundSum (f : Fp.Fmt) (xs : List Fp.FVal) : Nat :=
  if xs.any Fp.FVal.isNan then f.nanCode
  else match Fp.sumExact 1 xs with
    | none => f.nanCode
    | some x => (Fp.deliver f atomicEnv 0 x).1

end Sys2Proof.Machine
end

