-- ==== Sys2Proof/Machine/CopyEvents.lean ====
section
/-! DEFINITION. How the copy engine works: heads of queues and their turns, chunks and their checks, moving and reducing
elements, completion (spec/10_copy_engine.md R281 to R298; spec/01_package_and_engines.md R24 to R26). -/
namespace Sys2Proof.Machine

/-! ### The two sides of a command (R279, R286) -/

/-- A side: its space, base, strides, element type and format word, and the address of its block scales. -/
structure Side where
  glob : Bool
  base : Nat
  stride : List Int
  ty : Nat
  fw : Nat
  scale : Nat

def CopyCmd.srcSide (k : CopyCmd) (d : Descriptor) : Side :=
  { glob := k.srcG, base := k.src.toNat, stride := d.sstr, ty := d.stype, fw := d.sfw, scale := d.sscale }

def CopyCmd.dstSide (k : CopyCmd) (d : Descriptor) : Side :=
  { glob := k.dstG, base := k.dst.toNat, stride := d.dstr, ty := d.dtype, fw := d.dfw, scale := d.dscale }

def Side.bits (x : Side) : Nat := elemBits x.ty x.fw

/-- An address within the side's space. -/
def Side.wrap (x : Side) (a : Int) : Nat := IntOps.wrap (if x.glob then 64 else 32) a

def Side.st (x : Side) (k : Nat) : Int := (x.stride[k]?).getD 0

/-- Rows of a descriptor, and a row's coordinates in dimensions 1 to 3. -/
def Descriptor.rows (d : Descriptor) : Nat := d.e 1 * d.e 2 * d.e 3
def Descriptor.coord (d : Descriptor) (row : Nat) : Nat × Nat × Nat :=
  (row % d.e 1, row / d.e 1 % d.e 2, row / (d.e 1 * d.e 2))

/-- First address of a row; an index stands for the coordinate of dimension 1. -/
def Side.rowAddr (x : Side) (d : Descriptor) (row : Nat) (idx : Option Nat) : Nat :=
  let p := d.coord row
  x.wrap (x.base + (idx.getD p.1 : Nat) * x.st 0 + (p.2.1 : Nat) * x.st 1 + (p.2.2 : Nat) * x.st 2)

/-- The side keeps block scales, and the address of a block's scale byte. -/
def Side.scaled (x : Side) : Bool := x.ty == tNf && Fp.scaleOf x.fw != 0
def Side.scaleAddr (x : Side) (d : Descriptor) (row j : Nat) : Nat :=
  x.wrap (x.scale + j + d.e 0 / Nat.max 1 (blockSize x.fw) * row : Nat)

/-- The index of a row to skip (R286). -/
def skipIndex : Nat := 0xFFFFFFFF

def CopyOp.isGather : CopyOp → Bool
  | .gather _ => true
  | _ => false
def CopyOp.isScatter : CopyOp → Bool
  | .scatter _ => true
  | _ => false
def CopyOp.isFill : CopyOp → Bool
  | .fill _ => true
  | _ => false
def CopyOp.isBcast : CopyOp → Bool
  | .bcast => true
  | _ => false
def CopyOp.isRed : CopyOp → Bool
  | .red .. => true
  | _ => false

/-- Local address of the index array. -/
def CopyOp.indexBase : CopyOp → Option Nat
  | .gather ix | .scatter ix => some ix.toNat
  | _ => none

/-- First address of a chunk's row on each side. -/
def CopyCmd.srcRow (k : CopyCmd) (d : Descriptor) (row : Nat) (idx : Option Nat) : Nat :=
  (k.srcSide d).rowAddr d row (if k.op.isGather then idx else none)
def CopyCmd.dstRow (k : CopyCmd) (d : Descriptor) (row : Nat) (idx : Option Nat) : Nat :=
  (k.dstSide d).rowAddr d row (if k.op.isScatter then idx else none)

/-! ### Chunks (R292) -/

/-- The first element of a row that lies in a later 4 KiB block than element `i`. -/
def runEnd (bits row i : Nat) : Nat :=
  let b := ((row + bits * i / 8) / 4096 + 1) * 4096
  (8 * (b - row) + bits - 1) / Nat.max 1 bits

/-- Elements of the chunk that starts at element `col` of a row. A row that is skipped is one chunk. -/
def CopyCmd.chunkCount (k : CopyCmd) (d : Descriptor) (row col : Nat) (idx : Option Nat) : Nat :=
  if idx = some skipIndex then d.e 0 - col
  else
    let dst := runEnd (k.dstSide d).bits (k.dstRow d row idx) col
    let src := if k.op.isFill then d.e 0 else runEnd (k.srcSide d).bits (k.srcRow d row idx) col
    Nat.min (d.e 0) (Nat.min src dst) - col

/-- Bytes that elements `[first, first + count)` of a row touch: the first byte and how many. -/
def Side.span (x : Side) (rowAddr first count : Nat) : Nat × Nat :=
  let a := x.bits * first / 8
  (x.wrap (rowAddr + a : Nat), (x.bits * (first + count) + 7) / 8 - a)

/-- Bit of the first byte at which a chunk's elements begin. -/
def Side.startBit (x : Side) (first : Nat) : Nat := x.bits * first % 8

/-- Blocks of a side's scales that some elements belong to: the first and how many. -/
def Side.blocks (x : Side) (first count : Nat) : Nat × Nat :=
  let b := Nat.max 1 (blockSize x.fw)
  (first / b, (first + count - 1) / b + 1 - first / b)

/-! ### Places of bytes -/

/-- The context in which a team's engines check pointers. -/
def engineCx (s : State) (c : CoreRef) (t : Team) : Cx := ⟨s, ⟨c.die, c.core, 32⟩, t, t.control⟩

/-- The flat address of an address of a side, where it is mapped. -/
def State.flatAt (s : State) (c : CoreRef) (t : Team) (glob : Bool) (a : Nat) : Option Nat :=
  if glob then
    match (s.translate c t.asid a).1 with
    | .leaf f _ => some (f.flat a)
    | _ => none
  else ((engineCx s c t).localCore a).map fun m => s.flatLocal m (a % 2 ^ 24)

/-- The index of a row, read from the index array. -/
def State.rowIndex (s : State) (c : CoreRef) (t : Team) (k : CopyCmd) (d : Descriptor) (row : Nat) : Option Nat :=
  k.op.indexBase.map fun b =>
    match s.flatAt c t false ((b + 4 * (d.coord row).1) % 2 ^ 32) with
    | some a => s.natAt a 4
    | none => 0

/-- Intervals of flat addresses: first byte and length. -/
abbrev Spans := List (Nat × Nat)

def State.spanAt (s : State) (c : CoreRef) (t : Team) (glob : Bool) (x : Nat × Nat) : Spans :=
  match s.flatAt c t glob x.1 with
  | some a => [(a, x.2)]
  | none => []

/-- Number of a chunk's first element among those of the command. -/
def Descriptor.ordinal (d : Descriptor) (row col : Nat) : Nat := row * d.e 0 + col

/-- Local bytes of the residual array a chunk uses (R289), at the slot's present BASE: log entry 108 (DESIGN CHOICE). -/
def CopyEngine.residualSpan (e : CopyEngine) (k : CopyCmd) (d : Descriptor) (row col n : Nat) : Option (Nat × Nat) :=
  match k.op with
  | .red slot _ => if slot < 8 then
      some ((((e.residuals[slot]?).getD {}).base + 4 * d.ordinal row col), 4 * n) else none
  | _ => none

/-- The command writes a format with scales of its own, chosen from whole blocks of source values (R282, R288). -/
def CopyCmd.scales (k : CopyCmd) (d : Descriptor) : Bool :=
  if k.op.isRed then d.dfw != 0 && Fp.scaleOf d.dfw != 0
  else !k.op.isFill && (k.dstSide d).scaled && !(d.stype == d.dtype && d.sfw == d.dfw && Fp.scaleOf d.sfw == 0)

/-- Elements of a block of the destination's format. -/
def Descriptor.block (d : Descriptor) : Nat := Nat.max 1 (blockSize d.dfw)

/-- The source elements that some elements of a row are made from, the first and how many: where scales are chosen, those of
the whole blocks. -/
def CopyCmd.sources (k : CopyCmd) (d : Descriptor) (first count : Nat) : Nat × Nat :=
  if k.scales d then
    let b0 := first / d.block
    let b1 := (first + count - 1) / d.block + 1
    (b0 * d.block, Nat.min (d.e 0) (b1 * d.block) - b0 * d.block)
  else (first, count)

/-- What elements of a row read and write; of a row that is skipped, its index is read. -/
def State.chunkSpans (s : State) (c : CoreRef) (t : Team) (k : CopyCmd) (d : Descriptor) (row col n : Nat)
    (idx : Option Nat) : Spans × Spans :=
  let ix := match k.op.indexBase with
    | some b => s.spanAt c t false ((b + 4 * (d.coord row).1) % 2 ^ 32, 4)
    | none => []
  if idx = some skipIndex then (ix, [])
  else
    let src := k.srcSide d
    let dst := k.dstSide d
    let scales (x : Side) (col n : Nat) : Spans :=
      if x.scaled then
        let b := x.blocks col n
        s.spanAt c t x.glob (x.scaleAddr d row b.1, b.2)
      else []
    let res := match t.copy.residualSpan k d row col n with
      | some x => s.spanAt c t false x
      | none => []
    let from_ := k.sources d col n
    let reads := if k.op.isFill then [] else
      s.spanAt c t src.glob (src.span (k.srcRow d row idx) from_.1 from_.2) ++ scales src from_.1 from_.2
    let out := dst.span (k.dstRow d row idx) col n
    let writes := if k.op.isBcast then
      ((s.walker.clusters.find? fun x => x.key == t.cluster).map fun x =>
        x.cores.map fun m => (s.flatLocal m (out.1 % 2 ^ 24), out.2)).getD []
      else s.spanAt c t dst.glob out ++ (if k.op.isFill then [] else scales dst col n)
    (reads ++ ix ++ res, writes ++ res)

/-- What every chunk of a command writes, from a row and an element on; the first number bounds the chunks. -/
def State.allWrites (s : State) (c : CoreRef) (t : Team) (k : CopyCmd) (d : Descriptor) : Nat → Nat → Nat → Spans
  | 0, _, _ => []
  | fuel + 1, row, col =>
    if d.rows ≤ row then []
    else
      let idx := s.rowIndex c t k d row
      let n := Nat.max 1 (k.chunkCount d row col idx)
      let w := (s.chunkSpans c t k d row col n idx).2
      w ++ (if d.e 0 ≤ col + n then s.allWrites c t k d fuel (row + 1) 0 else s.allWrites c t k d fuel row (col + n))

/-- Two sets of intervals share a byte. -/
def spansMeet (xs ys : Spans) : Bool :=
  xs.any fun x => ys.any fun y => decide (x.1 < y.1 + y.2) && decide (y.1 < x.1 + x.2)

/-- What a command that is not complete may still write: all its chunks, or those in flight of one that was dropped. -/
def State.mayWrite (s : State) (c : CoreRef) (t : Team) (o : CopyCmd) (d : Descriptor) : Spans :=
  if o.dead then
    (o.flying.map fun ch => (s.chunkSpans c t o d ch.row ch.first ch.count ch.idx).2).flatten
  else s.allWrites c t o d (d.rows * d.e 0) 0 0

/-- An older command of the queue that is not complete writes bytes that the chunk reads or writes (R292). -/
def State.mustWait (s : State) (c : CoreRef) (t : Team) (older : List CopyCmd) (sp : Spans × Spans) : Bool :=
  older.any fun o =>
    match o.desc with
    | some d => spansMeet (s.mayWrite c t o d) (sp.1 ++ sp.2)
    | none => false

/-! ### Checks of a chunk (R293) -/

/-- What checking has found so far: codes with cause and address, missing pages, pages that move, and the leaves of the
others. -/
structure Checked where
  s : State
  bad : List (Nat × Nat × Nat × Nat) := []
  missed : List Nat := []
  moving : Bool := false
  pages : List Leaf := []

/-- Checks one global address, and notes the leaf under which it is reached. -/
def Checked.one (k : Checked) (c : CoreRef) (t : Team) (red : Bool) (need : Need) (al a : Nat) : Checked :=
  match (if red then k.s.checkAtomic c t.asid 0xA5 need.scope al a 0 else k.s.checkGlobal c t.asid need al a 0) with
  | (.lane l, s) =>
    let leaf := match s.translate c t.asid a with
      | (.leaf f _, _) => [f]
      | _ => []
    { k with s := s, moving := k.moving || l.stage == .refused, pages := k.pages ++ leaf.filter fun f => !k.pages.contains f }
  | (.miss, s) => { k with s := s, missed := k.missed ++ [a] }
  | (.bad code cause, s) => { k with s := s, bad := k.bad ++ [(0, code, cause, a)] }

/-- Checks bytes `[a, a + n)` of a side: the elements are `step` bytes apart. A global range is checked at its start, and at
each 4 KiB page it runs into. -/
def Checked.side (k : Checked) (c : CoreRef) (t : Team) (glob red : Bool) (need : Need) (align step a n : Nat) : Checked :=
  if glob then
    (List.range ((a + n - 1) / 4096 - a / 4096)).foldl (fun k j => k.one c t red need 1 ((a / 4096 + j + 1) * 4096))
      (k.one c t red need align a)
  else
    let x := engineCx k.s c t
    match x.checkLocal n align a 0 with
    | .bad code cause =>
      let m := Nat.max 1 step
      let j := ((List.range (n / m + 1)).find? fun j =>
        match x.checkLocal m align (a + m * j) 0 with
        | .bad .. => true
        | _ => false).getD 0
      { k with bad := k.bad ++ [(0, code, cause, a + m * j)] }
    | _ => k

/-- Checks a destination of cp.bcast against every member, as an offset of its own (R286). -/
def Checked.bcast (k : Checked) (t : Team) (a n align : Nat) : Checked :=
  let cores := ((k.s.walker.clusters.find? fun x => x.key == t.cluster).map Cluster.cores).getD []
  if a / 2 ^ 24 ≠ 0 ∨ cores.any (fun m => (k.s.core m).split.locBytes < a + n) then
    { k with bad := k.bad ++ [(0, 0x23, 0, a)] }
  else if a % align ≠ 0 then { k with bad := k.bad ++ [(0, 0x24, 0, a)] }
  else k

/-- Checks a chunk. -/
def State.checkChunk (s : State) (c : CoreRef) (t : Team) (k : CopyCmd) (d : Descriptor) (ch : Chunk) : Checked :=
  let st : Checked := { s := s }
  let st := match k.op.indexBase with
    | some b => if ch.first = 0 then
        st.side c t false false {} 4 4 ((b + 4 * (d.coord ch.row).1) % 2 ^ 32) 4 else st
    | none => st
  if ch.idx = some skipIndex then st
  else
    let src := k.srcSide d
    let dst := k.dstSide d
    let scale (st : Checked) (x : Side) (need : Need) (first count : Nat) : Checked :=
      if x.scaled then
        let b := x.blocks first count
        st.side c t x.glob false need 1 1 (x.scaleAddr d ch.row b.1) b.2
      else st
    let reads : Need := { read := true, scope := k.scope }
    let writes : Need := { write := true, scope := k.scope }
    let st := if k.op.isFill then st else
      let from_ := k.sources d ch.first ch.count
      let p := src.span (k.srcRow d ch.row ch.idx) from_.1 from_.2
      scale (st.side c t src.glob false reads (elemAlign src.ty) (elemAlign src.ty) p.1 p.2) src reads from_.1 from_.2
    let p := dst.span (k.dstRow d ch.row ch.idx) ch.first ch.count
    let st := if k.op.isBcast then st.bcast t p.1 p.2 (elemAlign dst.ty)
      else st.side c t dst.glob k.op.isRed writes (elemAlign dst.ty) (elemAlign dst.ty) p.1 p.2
    let st := if k.op.isFill then st else scale st dst writes ch.first ch.count
    match t.copy.residualSpan k d ch.row ch.first ch.count with
    | some x => st.side c t false false {} 1 4 x.1 x.2
    | none => st

/-! ### Completion (R25, R294) -/

/-- Every chunk of a command has started. -/
def CopyCmd.allStarted (k : CopyCmd) : Bool :=
  match k.op with
  | .fence _ => false
  | _ => k.dead || (k.started && (match k.desc with
    | some d => d.rows ≤ k.row
    | none => true))

/-- The reference of a queue for a command (R448, R449). -/
def State.queueRef (s : State) (c : CoreRef) (eng : Nat) (link : Option Nat) : Nat :=
  linkRef s.fabric.devid.toNat c.die c.core 63 eng link s.now

/-- Completes the command at the head of a queue when it is done and its token has room; a fence leaves when it is at
the head of both queues. True when something left. -/
def State.completeHead (s : State) (c : CoreRef) (q : Nat) : State × Bool :=
  match s.team? c with
  | none => (s, false)
  | some t =>
    match (t.copy.queue q).cmds with
    | [] => (s, false)
    | k :: rest =>
      let other := ((t.copy.queue (1 - q)).cmds.head?).map CopyCmd.op
      let halted := ((t.copy.queue q).halted.map CopyFault.cmd) == some k.id
      match k.op with
      | .fence n =>
        if other = some (.fence n) then
          ((s.modQueue c q fun x => { x with cmds := rest }).modQueue c (1 - q) fun x => { x with cmds := x.cmds.drop 1 }, true)
        else (s, false)
      | _ =>
        if !k.allStarted || k.flying != [] || halted then (s, false)
        else
          let f := if q = 0 then 0 else 2
          let push := k.push && !k.dead
          if push && 8 ≤ (t.fifo f).count then (s, false)
          else
            let ref := s.queueRef c (q + 1) k.link
            let s := if push then s.modTeam c fun t => t.setFifo f ((t.fifo f).push (some ref)) else s
            let s := s.modQueue c q fun x => { x with cmds := rest }
            (s.modStream ⟨c.die, c.core, k.stream⟩ fun st => st.lower 4 k.id ref, true)

/-- Completes what can complete, older commands first. -/
def State.completeQueue (s : State) (c : CoreRef) (q : Nat) : Nat → State
  | 0 => s
  | n + 1 =>
    let r := s.completeHead c q
    if r.2 then r.1.completeQueue c q n else
    let r := s.completeHead c (1 - q)
    if r.2 then r.1.completeQueue c q n else s

def State.settleCopies (s : State) (c : CoreRef) (q : Nat) : State :=
  match s.team? c with
  | none => s
  | some t => s.completeQueue c q (t.copy.ldq.cmds.length + t.copy.stq.cmds.length)

/-! ### Starting (R291, R292) -/

/-- Puts a command back into its queue. -/
def State.setCmd (s : State) (c : CoreRef) (q : Nat) (k : CopyCmd) : State :=
  s.modQueue c q fun x => { x with cmds := x.cmds.map fun o => if o.id = k.id then k else o }

/-- A command's turn: its release is complete and its token is taken; a command without a descriptor sets ERR. None
while it must wait. -/
def State.takeTurn (s : State) (c : CoreRef) (q : Nat) (t : Team) (k : CopyCmd) : Option (State × CopyCmd) :=
  let f := if q = 0 then 2 else 1
  let x := t.fifo f
  let ready := match k.release with
    | some id => (s.acc? id).isNone
    | none => true
  if !ready || (k.pop && !x.ready) then none
  else
    let r : State × Option Nat := if k.pop then
        let prod := (x.links.head?).getD none
        let start := k.headAt.getD s.now
        let s := s.popTally c start prod
        let s := s.modTeam c fun t => t.setFifo f x.pop
        let l := s.addLink c { kind := 0x06, detail := f, stream := 63, weng := q + 1, pos := k.pos, start := start
                               slack := start - linkTime (prod.getD start), prod := prod }
        (l.1, some l.2)
      else (s, none)
    let s := if k.desc.isNone then r.1.modTeam c fun t => { t with copy := { t.copy with err := true } } else r.1
    let k := { k with started := true, link := r.2 }
    some (s.setCmd c q k, k)

/-- A chunk's elements are converted under mode rs, each a step of the queue's generator (R281). -/
def CopyCmd.rngSteps (k : CopyCmd) (d : Descriptor) (ch : Chunk) : Nat :=
  let moved := d.stype == d.dtype && (d.stype != tNf || (d.sfw == d.dfw && Fp.scaleOf d.sfw == 0))
  let converts := if k.op.isRed then d.dfw != 0 else !k.op.isFill && !moved
  if d.cvtRm = 6 ∧ converts ∧ ch.idx ≠ some skipIndex then ch.count else 0

def rngAfter : Nat → Nat → Nat
  | 0, g => g
  | n + 1, g => rngAfter n (Fp.rngStep g).1

/-- Halts a queue at a chunk (R293). -/
def State.haltQueue (s : State) (c : CoreRef) (q : Nat) (k : CopyCmd) (ch : Chunk) (code cause addr : Nat)
    (blocks : List Nat := []) : State :=
  (s.modQueue c q fun x =>
    { x with halted := some { code := code, cmd := k.id, chunk := ch.num, addr := addr, cause := cause
                              blocks := blocks } }).reportCopyFault c q

/-- Starts the next chunk of a command whose turn it is. -/
def State.startChunk (s : State) (c : CoreRef) (q : Nat) (t : Team) (k : CopyCmd) (d : Descriptor) : State :=
  let x := t.copy.queue q
  let idx := if k.col = 0 then s.rowIndex c t k d k.row else k.lastIdx
  let ch : Chunk := { num := k.next, row := k.row, first := k.col, count := k.chunkCount d k.row k.col idx, idx := idx
                      rng := x.rng }
  let older := x.cmds.takeWhile fun o => o.id != k.id
  if s.mustWait c t older (s.chunkSpans c t k d ch.row ch.first ch.count idx) then s
  else
    let r := s.checkChunk c t k d ch
    match r.bad.filter fun b => codeRank b.2.1 == leastRank r.bad, r.missed with
    | [], [] =>
      if r.moving then s
      else
        let past := d.e 0 ≤ k.col + ch.count
        let ch := { ch with pages := r.pages, tag := x.tag }
        let s := r.s.setCmd c q
          { k with flying := k.flying ++ [ch], next := k.next + 1, row := if past then k.row + 1 else k.row
                   col := if past then 0 else k.col + ch.count, lastIdx := if idx.isSome then idx else k.lastIdx }
        s.modQueue c q fun x => { x with
          rng := BitVec.ofNat 32 (rngAfter (k.rngSteps d ch) x.rng.toNat), tag := if k.op.isRed then x.tag + 1 else x.tag }
    | b :: _, [] => r.s.haltQueue c q k ch b.2.1 b.2.2.1 b.2.2.2
    | [], a :: as => r.s.haltQueue c q k ch 0x20 0 a ((a :: as).map blockOf).eraseDups
    | b :: _, a :: as =>
      if leastRank r.bad = 4 then r.s.haltQueue c q k ch 0x20 0 a ((a :: as).map blockOf).eraseDups
      else r.s.haltQueue c q k ch b.2.1 b.2.2.1 b.2.2.2

/-- CHUNK_START (R291, R292): the first command of a queue that has chunks left takes its turn and starts one. A queue that
is halted, that is stopped for pre-emption, a change of phase (R128) or the end of the job, or that has 16 chunks in flight, starts
none; that of a trapped team goes on with the commands it has started (R131). -/
def execChunkStart (c : CoreRef) (queue : Nat) (s : State) : Out :=
  let q := queue % 2
  let s := s.settleCopies c q
  match s.team? c with
  | none => .next s
  | some t =>
    let x := t.copy.queue q
    let flying := (x.cmds.map fun (k : CopyCmd) => k.flying.length).foldl (fun a b => a + b) 0
    let ending := t.trapped.isNone && ((s.launch? t.launch).bind Launch.status).isSome
    if t.saving || t.change.isSome || ending || x.halted.isSome || 16 ≤ flying then .next s
    else
      match x.cmds.find? fun k => !k.allStarted && (t.trapped.isNone || k.started) with
      | none => .next s
      | some k =>
        match k.op with
        | .fence _ => .next s
        | _ =>
          let k := { k with headAt := some (k.headAt.getD s.now) }
          let s := s.setCmd c q k
          match (if k.started then some (s, k) else s.takeTurn c q t k) with
          | none => .next s
          | some (s, k) =>
            match k.desc with
            | none => .next (s.settleCopies c q)
            | some d => .next (s.startChunk c q t k d)

/-! ### Moving bytes (R227, R292, R298) -/

/-- A chunk that moves: its core, team, command and descriptor. -/
structure Haul where
  c : CoreRef
  t : Team
  k : CopyCmd
  d : Descriptor
  ch : Chunk

/-- How bytes of a destination are handled at their point: written; written beside other bits of the same byte (R292); or
added to (R288). -/
inductive Manner where
  | plain | merge | add
  deriving DecidableEq, Repr

/-- The flat address and the route of a global address, under the leaf that the chunk translated at its start (R295). -/
def State.haulRoute (s : State) (h : Haul) (a : Nat) : Option (Nat × Route) :=
  (h.ch.pages.find? fun f => decide (f.base ≤ a % 2 ^ 56) && decide (a % 2 ^ 56 < f.base + f.bytes)).map fun f =>
    (f.flat a, s.routeOf h.c f.entry)

/-- Bytes read: the state and, for each, whether it is poisoned; or a wait. -/
inductive Pulled where
  | wait (s : State)
  | bytes (s : State) (bs : List (Byte × Bool))

/-- Reads at the point of a scope, bypassing L1; as a writer reads, at the point where its store performs. A cp.red adds at
the place of Table 8.4: on a replicated page, at the home (R288). -/
def State.copyRead (s : State) (r : Route) (scope : Nat) (m : Manner) (a n : Nat) : Found :=
  if m = .add ∧ s.isReplicated r.sail then homeFound s r a n
  else if scope ≤ 1 then s.clusterRead r a n (if scope = 0 ∧ m = .plain then State.dieRead else homeFound)
  else if m ≠ .plain then homeFound s r a n
  else s.pointRead r scope a n false

/-- Reads bytes of a side in pieces that stay in a 64-byte block. -/
def State.pull (s : State) (h : Haul) (glob : Bool) (m : Manner) : Nat → Nat → Nat → Pulled
  | 0, _, _ => .bytes s []
  | fuel + 1, a, n =>
    if n = 0 then .bytes s []
    else
      let k := Nat.min n (64 - a % 64)
      let more (s : State) (flat : Nat) (bs : List Byte) (bad : Bool) : Pulled :=
        match s.pull h glob m fuel (a + k) (n - k) with
        | .wait s => .wait s
        | .bytes s rest => .bytes s (bs.zipIdx.map (fun b => (b.1, bad || s.poisoned (flat + b.2))) ++ rest)
      if glob then
        match s.haulRoute h a with
        | some (flat, r) =>
          match s.copyRead r h.k.scope m flat k with
          | .wait s => .wait s
          | .bytes s bs => more s flat bs (m == .plain && r.loc == 3 && !s.peerServes .read flat)
        | none => more s 0 (List.replicate k 0) false
      else
        match s.flatAt h.c h.t false a with
        | some flat => more s flat (s.bytesAt flat k) false
        | none => more s 0 (List.replicate k 0) false

/-- A copy's bytes for a replicated page travel as a .mca store, or an .ef one, of no stream (R292, R375, R376). -/
def State.spawnCopy (s : State) (r : Route) (flat : Nat) (bs : List Byte) (bad ef : Bool) (stage : LaneStage) : State :=
  { s with
    nextId := s.nextId + 1
    flights := s.flights ++ [{
      id := s.nextId, ref := ⟨r.core.die, r.core.core, 98⟩, asid := 0, kind := .store, scope := 3, ef := ef
      size := bs.length, pos := ⟨0, 0⟩, wb := true, born := s.now
      lanes := [{ lane := 0, va := 0, pa := flat, data := bs, sail := r.sail, loc := r.loc, home := r.home
                  poison := bad, stage := stage }] }] }

/-- The cluster's sail takes bytes that a copy writes at a scope. -/
def State.copySail (s : State) (r : Route) (scope : Nat) (m : Manner) : Option Nat :=
  if scope ≤ 1 && !(m == .add && s.isReplicated r.sail) then r.cluster else none

/-- Writes bytes of one block at the point of a scope (R227). Bytes that go with the read before them open their HOLD round
at once. -/
def State.copyWrite (s : State) (r : Route) (scope : Nat) (ef : Bool) (m : Manner) (bad : Bool) (flat : Nat) (bs : List Byte) :
    State :=
  match s.copySail r scope m with
  | some key => s.clusterWrite r key flat bs bad
  | none =>
    if s.isReplicated r.sail then
      if m ≠ .plain then
        let s := s.spawnCopy r flat bs bad ef .round
        match s.flights.getLast? with
        | some a => (a.lanes.foldl (fun s l => s.openRound a l) s)
        | none => s
      else s.spawnCopy r flat bs bad ef .sent
    else (s.clusterPass r flat bs).homeWrite r flat bs bad

/-- Writes bytes of a side in pieces that stay in an aligned block of `size` bytes; with a HOLD round, in a line of the
page's sail. A peer that does not serve the request refuses the bytes (R387). -/
def State.push (s : State) (h : Haul) (m : Manner) (size : Nat) : Nat → Nat → List (Byte × Bool) → State
  | 0, _, _ => s
  | fuel + 1, a, bs =>
    if bs = [] then s
    else
      let cut (sz : Nat) : Nat × List Byte × Bool :=
        let n := sz - a % sz
        (n, (bs.take n).map (fun b => b.1), (bs.take n).any fun b => b.2)
      if h.k.dstG then
        match s.haulRoute h a with
        | some (flat, r) =>
          let p := cut (match s.sail? (.sys r.sail) with
            | some x => if m ≠ .plain && x.kind == 1 then x.lineBytes else size
            | none => size)
          let s := if r.loc = 3 && !s.peerServes .write flat then
              s.modStream ⟨h.c.die, h.c.core, h.k.stream⟩ fun st =>
                { st with due := st.due ++
                  [{ code := 0x21, path := 4, cause := 4, issued := h.k.pos, detail := a, chunk := h.ch.num }] }
            else s.copyWrite r h.k.scope h.k.ef m p.2.2 flat p.2.1
          s.push h m size fuel (a + p.1) (bs.drop p.1)
        | none => s
      else
        let p := cut size
        let s := match s.flatAt h.c h.t false a with
          | some flat => s.writeBytes flat p.2.1 p.2.2
          | none => s
        s.push h m size fuel (a + p.1) (bs.drop p.1)

/-- Bytes of the destination must wait: a line has an open round (R375), its write-back from the cluster's sail is on its
way (R356), or its panel is being swept (R361). -/
def State.pushBusy (s : State) (h : Haul) (m : Manner) (a n : Nat) : Bool :=
  h.k.dstG && (List.range (n / 64 + 2)).any fun j =>
    decide (64 * j < n + 64) && match s.haulRoute h (a + 64 * j) with
    | some (flat, r) => (m != .plain && s.lineBusy r flat)
        || (match s.copySail r h.k.scope m with
          | some k => s.clusterWaits k flat
          | none => !s.isReplicated r.sail && s.sweptAt (.sys r.sail) r.home flat)
    | none => false

/-! ### Converting (R280, R282, R288) -/

/-- An element on its way: its value, its bits, and whether its source is poisoned. -/
structure Elem where
  value : Fp.FVal := .fin false 0 0
  code : Nat := 0
  bad : Bool := false

/-- The source elements of a chunk, each with its scale applied, and for the choice of scales those of the whole blocks
around them (R282). -/
def State.sourceElems (s : State) (h : Haul) : Except State (State × List Elem) :=
  let src := h.k.srcSide h.d
  let from_ := h.k.sources h.d h.ch.first h.ch.count
  let p := src.span (h.k.srcRow h.d h.ch.row h.ch.idx) from_.1 from_.2
  match s.pull h src.glob .plain (p.2 / 64 + 2) p.1 p.2 with
  | .wait s => .error s
  | .bytes s bs =>
    let x := ofBytes (bs.map fun b => b.1)
    let w := src.bits
    let b0 := src.startBit from_.1
    let codes := elementsOf w b0 from_.2 x
    let bad (j : Nat) : Bool :=
      ((bs.drop ((b0 + w * j) / 8)).take ((b0 + w * j + w - 1) / 8 + 1 - (b0 + w * j) / 8)).any fun b => b.2
    let blk := src.blocks from_.1 from_.2
    let sc := if src.scaled then s.pull h src.glob .plain (blk.2 / 64 + 2) (src.scaleAddr h.d h.ch.row blk.1) blk.2
      else .bytes s []
    match sc with
    | .wait s => .error s
    | .bytes s scales =>
      .ok (s, codes.zipIdx.map fun e =>
        let q := (scales[(from_.1 + e.2) / Nat.max 1 (blockSize src.fw) - blk.1]?).getD (0, false)
        { value := scaledValue (if src.scaled then Fp.scaleOf src.fw else 0) q.1.toNat (elemValue src.ty src.fw e.1)
          code := e.1, bad := bad e.2 || (src.scaled && q.2) })

/-- Residuals of elements `[first, first + count)` of a row: +0.0 where the slot's contents are not kept. -/
def State.residualsAt (s : State) (c : CoreRef) (t : Team) (k : CopyCmd) (d : Descriptor) (row first count : Nat) :
    Option (List (Nat × Bool)) :=
  match k.op, t.copy.residualSpan k d row first count with
  | .red _ kept, some x => some <| (List.range count).map fun j =>
      let a := s.flatLocal c (x.1 + 4 * j)
      if kept then (s.natAt a 4, s.anyPoison a 4) else (0, false)
  | _, _ => none

/-- Scale codes of the blocks some elements belong to, chosen from the blocks' values. -/
def scalesOf (fw size : Nat) (xs : List Elem) : List Nat :=
  (List.range ((xs.length + size - 1) / size)).map fun j =>
    blockScale fw (((xs.drop (size * j)).take size).map Elem.value)

/-- Scale codes of the blocks that a chunk's elements belong to, chosen from the blocks' values; a block of several chunks
keeps the scale that the first of them chose. -/
def Haul.chosen (h : Haul) (xs : List Elem) : List Nat :=
  if h.k.scales h.d then
    (scalesOf h.d.dfw h.d.block xs).zipIdx.map fun x =>
      (h.k.chosen.lookup (h.ch.row, h.ch.first / h.d.block + x.2)).getD x.1
  else []

/-- The chunk's own elements among those of its blocks; under scales, an element is as bad as any of its block, whose scale
it takes (R298). -/
def Haul.own (h : Haul) (xs : List Elem) : List Elem :=
  if h.k.scales h.d then
    let size := h.d.block
    let ys := xs.zipIdx.map fun e =>
      { e.1 with bad := ((xs.drop (e.2 / size * size)).take size).any Elem.bad }
    (ys.drop (h.ch.first % size)).take h.ch.count
  else xs

/-- Scale of the chunk's element `j`. -/
def Haul.scaleAt (h : Haul) (scales : List Nat) (j : Nat) : Nat :=
  (scales[(h.ch.first % h.d.block + j) / h.d.block]?).getD 127

/-- The command keeps the scales of blocks that the chunk does not hold whole. -/
def Haul.keep (h : Haul) (scales : List Nat) (k : CopyCmd) : CopyCmd :=
  let size := h.d.block
  let split := (scales.zipIdx.map fun x => ((h.ch.row, h.ch.first / size + x.2), x.1)).filter fun x =>
    !(decide (h.ch.first ≤ x.1.2 * size) && decide (Nat.min (h.d.e 0) ((x.1.2 + 1) * size) ≤ h.ch.first + h.ch.count))
      && (k.chosen.lookup x.1).isNone
  { k with chosen := k.chosen ++ split }

/-- Converts elements in order, each with its random bits in mode rs. -/
def convertAll (rs : Bool) (f : Nat → Nat → Elem → Nat × Fp.Flags) : Nat → Nat → List Elem → List Nat × Fp.Flags
  | _, _, [] => ([], 0)
  | j, g, e :: es =>
    let d := if rs then Fp.rngStep g else (g, 0)
    let x := f j d.2 e
    let r := convertAll rs f (j + 1) d.1 es
    (x.1 :: r.1, x.2 ||| r.2)

/-- Bytes that elements of a side make, over the old first and last byte where those are shared. -/
def elemBytes (w b0 : Nat) (codes : List Nat) (bads : List Bool) (old : List (Byte × Bool)) : List (Byte × Bool) :=
  let n := (b0 + w * codes.length + 7) / 8
  let x := joinElements w b0 codes
  (List.range n).map fun j =>
    let mine (b : Nat) : Bool := decide (b0 ≤ 8 * j + b) && decide (8 * j + b < b0 + w * codes.length)
    let m := (List.range 8).foldl (fun a b => if mine b then a + 2 ^ b else a) 0
    let o := (old[j]?).getD (0, false)
    let e0 := (8 * j - b0) / Nat.max 1 w
    let bad := (List.range (8 / Nat.max 1 w + 2)).any fun i =>
      decide (b0 + w * (e0 + i) < 8 * j + 8) && (bads[e0 + i]?).getD false
    (BitVec.ofNat 8 (x / 2 ^ (8 * j)) ||| (o.1 &&& BitVec.ofNat 8 (255 - m)), bad || (m != 255 && o.2))

/-! ### Landing (R294) -/

/-- The chunk of a command with a number. -/
def CopyCmd.chunk? (k : CopyCmd) (n : Nat) : Option Chunk := k.flying.find? fun ch => ch.num == n

/-- Sets the sticky bits of cp.stat. -/
def State.copySticky (s : State) (c : CoreRef) (fl : Fp.Flags) (bad : Bool) : State :=
  s.modTeam c fun t => { t with copy := { t.copy with cvx := t.copy.cvx ||| fl, psn := t.copy.psn || bad } }

/-- Writes the bytes of a chunk's destination elements, merging shared bytes at their point. -/
def State.writeElems (s : State) (h : Haul) (codes : List Nat) (bads : List Bool) : Except State State :=
  let dst := h.k.dstSide h.d
  let p := dst.span (h.k.dstRow h.d h.ch.row h.ch.idx) h.ch.first h.ch.count
  let b0 := dst.startBit h.ch.first
  let m : Manner := if b0 != 0 || (b0 + dst.bits * h.ch.count) % 8 != 0 then .merge else .plain
  let size := if bads.any id then 8 else 64
  if s.pushBusy h m p.1 p.2 then .error s
  else
    match (if m = .merge then s.pull h dst.glob m (p.2 / 64 + 2) p.1 p.2 else .bytes s []) with
    | .wait s => .error s
    | .bytes s old =>
      let bytes := elemBytes dst.bits b0 codes bads old
      if h.k.op.isBcast then
        let cores := ((s.walker.clusters.find? fun x => x.key == h.t.cluster).map Cluster.cores).getD []
        .ok (cores.foldl (fun s m => bytes.zipIdx.foldl (fun s b =>
          s.writeBytes (s.flatLocal m (p.1 % 2 ^ 24 + b.2)) [b.1.1] b.1.2) (s.markAll (s.flatLocal m (p.1 % 2 ^ 24)) bytes.length false)) s)
      else .ok (s.push h m size (bytes.length + 1) p.1 bytes)

/-- Moves a chunk of every command but cp.red; the scales it has chosen come with the state. -/
def State.moveChunk (s : State) (h : Haul) : Except State (State × List Nat) :=
  let n := h.ch.count
  match h.k.op with
  | .fill v => (s.writeElems h (List.replicate n v.toNat) (List.replicate n false)).map fun s => (s, [])
  | _ =>
    let d := h.d
    let dst := h.k.dstSide d
    let moved := d.stype == d.dtype && (d.stype != tNf || (d.sfw == d.dfw && Fp.scaleOf d.sfw == 0))
    match s.sourceElems h with
    | .error s => .error s
    | .ok (s, xs) =>
      let es := h.own xs
      let bads := es.map Elem.bad
      if moved then
        (s.writeElems h (es.map Elem.code) bads).map fun s => (s.copySticky h.c 0 (bads.any id), [])
      else
        let scales := h.chosen xs
        let sat := d.cvtSat || (dst.ty == tNf && (dst.fw / 2 ^ 20 % 2 == 1 || Fp.field dst.fw 17 16 == 2))
        let rm := if d.cvtRm = 0 then 1 else d.cvtRm
        let r := convertAll (rm == 6) (fun j u e =>
          toElem dst.ty dst.fw rm sat u (if h.k.scales d then descaled (h.scaleAt scales j) e.value else e.value))
          0 h.ch.rng.toNat es
        match s.writeElems h r.1 bads with
        | .error s => .error s
        | .ok s =>
          let b := dst.blocks h.ch.first n
          let blockBad (j : Nat) : Bool := ((xs.drop (d.block * j)).take d.block).any Elem.bad
          let s := if h.k.scales d then
            scales.zipIdx.foldl (fun s x =>
              s.push h .plain 64 2 (dst.scaleAddr d h.ch.row (b.1 + x.2)) [(BitVec.ofNat 8 x.1, blockBad x.2)]) s
            else s
          .ok (s.copySticky h.c r.2 (bads.any id), scales)

/-- Adds a chunk's payload at its destination (R288): each element's sum, residual and poison; none of it while a line
has a round open. The scales it has chosen come with the state. -/
def State.reduceChunk (s : State) (h : Haul) : Except State (State × List Nat) :=
  let d := h.d
  let n := h.ch.count
  let dst := h.k.dstSide d
  let whole := h.k.scales d
  match s.sourceElems h with
  | .error s => .error s
  | .ok (s, xs) =>
    let from_ := (h.k.sources d h.ch.first n).1
    let res := s.residualsAt h.c h.t h.k d h.ch.row from_ xs.length
    let f32 := Fp.f32
    let xs : List Elem := match res with
      | none => xs
      | some rs => (xs.zip rs).map fun p =>
        let y := roundSum f32 [p.1.value, f32.decode p.2.1]
        { value := f32.decode y, code := y, bad := p.1.bad || p.2.2 }
    let scales := h.chosen xs
    let ys := h.own xs
    let rm := if d.cvtRm = 0 then 1 else d.cvtRm
    let q := if d.dfw = 0 then (ys.map Elem.code, (0 : Fp.Flags))
      else convertAll (rm == 6) (fun j u e =>
        toNf d.dfw rm d.cvtSat u (if whole then descaled (h.scaleAt scales j) e.value else e.value)) 0 h.ch.rng.toNat ys
    let dq (j code : Nat) : Fp.FVal :=
      if d.dfw = 0 then f32.decode code
      else scaledValue (if whole then 1 else 0) (h.scaleAt scales j) (elemValue tNf d.dfw code)
    let p := dst.span (h.k.dstRow d h.ch.row h.ch.idx) h.ch.first n
    if s.pushBusy h .add p.1 p.2 then .error s
    else
      match s.pull h dst.glob .add (p.2 / 64 + 2) p.1 p.2 with
      | .wait s => .error s
      | .bytes s old =>
        let w := dst.bits
        let fmt := fmtOf d.dtype
        let olds := elementsOf w 0 n (ofBytes (old.map fun b => b.1))
        let sums := (olds.zip q.1).zipIdx.map fun e => roundSum fmt [fmt.decode e.1.1, dq e.2 e.1.2]
        let bads := ys.zipIdx.map fun e => e.1.bad || ((old.drop (w / 8 * e.2)).take (w / 8)).any fun b => b.2
        let bytes := elemBytes w 0 sums bads []
        let s := s.push h .add (if bads.any id then 8 else 64) (bytes.length + 1) p.1 bytes
        let s := match res, h.t.copy.residualSpan h.k d h.ch.row h.ch.first n with
          | some _, some x => if d.dfw = 0 then s else (ys.zip q.1).zipIdx.foldl (fun (s : State) (e : (Elem × Nat) × Nat) =>
              let r := roundSum f32 [e.1.1.value, (dq e.2 e.1.2).negate]
              s.writeBytes (s.flatLocal h.c (x.1 + 4 * e.2)) (toBytes 4 r) e.1.1.bad) s
          | _, _ => s
        .ok (s.copySticky h.c q.2 (ys.any Elem.bad), scales)

/-- A chunk that shares its first byte lands after the one before it (R292). -/
def CopyCmd.orderOk (k : CopyCmd) (d : Descriptor) (ch : Chunk) : Bool :=
  (k.dstSide d).startBit ch.first == 0 || ch.num == 0 || k.landed.contains (ch.num - 1)

/-- Replaces or removes a chunk in flight. -/
def CopyCmd.putChunk (k : CopyCmd) (ch : Chunk) : CopyCmd :=
  { k with flying := k.flying.map fun o => if o.num = ch.num then ch else o }
def CopyCmd.landChunk (k : CopyCmd) (n : Nat) : CopyCmd :=
  { k with flying := k.flying.filter fun o => o.num != n, landed := k.landed ++ [n] }

/-- Moves or adds a chunk; a row that is skipped moves nothing. -/
def State.haul (s : State) (h : Haul) : Except State (State × List Nat) :=
  if h.ch.idx = some skipIndex then .ok (s, [])
  else if h.k.op.isRed then s.reduceChunk h
  else s.moveChunk h

/-- The request that a chunk of cp.red makes of the place where its first element is added: its requester is the queue, whose
stream index is 64 and above, and it carries the chunk's tag (R252, R288; log entry 73, DEDUCED). -/
def State.haulRequest (s : State) (h : Haul) (q : Nat) : Acc × AccLane :=
  let dst := h.k.dstSide h.d
  let a := (dst.span (h.k.dstRow h.d h.ch.row h.ch.idx) h.ch.first h.ch.count).1
  let l : AccLane := match s.haulRoute h a, (if dst.glob then none else s.flatAt h.c h.t false a) with
    | _, some flat => { lane := 0, va := a, pa := flat }
    | some (flat, r), none => { lane := 0, va := a, pa := flat, sail := r.sail, loc := r.loc, home := r.home }
    | none, none => { lane := 0, va := a }
  ({ id := 0, ref := ⟨h.c.die, h.c.core, 64 + q⟩, asid := h.t.asid, kind := .store, scope := h.k.scope, isLocal := !dst.glob
     pos := h.k.pos, tag := h.ch.tag }, { l with place := s.placeCode h.c (!dst.glob) h.k.scope l })

/-- The acknowledgement of a chunk that its place has applied is lost: the place keeps its result, and the chunk is sent
again; after eight resends the job ends (R252, R253, R382). -/
def State.loseAck (s : State) (h : Haul) (q : Nat) : State :=
  if 8 ≤ h.ch.resends then s.jobFault h.t.asid 0x52
  else (s.answered h.k.id [h.ch.num]).setCmd h.c q (h.k.putChunk { h.ch with lostAt := some s.now, resends := h.ch.resends + 1 })

/-- The chunk has landed, and its command may then complete; its place frees the result it kept. -/
def State.landed (s : State) (h : Haul) (q : Nat) (k : CopyCmd) : State :=
  let r := s.haulRequest h q
  let bytes := if h.ch.idx = some skipIndex then 0 else (h.ch.count * (h.k.dstSide h.d).bits + 7) / 8
  let s := (s.teamTally h.c 39 1).teamTally h.c 40 (payloadBlocks 0 bytes)
  let s := { s with results := s.results.filter fun e => !(e.who == s.requester r.1 r.2 && e.tag == h.ch.tag) }
  (s.setCmd h.c q (k.landChunk h.ch.num)).settleCopies h.c q

/-- CHUNK_LAND (R294): a chunk's bytes are read, converted and written; it has landed once what it wrote is
acknowledged, and its command may then complete. Where the acknowledgement of a chunk of cp.red does not come back from
beyond a device link, the chunk is sent again, and its place answers it from what it has stored (R300). -/
def execChunkLand (c : CoreRef) (cmd chunk : Nat) (s : State) : Out :=
  match s.team? c with
  | none => .next s
  | some t =>
    let q := if t.copy.ldq.cmds.any fun k => k.id == cmd then 0 else 1
    match (t.copy.queue q).cmds.find? fun k => k.id == cmd with
    | none => .next s
    | some k =>
      match k.chunk? chunk, k.desc with
      | some ch, some d =>
        let h : Haul := ⟨c, t, k, d, ch⟩
        if ch.moved then
          if s.flights.any fun a => ch.acks.contains a.id then .next s else .next (s.landed h q k)
        else if !k.orderOk d ch || ch.lostAt.any (fun t => decide (s.since t < 1000 * s.fabricUs)) then .next s
        else
          let r := s.haulRequest h q
          let lose := s.replyTo cmd chunk == .lost && k.op.isRed && r.2.loc == 3
          if (s.storedResult r.1 r.2).isSome then .next (if lose then s.loseAck h q else s.landed h q k)
          else
            let before := s.nextId
            match s.haul h with
            | .error s => .next s
            | .ok (s, scales) =>
              let k := h.keep scales k
              let acks := (s.flights.filter fun a => a.wb && decide (before ≤ a.id)).map Acc.id
              if lose then .next ((s.storeResult r.1 r.2 (s.placeUnit r.1 r.2) []).loseAck { h with k := k } q)
              else if acks = [] then .next (s.landed h q k)
              else .next (s.setCmd c q (k.putChunk { ch with moved := true, acks := acks }))
      | _, _ => .next s

end Sys2Proof.Machine
end

