-- ==== Sys2Proof/Machine/KnitEmit.lean ====
section
/-! DEFINITION. Stage 7 of the knitter (spec/16_knitter.md R432 to R439; spec/15_issue_engine.md R393 to R396): kinds of
bundles, ravel points and entries, bundle bytes, and the translation. -/
namespace Sys2Proof.Machine

/-! ### Bundles in order -/

/-- An instruction that can block (R436). `attr` is its attribute value. -/
def canBlock (opc attr : Nat) : Bool :=
  [0xBF, 0xC0, 0xC1, 0xD7, 0xC2, 0xC3, 0xC4, 0xC5, 0xC6, 0xC8, 0xC9, 0xCA, 0xCF, 0xAF, 0xB1, 0xE1, 0xFF].contains opc
  || (opc == 0xB0 && attr / 4 % 2 == 0)
  || (decide (0xE8 ≤ opc) && decide (opc ≤ 0xF1))
  || (decide (0xD8 ≤ opc) && decide (opc ≤ 0xDF)) || (decide (0xE2 ≤ opc) && decide (opc ≤ 0xE6))
  || ([0xFB, 0xFC, 0xFD].contains opc && attr % 2 == 1)

def NOp.blocks (o : NOp) : Bool := canBlock o.opc (o.attr.getD 0)

/-- A bundle of the translation: its piece, whether it opens the piece, the cycle of the bundle before it there, its kind
and ravel entry, DELAY and operations. -/
structure NBundle where
  seg : Nat
  first : Bool
  prev : Option Nat := none
  kind : Nat
  ravel : Nat := 0
  delay : Nat
  ops : List NOp
  deriving DecidableEq, Repr

/-- A piece with its bundles. -/
structure Piece1 where
  seg : Seg
  bundles : List SBundle
  deriving DecidableEq, Repr

/-- Schedules the pieces in order; the attribute table grows through them (R432). -/
def scheduleAll (segs : List Seg) : List Piece1 × List Nat :=
  segs.foldl (fun (r : List Piece1 × List Nat) s =>
    let q := schedule r.2 s.ops
    (r.1 ++ [⟨s, q.1⟩], q.2)) ([], [])

/-- What the kinds of R435 rest on. -/
structure KindCx where
  loops : List (Nat × List Nat)
  /-- Blocks entered by an edge that leaves a loop, and reconvergence blocks. -/
  exits : List Nat
  recons : List Nat
  deriving DecidableEq, Repr

def kindCx (u : Inlined) : KindCx :=
  let loops := loopsOf u
  let leaves (s t : Nat) : Bool := loops.any fun l => l.2.contains s && !l.2.contains t
  { loops := loops, recons := u.recons.filterMap Prod.snd
    exits := u.order.filter fun t => u.order.any fun s => (succIn u.blocks s).contains t && leaves s t }

def KindCx.heads (k : KindCx) (b : Nat) : Bool := k.loops.any fun l => l.1 == b
/-- An empty bundle of kind 5 comes before the block's own. -/
def KindCx.doubled (k : KindCx) (b : Nat) : Bool := k.recons.contains b && (k.heads b || k.exits.contains b)

/-- The piece belongs to a loop: a block of it with its links, or the edge block of an edge within it. -/
def segInLoop (u : Inlined) (l : List Nat) (s : Seg) : Bool :=
  match s.label with
  | .edge b k => l.contains b && (((succIn u.blocks b)[k]?).map l.contains).getD false
  | .block b | .link b _ => l.contains b

/-- A loop of at most 8 bundles that hold no instruction that can block (R435). -/
def smallLoop (u : Inlined) (k : KindCx) (ps : List Piece1) (l : List Nat) : Bool :=
  let mine := ps.filter fun p => segInLoop u l p.seg
  let extra := (mine.filter fun p => match p.seg.label with
    | .block b => k.doubled b
    | .edge .. | .link .. => false).length
  decide ((mine.map fun p => p.bundles.length).foldl (· + ·) extra ≤ 8)
    && !(mine.any fun p => p.seg.ops.any NOp.blocks)

/-- The kind of a block's first bundle (R435). -/
def KindCx.kindOf (k : KindCx) (u : Inlined) (ps : List Piece1) (b : Nat) : Nat :=
  if k.heads b then (if k.loops.any fun l => l.1 == b && smallLoop u k ps l.2 then 4 else 2)
  else if k.exits.contains b then 3
  else if k.recons.contains b then 5
  else 1

/-- The bundles of the translation in index order, their kinds as the blocks give them. -/
def flatten (u : Inlined) (ps : List Piece1) : List NBundle :=
  let k := kindCx u
  (ps.zipIdx.map fun p =>
    let kind := match p.1.seg.label with
      | .block b => k.kindOf u ps b
      | .edge .. => 1
      | .link .. => 0
    let lead := match p.1.seg.label with
      | .block b => if k.doubled b then [({ seg := p.2, first := true, kind := 5, delay := 1, ops := [] } : NBundle)] else []
      | .edge .. | .link .. => []
    lead ++ p.1.bundles.zipIdx.map fun b =>
      { seg := p.2, first := b.2 == 0, prev := if b.2 = 0 then none else (p.1.bundles[b.2 - 1]?).map SBundle.cycle
        kind := if b.2 = 0 then kind else 0, delay := b.1.delay, ops := b.1.ops }).flatten

/-- Adds the ravel points of R436 and numbers the entries; `last` is the index of the latest ravel point. -/
def ravelled : Nat → Nat → Nat → List NBundle → List NBundle
  | _, _, _, [] => []
  | i, last, n, b :: bs =>
    let point := b.kind != 0 || decide (last + 64 ≤ i) || b.ops.any NOp.blocks
    if point then { b with kind := if b.kind = 0 then 1 else b.kind, ravel := n } :: ravelled (i + 1) i (n + 1) bs
    else { b with ravel := n - 1 } :: ravelled (i + 1) last n bs

/-- The index of the first bundle of a piece. -/
def startOf (ps : List Piece1) (bs : List NBundle) (l : NLabel) : Nat :=
  bs.findIdx fun b => match ps[b.seg]? with
    | some p => p.seg.label == l
    | none => false

/-! ### Ravel entries (R438, R439) -/

/-- A position of the unit: its block, the instruction it stands at, PKIND, and for an edge its successor position. -/
structure UPos where
  block : Nat
  ins : Nat
  pkind : Nat
  succ : Nat := 0
  deriving DecidableEq, Repr

/-- The position before a bundle: the block's entry, the edge, or before the first instruction not yet issued. -/
def positionOf (a : Allocated) (p : Piece1) (bs : List NBundle) (i : Nat) (b : NBundle) : UPos :=
  let k := p.seg.block
  match p.seg.label with
  | .edge _ j => ⟨k, lastOf a.lin k, 2, j⟩
  | .block _ | .link .. =>
    if b.first && (match p.seg.label with
        | .block _ => true
        | .edge .. | .link .. => false) then ⟨k, firstOf a.lin k, 0, 0⟩
    else
      let rest := ((bs.drop i).filter fun c => c.seg == b.seg).map fun c => c.ops.map NOp.lin
      let n := (rest.flatten.foldl (fun (m : Option Nat) x => match m with
        | none => some x
        | some y => some (Nat.min x y)) none).getD (lastOf a.lin k)
      ⟨k, n, 1, 0⟩

/-- Where an instruction defines a value: its number. -/
def defAt (lin : List LIns) (v : Val) : Option Nat := lin.findIdx? fun i => i.defs.contains v

/-- A value's definition dominates a position. -/
def dominatesPos (a : Allocated) (v : Val) (p : UPos) : Bool :=
  match defAt a.lin v with
  | none => false
  | some n =>
    match a.lin[n]? with
    | none => false
    | some i =>
      if i.block = p.block then (match p.pkind with
        | 1 => decide (n < p.ins)
        | _ => decide (n ≤ p.ins))
      else dominatesIn a.unit.blocks i.block p.block

/-- A value is live at a position. -/
def liveAt (a : Allocated) (v : Val) (p : UPos) : Bool :=
  match a.ivals.find? fun x => x.val == v with
  | none => false
  | some x =>
    let across (n : Nat) : Bool := decide (x.start < 2 * n) && decide (2 * n ≤ x.stop)
    match p.pkind with
    | 0 => across p.ins || x.start == 2 * p.ins + 1
    | 1 => across p.ins
    | _ =>
      match ((a.lin[p.ins]?).map LIns.jumps).bind fun js => js[p.succ]? with
      | some j => j.2.contains v || across (firstOf a.lin j.1)
      | none => false

/-- The cycles until a value's write lands, for a fixed result of the piece issued before a bundle inside it (Table
16.4). -/
def cyclesLeft (p : Piece1) (prev : Option Nat) (lin : Nat) (l : NLoc) : Nat :=
  match prev with
  | none => 0
  | some t =>
    (p.bundles.map fun b => (b.ops.map fun o =>
      if o.lin = lin ∧ b.cycle ≤ t then
        (List.zip o.dst o.lats).map fun d => if d.1 = some l ∧ d.2.2 = true then b.cycle + d.2.1 - 1 - t else 0
      else []).flatten).flatten.foldl Nat.max 0

/-- The record of a value at a position (Table 16.4). -/
def ravelVal (a : Allocated) (p : Piece1) (b : NBundle) (pos : UPos) (depth : Nat) (v : Val) : RavelVal :=
  let ty := a.ty v
  let base : RavelVal := { frame := depth, num := v.2, ty := ty, loc := 0 }
  if !liveAt a v pos then base
  else
    let left (l : NLoc) : Nat := if pos.pkind = 1 then cyclesLeft p b.prev ((defAt a.lin v).getD 0) l else 0
    match a.place v with
    | .reg n => let k := left (regLoc ty n); { base with loc := if k = 0 then 1 else 5, place := n, k := k }
    | .pred n => let k := left (.pred n); { base with loc := if k = 0 then 2 else 6, place := n, k := k }
    | .word n => { base with loc := 3, place := n }
    | .konst x => { base with loc := 4, const := x }
    | .unused => base

/-- The entry of a bundle. -/
def ravelEntry (a : Allocated) (gen : Bool) (ps : List Piece1) (bs : List NBundle) (i : Nat) (b : NBundle) : RavelEntry :=
  match ps[b.seg]? with
  | none => { off := 0, func := 0, pkind := 0 }
  | some p =>
    let pos := positionOf a p bs i b
    match a.unit.blocks[pos.block]?, a.lin[pos.ins]? with
    | some k, some ins =>
      let depth (v : Val) : Option Nat :=
        (a.unit.blocks.find? fun c => c.frame == v.1).bind fun c =>
          if c.chain.isPrefixOf k.chain then some c.chain.length else none
      let vals := (sortBy (valKey a.unit) (a.types.map Prod.fst)).filterMap fun v =>
        (depth v).bind fun d => if dominatesPos a v pos then some (ravelVal a p b pos d v) else none
      { off := ins.off, func := k.func, pkind := pos.pkind, succ := pos.succ, gen := gen, frames := k.chain, vals := vals
        bundle := i }
    | _, _ => { off := 0, func := 0, pkind := 0 }

/-- Bytes of an entry with its index word (R437 to R439). -/
def RavelEntry.size (e : RavelEntry) : Nat := 4 + 16 + 8 * e.frames.length + 16 * e.vals.length

/-- The unit keeps generator states live (R176). -/
def keepsGenerator (lin : List LIns) : Bool :=
  lin.any fun i => i.opc == 0x7B || (decide (0x40 ≤ i.opc) && decide (i.opc < 0x80) &&
    (i.ins.attr.rmField == 0 || i.ins.attr.rmField == 6))

/-! ### Bundle bytes (R393 to R396) -/

/-- A slot (Table 15.3). -/
def slotBits (opc form pol gix dst sa sb sc mod : Nat) : Nat :=
  opc * 2 ^ 48 + form * 2 ^ 42 + pol * 2 ^ 41 + gix * 2 ^ 37 + dst * 2 ^ 29 + sa * 2 ^ 21 + sb * 2 ^ 13 + sc * 2 ^ 5 + mod

def emptySlot : Nat := 13 * 2 ^ 37
/-- A literal slot. -/
def literalSlot (x : Nat) : Nat := x / 2 ^ 37 % 2 ^ 15 * 2 ^ 41 + 14 * 2 ^ 37 + x % 2 ^ 37

def NLoc.field : NLoc → Nat
  | .reg n | .pair n | .pred n => n

/-- The field of a source, and the literal it takes. -/
def NSrc.field (start : NLabel → Nat) : NSrc → Nat × List Nat
  | .loc l => (l.field, [])
  | .word w => (w, [])
  | .lit x => (255, [x % 2 ^ 52])
  | .goto l => (255, [start l])

/-- The slot of an operation and the literals it demands, in the order of R396. -/
def NOp.encode (start : NLabel → Nat) (attrs : List Nat) (o : NOp) : Nat × List Nat :=
  let f (k : Nat) : Nat × List Nat := ((o.src[k]?).map (NSrc.field start)).getD (0, [])
  let d (k : Nat) : Nat := match o.dst[k]? with
    | some (some l) => l.field
    | some none => 255
    | none => 0
  let ext := 3 < o.src.length ∨ 1 < o.dst.length
  let word := (f 3).1 + (f 4).1 * 2 ^ 8 + d 1 * 2 ^ 16 + d 2 * 2 ^ 24 + d 3 * 2 ^ 32
  let mod := match o.attr with
    | none => 0
    | some v => if attrs.contains v then attrs.idxOf v else 31
  let lits := (f 0).2 ++ (f 1).2 ++ (f 2).2 ++ (if ext then word :: ((f 3).2 ++ (f 4).2) else [])
    ++ (if mod = 31 then [o.attr.getD 0] else [])
  let g := match o.guard with
    | none => (12, 0)
    | some g => g
  (slotBits o.opc o.form g.2 g.1 (d 0) (f 0).1 (f 1).1 (f 2).1 mod, lits)

/-- Fills the empty slots with literals in slot order. -/
def fillSlots : List (Option Nat) → List Nat → List Nat
  | [], _ => []
  | some x :: ss, ls => x :: fillSlots ss ls
  | none :: ss, [] => emptySlot :: fillSlots ss []
  | none :: ss, l :: ls => literalSlot l :: fillSlots ss ls

/-- The 40 bytes of a bundle. -/
def NBundle.encode (start : NLabel → Nat) (attrs : List Nat) (b : NBundle) : List Byte :=
  let enc := b.ops.map fun o => (slotOf o.opc, o.encode start attrs)
  let slots := (List.range 5).map fun k => (enc.lookup k).map Prod.fst
  let lits := (enc.map fun e => e.2.2).flatten
  let msa := if b.ops.any fun o => o.opc == 0xBA then 1 else 0
  toBytes 4 (b.kind * 2 ^ 28 + b.ravel % 2 ^ 12 * 2 ^ 16 + b.delay % 256 * 2 ^ 8 + msa * 2 ^ 4)
    ++ ((fillSlots slots lits).map (toBytes 7)).flatten ++ [0]

/-- The slots of a bundle with the positions of their instructions. -/
def NBundle.places (a : Allocated) (b : NBundle) : List (Nat × Position) :=
  b.ops.filterMap fun o =>
    match a.lin[o.lin]? with
    | some i => some (slotOf o.opc, ⟨i.func, i.off⟩)
    | none => none

/-! ### The translation -/

/-- Stage 7: the translation of an allocated unit; one larger than its
limits is refused (0x47). -/
def emit (key : TransKey) (part : Nat) (a : Allocated) : Except KnitFail Translation :=
  let x : EmitCx := ⟨a, key.ident⟩
  match x.segments with
  | .error e => .error e
  | .ok segs =>
    let q := scheduleAll segs
    let bs := ravelled 0 0 0 (flatten a.unit q.1)
    let gen := keepsGenerator a.lin
    let ravels := (bs.zipIdx.filter fun b => b.1.kind != 0).map fun b => ravelEntry a gen q.1 bs b.2 b.1
    let size := 96 + 40 * bs.length + (ravels.map RavelEntry.size).foldl (· + ·) 0
    if 3 * 2 ^ 20 < size ∨ 4096 < ravels.length then .error (.refuse 0x47 key.entry noOffset)
    else
      let start := startOf q.1 bs
      .ok { key := key, part := part, unit := unitBlocks a.unit.fns a.unit.blocks a.unit.recons
            bundles := bs.map (NBundle.encode start q.2), places := bs.map (NBundle.places a), attrs := q.2.map (BitVec.ofNat 16), ravels := ravels
            starts := (List.range a.unit.blocks.length).map fun b => start (.block b)
            size := size, spills := a.words }

/-- A unit through every stage (R421): the translation, and the instructions it is made of. -/
def State.translated (s : State) (die : Nat) (job : KnitJob) : Except KnitFail (Translation × Nat) :=
  match s.inlined die job with
  | .error e => .error e
  | .ok u =>
    match allocate u job.key.budget with
    | .error e => .error e
    | .ok a => (emit job.key job.part a).map fun t => (t, unitLength u.blocks)

end Sys2Proof.Machine
end

