-- ==== Sys2Proof/Machine/KnitEvents.lean ====
section
/-! DEFINITION. The knitters' requests (spec/16_knitter.md R418 to R422; spec/02_delaro_form.md R46, R55, R56): a
translation is made, refused, or waits; it is written to the store. -/
namespace Sys2Proof.Machine

/-- Event codes of the knitter (R36). -/
def codeVerify : Nat := 0x01
def codeMiss : Nat := 0x02
def codeRetrans : Nat := 0x04
def codeFetch : Nat := 0x22

/-- The request at the head of a row's knitter. -/
def Die.knitting (d : Die) (row : Nat) : Option KnitJob := (d.jobs.find? fun j => j.1 == row).map Prod.snd

/-- Changes the first request of a row. -/
def modFirst (row : Nat) (f : KnitJob → KnitJob) : List (Nat × KnitJob) → List (Nat × KnitJob)
  | [] => []
  | j :: js => if j.1 = row then (row, f j.2) :: js else j :: modFirst row f js

/-- The knitter of a row takes its next request. -/
def dropFirst (row : Nat) : List (Nat × KnitJob) → List (Nat × KnitJob)
  | [] => []
  | j :: js => if j.1 = row then js else j :: dropFirst row js

def State.modJob (s : State) (die row : Nat) (f : KnitJob → KnitJob) : State :=
  s.modDie die fun d => { d with jobs := modFirst row f d.jobs }

def State.dropJob (s : State) (die row : Nat) : State := s.modDie die fun d => { d with jobs := dropFirst row d.jobs }

/-- The streams of a die that wait for the translation of a key. -/
def State.waitersFor (s : State) (die : Nat) (k : TransKey) : List StreamRef :=
  (s.cores.map fun c =>
    match c.team with
    | none => []
    | some t =>
      if c.at_.die ≠ die then []
      else
        match s.launch? t.launch with
        | none => []
        | some l =>
          t.order.filterMap fun i =>
            let entry := if i = 32 then l.record.ctlEntry else l.record.grpEntry
            match t.stream? i with
            | some st => if st.wait = some .translation ∧ s.transKey l die entry = k then some ⟨die, c.at_.core, i⟩ else none
            | none => none).flatten

/-- A refusal: TE_VERIFY with its record ends every job that waits for the unit (R46, R422). -/
def State.refuseUnit (s : State) (die row : Nat) (job : KnitJob) (rec : Nat × Nat × Nat) : State :=
  let asids := ((s.waitersFor die job.key).filterMap fun r => (s.team? (coreOf r)).map Team.asid).eraseDups
  let s := (s.modDie die fun d => { d with verify := some rec }).dropJob die row
  (job.asid :: asids.filter fun a => a != job.asid).foldl (fun s a => s.jobFault a codeVerify) s

/-- FETCH_FAULT is delivered to every stream that waits for the translation (R56): `pos` is the instruction's position,
then its address and that of the byte. -/
def State.fetchFault (s : State) (die row : Nat) (job : KnitJob) (pos : Position) (ins byte : Nat) : State :=
  let rs := s.waitersFor die job.key
  rs.foldl (fun s r => match s.stream? r with
    | some _ => s.takeTrap r { stream := r.idx, code := codeFetch, pos := pos, value := ins, byteAt := byte }
    | none => s) (s.dropJob die row)

/-- TRANSLATION: the knitter of a row verifies, inlines, allocates, schedules and emits the unit of its request (R421). The
translation is then in progress for 200 cycles and one for each instruction. A missing code page makes it wait. -/
def execTranslation (die row : Nat) (s : State) : Out :=
  match (s.die die).knitting row with
  | none => .next s
  | some job =>
    if job.waiting || job.result.isSome then .next s
    else
      match s.translated die job with
      | .ok (t, n) => .next (s.modJob die row fun j => { j with result := some t, left := 200 + n })
      | .error (.refuse c f o) => .next (s.refuseUnit die row job (c, f, o))
      | .error (.fetch f o ins byte) => .next (s.fetchFault die row job ⟨f, o⟩ ins byte)
      | .error (.page va) =>
        let s := (s.partEvent job.part 0x20).modJob die row fun j => { j with waiting := true }
        .next (s.gather die { asid := job.asid, block := blockOf va, kinds := kindKnitter, who := .knit die row, time := s.now })

/-- The teams of a die take a translation, and the streams that wait for it may start. -/
def State.giveUnit (s : State) (die : Nat) (t : Translation) : State :=
  let wake (st : Stream) : Stream := if st.wait = some .translation then { st with wait := none } else st
  let give (c : Core) : Core :=
    match c.team with
    | none => c
    | some u =>
      if c.at_.die ≠ die then c
      else
        match s.launch? u.launch with
        | none => c
        | some l =>
          let u := if s.transKey l die l.record.ctlEntry = t.key then { u with ctlUnit := some t, control := wake u.control } else u
          let u := if s.transKey l die l.record.grpEntry = t.key then { u with grpUnit := some t, groups := u.groups.map wake } else u
          { c with team := some u }
  (s.cores.map Core.at_).foldl (fun s c => if c.die = die then s.remapTeam c else s) { s with cores := s.cores.map give }

/-- TRANSLATION_COMPLETE: the translation is written to the store, which makes room first, and TE_MISS is raised, or
TE_RETRANS after NATIVE_CHECK or where the store holds the unit under another budget (R418 to R421). -/
def execTranslationComplete (die row : Nat) (s : State) : Out :=
  match (s.die die).knitting row with
  | none => .next s
  | some job =>
    match job.result with
    | none => .next s
    | some t =>
      let t := { t with checkedAt := job.check }
      if job.left ≠ 0 then .next s
      else
        let other := (s.die die).store.any fun u =>
          u.key.hash == t.key.hash && u.key.entry == t.key.entry && u.key.ident == t.key.ident && u.key.budget != t.key.budget
        let s := s.modDie die fun d => { d with store := d.store.filter fun u => u.key != t.key
                                                native := d.native.filter fun n => n.2.1 != t.key }
        let s := s.makeRoom die t.size ((s.die die).store.length + 1)
        let s := (s.modDie die fun d => { d with store := t :: d.store }).dropJob die row
        let s := if job.check.isSome then s.transEvent job.part die codeRetrans t 1 job.spent
          else if other then s.transEvent job.part die codeRetrans t 0 job.spent
          else s.transEvent job.part die codeMiss t 0 job.spent
        .next (s.giveUnit die t)

end Sys2Proof.Machine
end

