-- ==== Sys2Proof/Machine/Page.lean ====
section
/-! DEFINITION. The page engine (spec/12_page_engine.md R339 to R348): batches and range records, their resolution and the
replay of requesters, and the commands of PG_CMD with shootdowns and migration. -/
namespace Sys2Proof.Machine

/-! ### Batches (R340, R341) -/

/-- A batch is open. -/
def Batch.isOpen (b : Batch) : Bool := !b.closed && !b.written

/-- BATCH_CLOSE: the open batch of a die closes at 64 faults, or 4 µs after its first (R340). -/
def execBatchClose (die : Nat) (s : State) : Out :=
  let due (b : Batch) : Bool := b.die == die && b.isOpen && (decide (64 ≤ b.faults.length) || decide (4000 ≤ s.since b.start))
  let close (b : Batch) : Batch := if due b then { b with closed := true } else b
  .next { s with pages := { s.pages with batches := s.pages.batches.map close } }

/-- Inserts a fault behind those of smaller or equal address space and block. -/
def insertFault (f : PageFault) : List PageFault → List PageFault
  | [] => [f]
  | g :: gs =>
    if f.asid < g.asid ∨ (f.asid = g.asid ∧ f.block < g.block) then f :: g :: gs else g :: insertFault f gs

/-- A batch's faults sorted by address space and address. -/
def Batch.sorted (b : Batch) : List PageFault := b.faults.foldl (fun xs f => insertFault f xs) []

/-- A range: address space, first block, blocks, and the faults merged. -/
structure FaultRange where
  asid : Nat
  first : Nat
  blocks : Nat
  faults : List PageFault

/-- Merges sorted faults whose blocks are equal or adjacent within an aligned 2 MiB, newest range first. -/
def mergeFaults : List FaultRange → List PageFault → List FaultRange
  | rs, [] => rs
  | [], f :: fs => mergeFaults [⟨f.asid, f.block, 1, [f]⟩] fs
  | r :: rs, f :: fs =>
    if r.asid = f.asid ∧ f.block ≤ r.first + r.blocks ∧ f.block / 32 = r.first / 32 then
      mergeFaults (⟨r.asid, r.first, Nat.max r.blocks (f.block + 1 - r.first), r.faults ++ [f]⟩ :: rs) fs
    else mergeFaults (⟨f.asid, f.block, 1, [f]⟩ :: r :: rs) fs

def Batch.fused (b : Batch) : List FaultRange := (mergeFaults [] b.sorted).reverse

/-- The bytes of a range record (Table 12.3). -/
def rangeBytes (b : Batch) (r : FaultRange) : List Byte :=
  let kinds := r.faults.foldl (fun k f => k ||| f.kinds) 0
  let time := match r.faults with
    | [] => 0
    | f :: fs => fs.foldl (fun t g => Nat.min t g.time) f.time
  toBytes 8 (r.first * 65536) ++ toBytes 4 r.blocks ++ toBytes 2 r.asid ++ toBytes 1 b.die ++ toBytes 1 kinds
    ++ toBytes 2 r.faults.length ++ toBytes 2 b.number.toNat ++ toBytes 8 time ++ [0, 0, 0, 0]

/-- Records the fault ring holds. -/
def PageEngine.ringSize (p : PageEngine) : Nat := 2 ^ (p.log2n.toNat + 6)

/-- The flat address of a record of the fault ring. -/
def PageEngine.ringAt (p : PageEngine) (i : Nat) : Nat := tableFlat p.fqBase.toNat + 32 * (i % p.ringSize)

/-- BATCH_WRITE: the oldest closed batch of a die is written, once the ring has room for all its records (R340). -/
def execBatchWrite (die : Nat) (s : State) : Out :=
  match s.pages.batches.find? fun b => b.die == die && b.closed && !b.written with
  | none => .next s
  | some b =>
    let rs := b.fused
    let p := s.pages
    if !entryV p.fqBase.toNat || p.ringSize < (p.tail - p.head).toNat + rs.length then .next s
    else
      let s := rs.zipIdx.foldl (fun s r => s.writeBytes (p.ringAt (p.tail.toNat + r.2)) (rangeBytes b r.1)) s
      let b' := { b with written := true, start := s.now, ring := p.tail.toNat
                         ranges := rs.map fun r => (r.first, r.blocks, r.asid) }
      .next { s with pages := { s.pages with
        tail := p.tail + BitVec.ofNat 32 rs.length
        batches := s.pages.batches.map fun c => if c.die = b.die ∧ c.number = b.number then b' else c } }

/-! ### Resolution and replay (R342, R343) -/

/-- What a resolution tells a lane that waits for a block. -/
def AccLane.told (l : AccLane) (block : Nat) (left : Bool) : AccLane :=
  if l.stage = .parked ∧ blockOf l.va = block then { l with stage := if left then .denied else .mapped } else l

/-- An access with the lanes told that wait for a block. -/
def Acc.told (a : Acc) (block : Nat) (left : Bool) : Acc := { a with lanes := a.lanes.map fun l => l.told block left }

/-- What a resolution tells a halted queue (R293): a block that was left unmapped makes the fault ACCESS_VIOLATION with cause
1; the queue resumes once every block is answered. -/
def CopyQueue.told (x : CopyQueue) (cmd chunk block : Nat) (left : Bool) : CopyQueue :=
  match x.halted with
  | none => x
  | some h =>
    if h.code ≠ 0x20 ∨ h.cmd ≠ cmd ∨ h.chunk ≠ chunk ∨ !h.blocks.contains block then x
    else if left then { x with halted := some { h with code := 0x21, cause := 1, reported := false, blocks := [] } }
    else { x with halted := some { h with blocks := h.blocks.filter fun b => b != block } }

/-- A queue whose faults are all answered goes on from its chunk records, with a FAULT link (R343, R445); another code is
reported. -/
def State.resumeQueue (s : State) (c : CoreRef) (q : Nat) : State :=
  match (s.copyQueue c q).halted with
  | none => s
  | some h =>
    if h.code ≠ 0x20 then s.reportCopyFault c q
    else if h.blocks ≠ [] then s
    else
      match (s.copyQueue c q).cmds.find? fun k => k.id == h.cmd with
      | none => s.modQueue c q fun x => { x with halted := none }
      | some k =>
        let l := s.addLink c { kind := 0x0C, detail := q + 1, stream := 63, weng := q + 1, pos := k.pos
                               start := k.headAt.getD s.now, prod := some (s.terminalRef 6 255 8) }
        (l.1.modQueue c q fun x => { x with halted := none }).setCmd c q { k with link := some l.2 }

/-- A stream that waits for the page of a record meets ACCESS_VIOLATION with cause 1 when the page is left unmapped. -/
def State.settleRecord (s : State) (r : StreamRef) : State :=
  match s.stream? r with
  | none => s
  | some st =>
    match st.deniedAt with
    | none => s
    | some va =>
      if ((s.team? (coreOf r)).bind Team.trapped).isSome then s
      else
        (s.modStream r fun st => { st with deniedAt := none }).takeTrap r
          { st.trapAt r.idx 0x21 with arg := 1, value := va }

/-- The teams that are saved, changed (R343). -/
def State.modSaved (s : State) (f : Cluster → SavedTeam → SavedTeam) : State :=
  { s with walker := { s.walker with clusters := s.walker.clusters.map fun k =>
      { k with saved := k.saved.map fun x => f k x } } }

/-- Changes the team of a saved record. -/
def SavedTeam.withTeam (x : SavedTeam) (f : Team → Team) : SavedTeam := { x with team := f x.team }

/-- A requester replays (status 0 or 1), meets ACCESS_VIOLATION with cause 1 (2), or ends its job (3); that of a team which
has been saved is told, and does so when the team is resumed (R342, R343). -/
def State.answer (s : State) (status : Nat) (f : PageFault) : State :=
  let left := status == 2
  let s := if status = 3 then s.jobFault f.asid 0x26 else s
  match f.who with
  | .stream id =>
    ((s.modAcc id fun a => a.told f.block left).modSaved fun _ x =>
      { x with accs := x.accs.map fun a => if a.id = id then a.told f.block left else a }).replay id
  | .copy cmd q n =>
    let tell (t : Team) : Team := { t with copy := t.copy.setQueue q ((t.copy.queue q).told cmd n f.block left) }
    let s := s.modSaved fun _ x => x.withTeam tell
    match s.cores.find? fun k => k.team.any fun t => (t.copy.queue q).cmds.any fun k => k.id == cmd with
    | some k => (s.modTeam k.at_ tell).resumeQueue k.at_ q
    | none => s
  | .knit die row => s.modDie die fun d => { d with jobs := d.jobs.map fun j =>
      if j.1 = row && j.2.waiting then
        (row, { j.2 with waiting := false, denied := if 2 ≤ status then some (f.block * 65536) else j.2.denied })
      else j }
  | .record cluster member idx =>
    if !left then s
    else
      let deny (t : Team) : Team :=
        match t.stream? idx with
        | some st => t.setStream idx { st with deniedAt := some (f.block * 65536) }
        | none => t
      let s := s.modSaved fun k x => if k.key = cluster ∧ x.member = member then x.withTeam deny else x
      match s.cores.find? fun k => k.team.any fun t => t.cluster == cluster && t.teamid == member with
      | some k => (s.modTeam k.at_ deny).settleRecord ⟨k.at_.die, k.at_.core, idx⟩
      | none => s

/-- Resolves a batch: each range under its status, the requesters in the order of the sorted records. -/
def State.resolve (s : State) (b : Batch) (status : Nat → Nat) : State :=
  let s := { s with pages := { s.pages with batches := s.pages.batches.filter fun c => !(c.die == b.die && c.number == b.number) } }
  b.fused.zipIdx.foldl (fun s r => r.1.faults.foldl (fun s f => s.answer (status r.2) f) s) s

/-- PG_RESOLVE (R342): the statuses firmware wrote into the batch's records. -/
def execPgResolve (w : BitVec 32) (s : State) : Out :=
  if !s.board.ready then .next s
  else
    match s.pages.batches.find? fun b => b.die == (w.extractLsb' 16 3).toNat && b.number == w.extractLsb' 0 16 && b.written with
    | none => .next s
    | some b => .next (s.resolve b fun i => (s.byteAt (s.pages.ringAt (b.ring + i) + 28)).toNat)

/-- BATCH_TIMEOUT (R342): 500 ms after it was written, a batch is resolved with status 2 in every range. -/
def execBatchTimeout (die batch : Nat) (s : State) : Out :=
  match s.pages.batches.find? fun b => b.die == die && b.number.toNat == batch && b.written with
  | none => .next s
  | some b => .next (if 500000000 ≤ s.since b.start then s.resolve b fun _ => 2 else s)

/-! ### Commands (R344 to R346, R364) -/

/-- Leaves of an address space that a range of addresses covers: the leaf and where its entry stands, or none where a page
is not mapped. The command's walk reads the tables themselves: no die is numbered 7. -/
def State.leavesIn (s : State) (asid stop : Nat) : Nat → Nat → List (Option (Leaf × Nat))
  | 0, _ => []
  | fuel + 1, va =>
    if stop ≤ va then []
    else
      match (s.walk 7 asid va).1 with
      | .leaf f a => some (f, a) :: s.leavesIn asid stop fuel (f.base + f.bytes)
      | _ => none :: s.leavesIn asid stop fuel (va / 65536 * 65536 + 65536)

/-- Every core and every walker drops its copies of entries for a range (R338, R345). -/
def State.shoot (s : State) (asid va stop : Nat) : State :=
  { s with
    cores := s.cores.map fun k =>
      { k with tlb := k.tlb.filter fun e => !(e.asid == asid && decide (e.base < stop) && decide (va < e.base + e.bytes)) }
    dies := s.dies.map fun d =>
      { d with walker := d.walker.filter fun e =>
          !(e.asid == asid && decide (e.idx * 2 ^ levelShift e.level < stop)
            && decide (va < (e.idx + 1) * 2 ^ levelShift e.level)) } }

/-- A lane has been sent and has neither bound nor performed. -/
def AccLane.pending (l : AccLane) : Bool := l.stage == .sent || l.stage == .coalescing || l.stage == .round

/-- Accesses accepted under entries of a range (R345). An atomic whose response was lost is resent to wherever its page
then lies (R254). -/
def State.accepted (s : State) (asid va stop : Nat) : List Nat :=
  (s.flights.filter fun a => !a.wb && a.asid == asid && !a.isLocal && a.lanes.any fun l =>
    decide (va ≤ l.va) && decide (l.va < stop)
      && (l.pending || (a.isAtomic && (l.stage == .done || l.stage == .applied)))).map Acc.id

/-- Copy chunks of an address space in flight: command and chunk. -/
def State.chunksOf (s : State) (asid : Nat) : List (Nat × Nat) :=
  (s.cores.map fun k => match k.team with
    | some t => if t.asid = asid then
        ((t.copy.ldq.cmds ++ t.copy.stq.cmds).map fun x => x.flying.map fun ch => (x.id, ch.num)).flatten else []
    | none => []).flatten

/-- What a command waits for has gone (R345). -/
def State.drained (s : State) (k : PageCmd) (va stop : Nat) : Bool :=
  !(s.accepted k.asid va stop).any (fun id => k.waitFor.contains id)
    && !(s.chunksOf k.asid).any fun x => k.chunks.contains x

/-- Sends what cores and cluster sails hold of a page's bytes towards its home, and drops their lines. -/
def State.drainPage (s : State) (flat n : Nat) : State :=
  let mine (o : Onward) : Bool := decide (flat ≤ o.lane.pa) && decide (o.lane.pa < flat + n)
  let s := (s.onward.filter mine).foldl (fun s o => s.pushOnward o) s
  let s := { s with onward := s.onward.filter fun o => !mine o }
  s.sails.foldl (fun s x => match x.cluster with
    | some key =>
      let core := (((s.walker.clusters.find? fun k => k.key == key).bind fun k => k.cores.head?)).getD hubCore
      s.evictLines (.cluster key) 255 core fun _ l =>
        decide (flat ≤ l.line * x.lineBytes) && decide (l.line * x.lineBytes < flat + n)
    | none => s) s

/-- A write-back to the page has not been acknowledged. -/
def State.pageBusy (s : State) (flat n : Nat) : Bool :=
  s.flights.any fun a => a.wb && a.lanes.any fun l => decide (flat ≤ l.pa) && decide (l.pa < flat + n)

/-- Writes back and drops a page's lines in a home or replicated sail, replicas included (R363, R364). -/
def State.evictPage (s : State) (id flat n : Nat) : State :=
  match s.sail? (.sys id) with
  | none => s
  | some x =>
    let inPage (a : Nat) : Bool := decide (flat ≤ a * x.lineBytes) && decide (a * x.lineBytes < flat + n)
    let s := x.parts.foldl (fun s p => s.evictLines (.sys id) p.die hubCore fun _ l => inPage l.line) s
    s.modSail (.sys id) fun x => { x with sharers := x.sharers.filter fun m => !inPage m.1 }

/-- Moves bytes, poison and checks from one flat range to another (R346). -/
def State.copyRange (s : State) (src dst n : Nat) : State :=
  let inside (lo a : Nat) : Bool := decide (lo ≤ a) && decide (a < lo + n)
  let fresh := !s.board.zeroed
  let gs := (List.range (n / 8)).map fun k => src + 8 * k
  let s := if fresh && isHbm src then gs.foldl (fun s a => s.settle a) s else s
  let s := if fresh && isHbm dst then
      { s with written := (gs.map fun a => a - src + dst).foldl (fun w a => setInsert a w) s.written } else s
  let cells := s.mem.filter fun c => inside src c.1
  { s with
    mem := cells.foldl (fun m c => memWrite m (c.1 - src + dst) c.2) (s.mem.filter fun c => !inside dst c.1)
    poison := ((s.poison.filter (inside src)).map fun a => a - src + dst).foldl (fun p a => setInsert a p)
      (s.poison.filter fun a => !inside dst a) }

/-- Result-store entries of a page move with it (R254): the unit is that of the new home. -/
def State.moveResults (s : State) (f new : Leaf) : State :=
  let src := leafFlat f.entry
  let dst := leafFlat new.entry
  let unit (a : Nat) : Nat := match s.sail? (.sys (leafSail new.entry)) with
    | some x => s.bankOf x.key (x.homeOf (entryLoc new.entry) (entryDie new.entry)) a
    | none => 0
  { s with results := s.results.map fun e =>
      if e.place = 3 ∧ src ≤ e.addr ∧ e.addr < src + f.bytes then
        { e with addr := e.addr - src + dst, unit := unit (e.addr - src + dst) } else e }

/-- Writes a table entry. -/
def State.writeEntry (s : State) (at_ e : Nat) : State := s.writeBytes at_ (toBytes 8 e)

/-- Ends a command with a status, in its record and in PG_CMDSTAT. -/
def State.pageDone (s : State) (rec : BitVec 64) (status : Nat) : State :=
  let s := s.writeBytes (flatHost (rec.toNat + 24)) [BitVec.ofNat 8 status]
  { s with pages := { s.pages with cmd := none, status := BitVec.ofNat 8 status } }

/-- The fields of a command record. -/
structure PageRecord where
  op : Nat
  asid : Nat
  pages : Nat
  va : Nat
  target : Nat
  ok : Bool

/-- Reads a command record. `ok` is false for a malformed one (status 3): R344 does not list what makes it so, log entry
79 (DEDUCED). -/
def State.pageRecord (s : State) (rec : BitVec 64) : PageRecord :=
  let a := flatHost rec.toNat
  let va := s.natAt (a + 8) 8
  { op := s.natAt a 2, asid := s.natAt (a + 2) 2, pages := s.natAt (a + 4) 4, va := va, target := s.natAt (a + 16) 8
    ok := s.natAt (a + 25) 7 == 0 && va % 65536 == 0 && va / 2 ^ 56 == 0 && s.natAt a 2 ≤ 4 }

/-- The leaf a migration gives the `i`-th byte of its range: the new LOC, DIE and FRAME with MOV clear. -/
def movedLeaf (e target bytes i : Nat) : Nat :=
  let keep := e % 2 ^ 6 + e / 2 ^ 7 % 2 * 2 ^ 7 + bits e 23 16 * 2 ^ 16
  keep + bits target 13 8 * 2 ^ 8 + (bits target 63 24 + i / bytes * (bytes / 65536)) % 2 ^ 40 * 2 ^ 24

/-- The page of a migration that moves next has MOV set and is shot down (R346 step 1). -/
def State.beginMove (s : State) (k : PageCmd) : State :=
  match k.todo with
  | [] => s
  | (va, at_) :: _ =>
    let e := s.natAt at_ 8
    let n := (match (s.walk 7 k.asid va).1 with
      | .leaf f _ => f.bytes
      | _ => 65536)
    let s := (s.writeEntry at_ (if leafMov e then e else e + 64)).shoot k.asid va (va + n)
    let s := s.drainPage (leafFlat e) n
    { s with pages := { s.pages with
        cmd := some { k with waitFor := s.accepted k.asid va (va + n), chunks := s.chunksOf k.asid } } }

/-- Starts a command (R344): nothing while another runs or before READY. `want` is the operation the row stands for; a
record whose operation is another is another row's, and one with no operation is malformed. -/
def pageCommand (want : Nat) (rec : BitVec 64) (s : State) : Out :=
  let r := s.pageRecord rec
  if !s.board.ready || s.pages.cmd.isSome || (r.op ≤ 4 && r.op != want) then .next s
  else
    let stop := r.va + 65536 * r.pages
    let ls := s.leavesIn r.asid stop r.pages r.va
    let leaves := ls.filterMap id
    let newOk := want != 1 || leaves.all fun f =>
      !s.badLeaf (if f.1.bytes = 65536 then 3 else if f.1.bytes = 2 ^ 21 then 2 else if f.1.bytes = 2 ^ 30 then 1 else 0)
        (movedLeaf f.1.entry r.target f.1.bytes (f.1.base - r.va))
    if !r.ok then .next (s.pageDone rec 3)
    else if (want = 1 ∨ want = 2) ∧ leaves.any (fun f => leafPin f.1.entry) then .next (s.pageDone rec 1)
    else if want ≠ 0 ∧ ls.any Option.isNone then .next (s.pageDone rec 2)
    else if !newOk then .next (s.pageDone rec 3)
    else
      let k : PageCmd := { op := want, asid := r.asid, va := r.va, pages := r.pages, target := r.target
                           recAddr := rec.toNat, todo := leaves.map fun f => (f.1.base, f.2) }
      if want = 1 then
        if leaves = [] then .next (s.pageDone rec 0) else .next (s.beginMove k)
      else
        let change (e : Nat) : Nat := match want with
          | 2 => e - e % 2
          | 3 => if leafPin e then e else e + 32
          | 4 => if leafPin e then e - 32 else e
          | _ => e
        let s := if want = 0 then s else leaves.foldl (fun s f => s.writeEntry f.2 (change f.1.entry)) s
        let s := s.shoot r.asid r.va stop
        .next { s with pages := { s.pages with
          cmd := some { k with waitFor := s.accepted r.asid r.va stop, chunks := s.chunksOf r.asid } } }

/-- PG_CMD, OP 0. -/
def execPgCmdShootdown (rec : BitVec 64) (s : State) : Out := pageCommand 0 rec s

/-- PG_CMD, OP 1. -/
def execPgCmdMigrate (rec : BitVec 64) (s : State) : Out := pageCommand 1 rec s

/-- PG_CMD, OP 2. -/
def execPgCmdUnmap (rec : BitVec 64) (s : State) : Out := pageCommand 2 rec s

/-- PG_CMD, OP 3. -/
def execPgCmdPin (rec : BitVec 64) (s : State) : Out := pageCommand 3 rec s

/-- PG_CMD, OP 4. -/
def execPgCmdUnpin (rec : BitVec 64) (s : State) : Out := pageCommand 4 rec s

/-- SHOOTDOWN_COMPLETE (R345): what was accepted under the old entries has gone. -/
def execShootdownComplete (s : State) : Out :=
  match s.pages.cmd with
  | none => .next s
  | some k =>
    if k.op = 1 || !s.drained k k.va (k.va + 65536 * k.pages) then .next s
    else .next (s.pageDone (BitVec.ofNat 64 k.recAddr) 0)

/-- MIGRATION_COPY (R346): the page that moves is copied once it is drained, its new leaf is written, and the next page's
move begins. -/
def execMigrationCopy (s : State) : Out :=
  match s.pages.cmd with
  | none => .next s
  | some k =>
    match k.op, k.todo with
    | 1, (va, at_) :: rest =>
      let e := s.natAt at_ 8
      match (s.walk 7 k.asid va).1 with
      | .leaf f _ =>
        if !s.drained k va (va + f.bytes) then .next s
        else
          let s := s.drainPage (leafFlat e) f.bytes
          if s.pageBusy (leafFlat e) f.bytes then .next s
          else
            let new := movedLeaf e k.target f.bytes (va - k.va)
            let s := s.evictPage (leafSail e) (leafFlat e) f.bytes
            let s := (s.copyRange (leafFlat e) (leafFlat new) f.bytes).moveResults { f with entry := e } { f with entry := new }
            let s := (s.writeEntry at_ new).shoot k.asid va (va + f.bytes)
            let k := { k with todo := rest }
            if rest = [] then .next (s.pageDone (BitVec.ofNat 64 k.recAddr) 0)
            else .next ({ s with pages := { s.pages with cmd := some k } }.beginMove k)
      | _ => .next (s.pageDone (BitVec.ofNat 64 k.recAddr) 2)
    | _, _ => .next s

end Sys2Proof.Machine
end

