-- ==== Sys2Proof/Machine/LinkEvents.lean ====
section
/-! DEFINITION. The device links and the host link (spec/14_fabric_engine.md R383 to R390): flits, replay, training and
loss of a port, requests of peer modules, and invalidations of host translations. -/
namespace Sys2Proof.Machine

def State.port (s : State) (n : Nat) : Port := (s.fabric.ports[n]?).getD {}

def State.modPort (s : State) (n : Nat) (f : Port → Port) : State :=
  { s with fabric := { s.fabric with ports := modAt s.fabric.ports n f } }

/-- Device-link payload of no partition's job is counted for none; replays are events of partition 0 (log entry 26). -/
def State.linkReplay (s : State) : State := (s.partEvent 0 0x51).tally 0 58 1

/-- Adds to a saturating count of 32 bits. -/
def satAdd32 (x : BitVec 32) (n : Nat) : BitVec 32 := BitVec.ofNat 32 (Nat.min (x.toNat + n) (2 ^ 32 - 1))

/-- Sends every unacknowledged flit again, in order; after eight sendings without progress the port trains again
(R385). -/
def State.resendFlits (s : State) (n : Nat) : State :=
  (s.modPort n fun p =>
    { p with replays := satAdd32 p.replays p.replayBuf.length, since := s.now, stuck := p.stuck + 1
             retraining := p.retraining || decide (8 ≤ p.stuck + 1) }).linkReplay

/-- Drops the flits that an acknowledgement covers: those up to its sequence number. -/
def Port.acked (p : Port) (ack : BitVec 12) (now : Nat) : Port :=
  if p.replayBuf.any fun f => f.seq == ack then
    { p with replayBuf := (p.replayBuf.dropWhile fun f => f.seq != ack).drop 1, ackSeq := ack, since := now, stuck := 0 }
  else p

/-- The port that the route table gives for a device, when it can be used (R386, R388). -/
def State.routePort (s : State) (dev : Nat) : Option Nat :=
  let b := (s.byteAt (flatHost (s.fabric.route.toNat + dev % 4096))).toNat % 16
  if b < 12 ∧ (s.port b).up then some b else none

/-- The port's replay buffer is full (R385). -/
def Port.full (p : Port) : Bool := decide (1024 ≤ p.replayBuf.length)

/-- Sends a flit through a port, with the port's next sequence number. -/
def State.sendFlit (s : State) (n : Nat) (f : Flit) : State :=
  s.modPort n fun p => { p with
    replayBuf := p.replayBuf ++ [{ f with seq := p.sendSeq, ackSeq := p.expect - 1, nak := p.nakDue }]
    since := if p.replayBuf = [] then s.now else p.since
    sendSeq := p.sendSeq + 1, nakDue := false }

/-- A flit accepted in order: a stale one is dropped; one for another device leaves through the port of its route, on
class 1 behind a dateline; one for this module is delivered (its packets are the rows of the opcode table). -/
def State.acceptFlit (s : State) (p : Port) (f : Flit) : State :=
  if f.inc ≠ p.nbrInc then s.countStale
  else if f.dst = s.fabric.devid then s
  else
    match s.routePort f.dst.toNat with
    | none => s
    | some n => s.sendFlit n { f with cls := f.cls || p.dateline }

/-- FLIT_RECEIVE (R384 to R386). -/
def execFlitReceive (port : Nat) (crcGood : Bool) (f : Flit) (s : State) : Out :=
  if !(s.port port).up then .next s
  else if !crcGood then .next (s.modPort port fun p => { p with nakDue := true })
  else
    let s := s.modPort port fun p => p.acked f.ackSeq s.now
    let s := if f.nak && (s.port port).replayBuf != [] then s.resendFlits port else s
    let p := s.port port
    let blocked := f.dst != s.fabric.devid && f.inc == p.nbrInc &&
      (match s.routePort f.dst.toNat with
        | some n => (s.port n).full
        | none => false)
    if f.seq ≠ p.expect ∨ blocked then .next s
    else .next ((s.modPort port fun p => { p with expect := p.expect + 1 }).acceptFlit p f)

/-- REPLAY_TIMEOUT (R385): ACKSEQ has not advanced for 2 µs while flits wait. -/
def execReplayTimeout (port : Nat) (s : State) : Out :=
  let p := s.port port
  if !p.up || p.replayBuf == [] || s.since p.since < 2000 then .next s else .next (s.resendFlits port)

/-- PORT_TRAINING (R383, R386): an enabled port trains with its neighbour, whose device id and incarnation it learns. A
port that trains again keeps its flits. -/
def execPortTraining (port : Nat) (nbr : BitVec 12) (inc : BitVec 8) (s : State) : Out :=
  let p := s.port port
  if 12 ≤ port || !p.en then .next s
  else
    .next (s.modPort port fun p =>
      let p := if p.up then p else { p with sendSeq := 0, ackSeq := 0, replayBuf := [], expect := 0 }
      { p with up := true, nbr := nbr, nbrInc := inc, retraining := false, stuck := 0, since := s.now })

/-- A request to a peer through a port still awaits its answer. -/
def State.routedBy (s : State) (port : Nat) (a : Acc) : Bool :=
  !a.isLocal && a.lanes.any fun l => l.loc == 3 && (l.pending || l.stage == .applied || l.stage == .lost) &&
    (s.byteAt (flatHost (s.fabric.route.toNat + (flatTag l.pa - 8)))).toNat % 16 == port

/-- A peer's page is reached through a port. -/
def State.pagesBy (s : State) (port : Nat) (f : Leaf) : Bool :=
  entryLoc f.entry == 3 && (s.byteAt (flatHost (s.fabric.route.toNat + (flatTag (f.flat f.base) - 8)))).toNat % 16 == port

/-- The jobs with an access or a copy chunk in flight that a port carries. -/
def State.routedJobs (s : State) (port : Nat) : List Nat :=
  let copies (t : Team) : Bool := (t.copy.ldq.cmds ++ t.copy.stq.cmds).any fun m =>
    m.flying.any fun ch => ch.pages.any fun f => s.pagesBy port f
  (((s.flights.filter fun a => s.routedBy port a).map Acc.asid) ++
    (s.cores.filterMap Core.team).filterMap fun t => if copies t then some t.asid else none).eraseDups

/-- PORT_DOWN (R388): the port is down, its flits are discarded, and every job with a request routed through it ends with
LINK_DOWN. -/
def execPortDown (port : Nat) (s : State) : Out :=
  if !(s.port port).up then .next s
  else
    let jobs := s.routedJobs port
    let s := s.modPort port fun p =>
      { p with up := false, down := true, replayBuf := [], retraining := false, nakDue := false, stuck := 0 }
    .next (jobs.foldl (fun s a => s.jobFault a 0x52) s)

/-! ### Requests of peer modules (R387) -/

/-- The flat address a peer address names (log entry 28). -/
def State.peerFlat (s : State) (addr : Nat) : Nat :=
  let n := Config.peerPage (addr / 65536)
  let d := n % 7
  let size := if d < 6 then s.hbmBytes d else s.ddrBytes
  (if d < 6 then flatHbm d 0 else flatDdr 0) + n / 7 % Nat.max 1 (size / 65536) * 65536 + addr % 65536

/-- The sail that serves a peer's request: one that holds the line at its home, otherwise sail 0 (log entry 28). -/
def State.peerRoute (s : State) (flat : Nat) : Route :=
  let loc := locOf flat
  let home (x : Sail) : Nat := x.homeOf loc (flatTag flat)
  let holds (x : Sail) : Bool := x.cluster.isNone && (match x.part? (home x) with
    | some p => (p.find? (flat / x.lineBytes)).isSome
    | none => false)
  let x := (s.sails.find? holds).getD sailZero
  { core := ⟨home x, 255⟩, sail := x.id, loc := loc, home := home x }

/-- Pieces of bytes that stay in one 64-byte block. -/
def piecesOf : Nat → Nat → List Byte → List (Nat × List Byte)
  | 0, _, _ => []
  | fuel + 1, a, bs =>
    if bs = [] then []
    else
      let k := 64 - a % 64
      (a, bs.take k) :: piecesOf fuel (a + k) (bs.drop k)

/-- Writes a peer's bytes at their homes, as R375 says on replicated pages. -/
def State.peerWrite (s : State) (addr : Nat) (bs : List Byte) (bad : Bool) : State :=
  (piecesOf (bs.length / 64 + 2) addr bs).foldl (fun s p =>
    let flat := s.peerFlat p.1
    let r := s.peerRoute flat
    if s.isReplicated r.sail then s.spawnWriteBack r flat p.2 false bad else s.homeWrite r flat p.2 bad) s

/-- The peer access list allows a request (R387); a free notice names no address. -/
def State.peerAllows (s : State) (dev : Nat) (op : PeerOp) : Bool :=
  let b := s.byteAt (flatHost (s.fabric.pacl.toNat + dev % 4096))
  match op with
  | .read _ => b.getLsbD 0
  | .write .. => b.getLsbD 1
  | .atomic opc .. => if 0xA4 ≤ opc then b.getLsbD 1 else b.getLsbD 2
  | .notice .. => true

/-- What the step of a peer's atomic does at the home: the value it writes, poisoned when the bytes it read are (R34, R255);
on a replicated page a HOLD round opens at once (R249). -/
def State.peerApply (s : State) (r : Route) (flat size : Nat) (bad : Bool) : Option Nat → State
  | none => s
  | some v =>
    if s.isReplicated r.sail then
      let s := s.spawnWriteBack r flat (toBytes size v) false bad .round
      match s.flights.getLast? with
      | some a => a.lanes.foldl (fun s l => s.openRound a l) s
      | none => s
    else s.homeWrite r flat (toBytes size v) bad

/-- PEER_REQUEST (R387): a request that the peer access list allows is served at the home sail; another is answered with
an error and changes nothing. An atomic is applied once for its requester and tag, and waits while the result store is full
or its line has an open round (R251, R252). -/
def execPeerRequest (dev : BitVec 12) (addr64 : BitVec 64) (op : PeerOp) (s : State) : Out :=
  let addr := addr64.toNat
  if !s.peerAllows dev.toNat op then .next s
  else
    match op with
    | .read size => .next ((piecesOf (size / 64 + 2) addr (List.replicate size 0)).foldl (fun s p =>
        let flat := s.peerFlat p.1
        (s.homeRead (s.peerRoute flat) flat p.2.length).1.tally 0 56 (payloadBlocks p.1 p.2.length)) s)
    | .write bytes bad => .next (s.peerWrite addr bytes bad)
    | .notice inc ref floor => .next { s with results := s.results.filter fun e =>
        !(e.dev == dev.toNat && e.ref == ref && e.inc == inc && floorBeyond floor e.tag) }
    | .atomic opc ty sel sx args inc ref lane tag floor =>
      let flat := s.peerFlat addr
      let r := s.peerRoute flat
      let size := if opc = 0xA1 then 16 else tyBytes ty
      let u := (3, s.bankOf (.sys r.sail) r.home flat, 64)
      let w := (dev.toNat, ref, inc, lane)
      let s := s.freeBelow u w floor
      if (s.resultFor w tag).isSome then .next s
      else if !s.storeHasRoom u || s.lineBusy r flat then
        .next { s with fabric := { s.fabric with waiting := s.fabric.waiting ++ [(dev, addr64, op)] } }
      else
        let q := s.homeRead r flat size
        let bad := s.anyPoison flat size
        let s := q.1.peerApply r flat size bad (atomicNew opc sel ty sx (ofBytes q.2) args)
        .next (s.keepResult u flat w tag q.2)

/-- A peer's atomic that waits at its place is tried again. -/
def retryPeer (s : State) : Out :=
  match s.fabric.waiting with
  | [] => .next s
  | p :: rest => execPeerRequest p.1 p.2.1 p.2.2 { s with fabric := { s.fabric with waiting := rest } }

/-! ### Host translations (R390) -/

/-- ATS_INVALIDATION (R390): it completes once every access that used an old translation has bound or performed; the
translations of the range are then forgotten. -/
def execAtsInvalidation (addr size : Nat) (s : State) : Out :=
  let inRange (p : Nat × Nat) : Bool := decide (4096 * p.1 < addr + size) && decide (addr < 4096 * p.1 + 4096)
  let old := s.fabric.atsCache.filter inRange
  let uses (l : AccLane) : Bool := l.loc == 2 && l.pending && old.any fun p => flatHost (4096 * p.2) / 4096 == l.pa / 4096
  if s.flights.any fun a => !a.isLocal && a.lanes.any uses then .next s
  else .next { s with fabric := { s.fabric with
    atsCache := s.fabric.atsCache.filter fun p => !inRange p, atsGen := s.fabric.atsGen + 1 } }

end Sys2Proof.Machine
end

