-- ==== Sys2Proof/Machine/MatrixEvents.lean ====
section
/-! DEFINITION. How the matrix engine works: operands and scales, checks, steps and sums, tile moves, heads of MXQ, stops and
completion (spec/11_matrix_engine.md R301 to R333; spec/06_float_engine.md R205). -/
namespace Sys2Proof.Machine

/-! ### Tiles (R301) -/

/-- The flat address of an element of a physical tile. -/
def tileAt (c : CoreRef) (p m n : Nat) : Nat := flatTile c (4 * ((128 * p + m) * 128 + n))

def State.tileGet (s : State) (c : CoreRef) (p m n : Nat) : Nat × Bool :=
  (s.natAt (tileAt c p m n) 4, s.poisoned (tileAt c p m n))

def State.tileSet (s : State) (c : CoreRef) (p m n x : Nat) (bad : Bool) : State :=
  s.writeBytes (tileAt c p m n) (toBytes 4 x) bad

/-- The physical tile that a command's index names (R301, R321). -/
def MatrixEngine.physical (e : MatrixEngine) (k : MxCmd) (t : Nat) : Nat := (e.map[(k.ren.lookup t).getD t]?).getD 0

/-- Rows and columns of a tile, in order. -/
def tileCells : List (Nat × Nat) := (List.range 16384).map fun i => (i / 128, i % 128)

/-! ### Operands (R305, R306) -/

/-- An operand as a command sees it: its layout, scale base, the format word that describes it, and an offset. -/
structure Operand where
  lay : Layout
  sb : Nat
  fw : Nat
  off : Int := 0

def Layout.e (l : Layout) (k : Nat) : Nat := (l.ext[k]?).getD 1
def Layout.s (l : Layout) (k : Nat) : Int := (l.str[k]?).getD 0
/-- Columns and rows that a slot spans. -/
def Layout.cols (l : Layout) : Nat := l.e 0 * l.e 2
def Layout.rows (l : Layout) : Nat := l.e 1 * l.e 3

def Operand.width (o : Operand) : Nat := elemBits o.lay.ty o.fw
/-- SCALE of the operand, 0 when it is not narrow. -/
def Operand.mode (o : Operand) : Nat := if o.lay.ty = tNf then Fp.scaleOf o.fw else 0
def Operand.block (o : Operand) : Nat := Nat.max 1 (blockSize o.fw)

/-- The element offset of row `r`, column `c`. -/
def Operand.elem (o : Operand) (r c : Nat) : Int :=
  (c % o.lay.e 0 : Nat) * o.lay.s 0 + (r % o.lay.e 1 : Nat) * o.lay.s 1 + (c / o.lay.e 0 : Nat) * o.lay.s 2
    + (r / o.lay.e 1 : Nat) * o.lay.s 3 + o.off

/-- The bit address of an element. -/
def Operand.bit (o : Operand) (r c : Nat) : Nat := (8 * (o.lay.base : Int) + (o.width : Int) * o.elem r c).toNat

/-- The address of an element's scale byte. -/
def Operand.scaleByte (o : Operand) (r c : Nat) : Nat := ((o.sb : Int) + o.elem r c / (o.block : Int)).toNat

/-- Bits `[b, b + w)` of a core's own local memory, and whether a byte they touch is poisoned. -/
def State.localBits (s : State) (c : CoreRef) (b w : Nat) : Nat × Bool :=
  let a := s.flatLocal c (b / 8)
  let n := (b % 8 + w + 7) / 8
  (s.natAt a n / 2 ^ (b % 8) % 2 ^ w, s.anyPoison a n)

/-- An element's code and poison. -/
def State.operandAt (s : State) (c : CoreRef) (o : Operand) (r k : Nat) : Nat × Bool := s.localBits c (o.bit r k) o.width

/-- An element's scale code and poison. -/
def State.scaleOfElem (s : State) (c : CoreRef) (o : Operand) (r k : Nat) : Nat × Bool :=
  if o.mode = 0 then (0, false) else s.localBits c (8 * o.scaleByte r k) 8

/-! ### Bank conflicts (R328) -/

/-- Cycles a strip loses, with the first of the banks that hold most of its words. -/
def stripLoss (words : List Nat) : Nat × Nat :=
  let ws := words.eraseDups
  let count (b : Nat) : Nat := (ws.filter fun w => w % 32 == b).length
  let most := ((List.range 32).map count).foldl Nat.max 0
  (((List.range 32).find? fun b => count b == most).getD 0, most - (ws.length + 31) / 32)

/-- Cycles an operand's strips lose, by bank: 16 rows by 16 columns each. -/
def Operand.lost (o : Operand) : List (Nat × Nat) :=
  let words (r k : Nat) : List Nat :=
    let b := o.bit r k
    (List.range ((b + o.width - 1) / 32 + 1 - b / 32)).map fun j => b / 32 + j
  let strip (i j : Nat) : List Nat :=
    ((List.range 16).map fun r => ((List.range 16).map fun k =>
      if 16 * i + r < o.lay.rows ∧ 16 * j + k < o.lay.cols then words (16 * i + r) (16 * j + k) else []).flatten).flatten
  (((List.range ((o.lay.rows + 15) / 16)).map fun i =>
    (List.range ((o.lay.cols + 15) / 16)).map fun j => stripLoss (strip i j)).flatten).filter fun x => x.2 != 0

/-- Cycles an operand's strips lose. -/
def Operand.loss (o : Operand) : Nat := (o.lost.map Prod.snd).foldl (· + ·) 0

/-! ### A step (R205, R315) -/

/-- Exceptions that a sum's inputs raise: a signalling NaN, an infinity times a zero. -/
def inputFlags (ps : List (Fp.FVal × Fp.FVal)) : Fp.Flags :=
  if ps.any fun p => p.1.isSnan || p.2.isSnan || (p.1.isInf && p.2.isZero) || (p.1.isZero && p.2.isInf) then Fp.fInv else 0

/-- The exact scaled sum of a group; a NaN when an input is one, or when opposite infinities meet. A zero sum is −0 only when
every product is. -/
def groupSum (ps : List (Fp.FVal × Fp.FVal)) (sa sb : Fp.FVal) : Fp.FVal × Fp.Flags :=
  let xs := ps.map fun p => timesExact p.1 p.2
  if xs.any Fp.FVal.isNan then (canonNan, 0)
  else match Fp.sumExact 1 xs with
    | none => (canonNan, Fp.fInv)
    | some x =>
      let y := timesExact (timesExact x sa) sb
      let y := if y.isZero then (if x.isZero then x else .fin false 0 0) else y
      (y, if y.isNan && !sa.isNan && !sb.isNan then Fp.fInv else 0)

/-- acc := round(acc + s, rn). -/
def accumulate (acc : Nat) (x : Fp.FVal) : Nat × Fp.Flags :=
  let a := Fp.f32.decode acc
  if a.isNan || x.isNan then (Fp.f32.nanCode, 0)
  else match Fp.sumExact 1 [a, x] with
    | none => (Fp.f32.nanCode, Fp.fInv)
    | some y => Fp.deliver Fp.f32 atomicEnv 0 y

/-- One element of a tile: the groups of 16 in ascending order. -/
def State.stepElem (s : State) (c : CoreRef) (a b : Operand) (m n : Nat) (old : Nat × Bool) : Nat × Bool × Fp.Flags :=
  (List.range ((a.lay.cols + 15) / 16)).foldl (fun acc g =>
    let ks := (List.range 16).filterMap fun j => if 16 * g + j < a.lay.cols then some (16 * g + j) else none
    let av := ks.map fun k => s.operandAt c a m k
    let bv := ks.map fun k => s.operandAt c b n k
    let sa := s.scaleOfElem c a m (16 * g)
    let sb := s.scaleOfElem c b n (16 * g)
    let ps := (av.zip bv).map fun p => (elemValue a.lay.ty a.fw p.1.1, elemValue b.lay.ty b.fw p.2.1)
    let x := groupSum ps (scaleValue a.mode sa.1) (scaleValue b.mode sb.1)
    let r := accumulate acc.1 x.1
    (r.1, acc.2.1 || sa.2 || sb.2 || (av ++ bv).any Prod.snd, acc.2.2 ||| inputFlags ps ||| x.2 ||| r.2)) (old.1, old.2, 0)

/-- Sets the sticky bits of mx.stat. -/
def State.mxSticky (s : State) (c : CoreRef) (fl : Fp.Flags) (bad : Bool) : State :=
  s.modTeam c fun t => { t with matrix := { t.matrix with exc := t.matrix.exc ||| fl, psn := t.matrix.psn || bad } }

/-- A step into a physical tile. -/
def State.mxStep (s : State) (c : CoreRef) (p : Nat) (a b : Operand) : State :=
  let cells := tileCells.filter fun x => decide (x.1 < a.lay.rows) && decide (x.2 < b.lay.rows)
  cells.foldl (fun s x =>
    let old := s.tileGet c p x.1 x.2
    let r := s.stepElem c a b x.1 x.2 (old.1, false)
    (s.tileSet c p x.1 x.2 r.1 (old.2 || r.2.1)).mxSticky c r.2.2 r.2.1) s

/-! ### Tile moves (R317, R318) -/

/-- mx.load. -/
def State.mxLoad (s : State) (c : CoreRef) (p : Nat) (o : Operand) : State :=
  let cells := tileCells.filter fun x => decide (x.1 < o.lay.rows) && decide (x.2 < o.lay.cols)
  cells.foldl (fun s x =>
    let e := s.operandAt c o x.1 x.2
    let sc := s.scaleOfElem c o x.1 x.2
    let v := elemValue o.lay.ty o.fw e.1
    let y := scaledValue o.mode sc.1 v
    let r := if y.isNan then (Fp.f32.nanCode, if v.isSnan then Fp.fInv else 0) else toFloat Fp.f32 1 false 0 y
    (s.tileSet c p x.1 x.2 r.1 (e.2 || sc.2)).mxSticky c r.2 (e.2 || sc.2)) s

/-- The elements that a slot spans in element order, i0 fastest: rows and columns. -/
def Layout.cells (l : Layout) : List (Nat × Nat) :=
  (List.range (l.e 0 * l.e 1 * l.e 2 * l.e 3)).map fun i =>
    (i / l.e 0 % l.e 1 + l.e 1 * (i / (l.e 0 * l.e 1 * l.e 2)), i % l.e 0 + l.e 0 * (i / (l.e 0 * l.e 1) % l.e 2))

/-- A bit field written to memory: bit address within local memory, width, code, poison. -/
abbrev BitField := Nat × Nat × Nat × Bool

/-- Writes bit fields to own local memory: a granule whose every bit is written becomes clean, or poisoned when a field is;
one written in part keeps its poison, or takes it (R34). -/
def State.writeFields (s : State) (c : CoreRef) (fs : List BitField) : State :=
  let s := fs.foldl (fun s f =>
    let a := s.flatLocal c (f.1 / 8)
    let n := (f.1 % 8 + f.2.1 + 7) / 8
    let old := s.natAt a n
    let b := f.1 % 8
    s.rawWrite a (toBytes n (old % 2 ^ b + 2 ^ b * (f.2.2.1 % 2 ^ f.2.1) + old / 2 ^ (b + f.2.1) * 2 ^ (b + f.2.1)))) s
  let touched := ((fs.map fun f => [f.1 / 64, (f.1 + f.2.1 - 1) / 64]).flatten).eraseDups
  touched.foldl (fun s g =>
    let mine := fs.filter fun f => decide (f.1 < 64 * g + 64) && decide (64 * g < f.1 + f.2.1)
    let full := (List.range 64).all fun b => mine.any fun f => decide (f.1 ≤ 64 * g + b) && decide (64 * g + b < f.1 + f.2.1)
    let a := s.flatLocal c (8 * g)
    if mine.any fun f => f.2.2.2 then { s with poison := setInsert a s.poison }
    else if full then { s with poison := setRemove a s.poison } else s) s

/-- mx.store, and the write-back of a nest: rounding mode and saturation are the command's. -/
def State.mxStore (s : State) (c : CoreRef) (p : Nat) (o : Operand) (rm : Nat) (sat : Bool) : State :=
  let cells := o.lay.cells
  let got := cells.map fun x => (x, s.tileGet c p x.1 x.2)
  let bad := got.any fun x => x.2.2
  if o.lay.ty = tF32 then
    (s.writeFields c (got.map fun x => (o.bit x.1.1 x.1.2, 32, x.2.1, x.2.2))).mxSticky c 0 bad
  else
    let n := o.block
    let vals : List Elem := got.map fun x => { value := Fp.f32.decode x.2.1, code := x.2.1, bad := x.2.2 }
    let scales := if o.mode = 0 then [] else scalesOf o.fw n vals
    let sat := sat || (o.lay.ty == tNf && (o.fw / 2 ^ 20 % 2 == 1 || Fp.field o.fw 17 16 == 2))
    let g := ((s.team? c).map fun t => t.matrix.rng.toNat).getD 0
    let r := convertAll (rm == 6) (fun j u e =>
      toElem o.lay.ty o.fw rm sat u (if o.mode = 0 then e.value else descaled ((scales[j / n]?).getD 127) e.value)) 0 g vals
    let fields := (got.zip r.1).map fun x => (o.bit x.1.1.1 x.1.1.2, o.width, x.2, x.1.2.2)
    let bytes := scales.zipIdx.map fun x =>
      let q := (cells[x.2 * n]?).getD (0, 0)
      (8 * o.scaleByte q.1 q.2, 8, x.1, false)
    let s := (s.writeFields c (fields ++ bytes)).mxSticky c r.2 bad
    s.modTeam c fun t => { t with matrix := { t.matrix with
      rng := if rm = 6 then BitVec.ofNat 32 (rngAfter vals.length g) else t.matrix.rng } }

/-- Sets every element of a physical tile. -/
def State.tileMap (s : State) (c : CoreRef) (p : Nat) (f : Nat → Nat → Nat × Bool) : State :=
  tileCells.foldl (fun s x => let v := f x.1 x.2; s.tileSet c p x.1 x.2 v.1 v.2) s

def State.tileZero (s : State) (c : CoreRef) (p : Nat) : State := s.tileMap c p fun _ _ => (0, false)
def State.tileCopy (s : State) (c : CoreRef) (d p : Nat) : State := s.tileMap c d fun m n => s.tileGet c p m n
def State.tileAdd (s : State) (c : CoreRef) (d p : Nat) : State :=
  s.tileMap c d fun m n =>
    let x := s.tileGet c d m n
    let y := s.tileGet c p m n
    (roundSum Fp.f32 [Fp.f32.decode x.1, Fp.f32.decode y.1], x.2 || y.2)

/-! ### Command words and nests (R308, R316) -/

def cfgTile (cfg : BitVec 32) : Nat := (cfg.extractLsb' 0 4).toNat
def cfgA (cfg : BitVec 32) : Nat := (cfg.extractLsb' 4 3).toNat
def cfgB (cfg : BitVec 32) : Nat := (cfg.extractLsb' 7 3).toNat
def cfgC (cfg : BitVec 32) : Nat := (cfg.extractLsb' 10 3).toNat
def cfgDepth (cfg : BitVec 32) : Nat := (cfg.extractLsb' 13 3).toNat

/-- The levels a nest runs. -/
def levelsOf (cfg : BitVec 32) (nest : List NestLevel) : List NestLevel := nest.take (cfgDepth cfg)

/-- The index vector of step `i`. -/
def indexVector : List NestLevel → Nat → List Nat
  | [], _ => []
  | l :: ls, i => i % Nat.max 1 l.ext :: indexVector ls (i / Nat.max 1 l.ext)

/-- Steps of a nest. -/
def stepsOf (ls : List NestLevel) : Nat := ls.foldl (fun n l => n * l.ext) 1

/-- Σ idx[j] × f(level j). -/
def dotLevels (f : NestLevel → Int) (ls : List NestLevel) (idx : List Nat) : Int :=
  (ls.zip idx).foldl (fun a p => a + f p.1 * p.2) 0

/-- The least and the greatest value of an affine sum: terms of a coefficient and an extent. -/
def affineRange (base : Int) (terms : List (Int × Nat)) : Int × Int :=
  terms.foldl (fun r t =>
    let d := t.1 * ((t.2 : Int) - 1)
    (r.1 + min 0 d, r.2 + max 0 d)) (base, base)

/-! ### Checks (R313) -/

/-- An operand's slot: its layout with its scale base. -/
def layoutAt (slots : List LayoutSlot) (k : Nat) : Option (Layout × Nat) :=
  (slots[k]?).bind fun x => x.layout.map fun l => (l, x.scaleBase)

/-- Every element of an operand that the steps touch lies in local memory and is aligned; `deltas` are the nest's, and a level
of extent 0 has no step. A scale byte is held to the same bounds. -/
def Operand.inBounds (o : Operand) (locBytes : Nat) (deltas : List (Int × Nat)) : Bool :=
  let terms := ((List.range 4).map fun k => (o.lay.s k, o.lay.e k)) ++ deltas
  let w : Int := o.width
  let r := affineRange o.off terms
  let first := 8 * (o.lay.base : Int) + w * r.1
  let last := 8 * (o.lay.base : Int) + w * r.2 + w
  let b : Int := o.block
  deltas.any (fun d => d.2 == 0) || decide (0 ≤ first) && decide (last ≤ 8 * (locBytes : Int)) &&
    (o.lay.ty != tNf || o.width == 0 || 8 * o.lay.base % o.width == 0) &&
    (o.mode == 0 || (decide (0 ≤ (o.sb : Int) + r.1 / b) && decide ((o.sb : Int) + r.2 / b < locBytes)))

/-- The limits of R306 for a scaled operand. -/
def Operand.scaleLimits (o : Operand) (deltas : List (Int × Nat)) : Bool :=
  o.mode == 0 ||
    (let b := o.block
     o.lay.s 0 == 1 && o.lay.e 0 % 16 == 0 && o.lay.e 0 % b == 0 && [1, 2, 3].all (fun k => o.lay.s k % (b : Int) == 0)
       && deltas.all (fun d => d.1 % (b : Int) == 0) && o.lay.base * 8 / Nat.max 1 o.width % b == 0)

def Operand.wordOk (o : Operand) (tile : Bool) : Bool :=
  o.lay.ty != tNf || ((Fp.narrowFmt o.fw).isSome && !(tile && Fp.scaleOf o.fw == 3))

/-- The operands a tile command names, with the deltas of the nest on each: A, B, and the tile layout. A write-back takes place
at the last index of every level that carries the last flag: `ends` is the offset there, and `others` the other levels. -/
structure Named where
  a : Option (Operand × List (Int × Nat)) := none
  b : Option (Operand × List (Int × Nat)) := none
  tile : Option (Operand × List (Int × Nat)) := none
  ends : Int := 0
  others : List (Int × Nat) := []

/-- The elements that the steps touch, for the bounds of R313. -/
def Named.touched (x : Named) : List (Operand × List (Int × Nat)) :=
  x.a.toList ++ x.b.toList ++ x.tile.toList.map fun t => ({ t.1 with off := x.ends }, x.others)

def Named.all (x : Named) : List (Operand × List (Int × Nat)) := x.a.toList ++ x.b.toList ++ x.tile.toList

/-- Some level within the depth carries the last flag. -/
def writesBack (cfg : BitVec 32) (nest : List NestLevel) : Bool := (levelsOf cfg nest).any NestLevel.last

/-- The operands of a command under what it latched; none when a slot it names is not valid. -/
def namedOf (op : MxOp) (l : MxLatch) (word : Nat) : Option Named :=
  let operand (k : Nat) (fw : Nat) : Option Operand := (layoutAt l.slots k).map fun x => { lay := x.1, sb := x.2, fw := fw }
  let bw := if l.fwb = 0 then word else l.fwb.toNat
  match op with
  | .mma cfg =>
    match operand (cfgA cfg) word, operand (cfgB cfg) bw with
    | some a, some b => some { a := some (a, []), b := some (b, []) }
    | _, _ => none
  | .go cfg .. =>
    let ls := levelsOf cfg l.nest
    let ds (f : NestLevel → Int) : List (Int × Nat) := ls.map fun v => (f v, v.ext)
    match operand (cfgA cfg) word, operand (cfgB cfg) bw with
    | some a, some b =>
      if writesBack cfg l.nest then
        (operand (cfgC cfg) word).map fun t =>
          { a := some (a, ds NestLevel.da), b := some (b, ds NestLevel.db), tile := some (t, ds NestLevel.dc)
            ends := ls.foldl (fun n v => if v.last then n + v.dc * ((v.ext : Int) - 1) else n) 0
            others := ls.filterMap fun v => if v.last && v.ext != 0 then none else some (v.dc, v.ext) }
      else some { a := some (a, ds NestLevel.da), b := some (b, ds NestLevel.db) }
    | _, _ => none
  | .load _ k | .store _ k .. => (operand k word).map fun t => { tile := some (t, []) }
  | .nest .. | .lay .. | .zero _ | .spec .. | .commit _ | .fwb _ | .sclay .. | .tcopy .. | .tadd .. => some {}

/-- The ERRC of the first check of Table 11.5 that fails, 0 when none does. -/
def checkCode (op : MxOp) (l : MxLatch) (word locBytes : Nat) : Nat :=
  match namedOf op l word with
  | none => 1
  | some x =>
    let ab : List Operand := (x.a.toList ++ x.b.toList).map Prod.fst
    let typesOk := (ab.all fun o => [tNf, tF16, tBf16].contains o.lay.ty)
      && (match x.a, x.b with
        | some a, some b => a.1.lay.ty == b.1.lay.ty
        | _, _ => true)
    let sizesOk := (ab.all fun o => decide (o.lay.rows ≤ 128))
      && (match x.a, x.b with
        | some a, some b => a.1.lay.cols == b.1.lay.cols
        | _, _ => true)
      && (x.tile.all fun o => decide (o.1.lay.rows ≤ 128) && decide (o.1.lay.cols ≤ 128))
    let nestOk := match op with
      | .go cfg .. =>
        let ls := levelsOf cfg l.nest
        let r := affineRange (cfgTile cfg) (ls.map fun v => (v.ts, v.ext))
        decide (1 ≤ cfgDepth cfg ∧ cfgDepth cfg ≤ 6) && ls.all (fun v => v.ext != 0) && decide (0 ≤ r.1 ∧ r.2 ≤ 11)
      | _ => true
    if !typesOk then 2
    else if !sizesOk then 3
    else if !((ab.all fun o => o.wordOk false) && (x.tile.all fun o => o.1.wordOk true)) then 4
    else if !(x.touched.all fun o => o.1.inBounds locBytes o.2) then 5
    else if !nestOk then 6
    else if !(x.all.all fun o => o.1.scaleLimits o.2) then 7
    else 0

/-! ### Timing (R327) -/

/-- Cycles of a step. -/
def stepCycles (isB : Bool) (a b : Operand) : Nat :=
  let w := Nat.max a.width b.width
  let k := a.lay.cols
  let per := if w ≤ 4 then (k + 1) / 2 else if w ≤ 8 then k else 2 * k
  per * (if isB then (a.lay.rows + 63) / 64 else 1)

/-- Adds lost cycles to the engine's conflict counter (R328), and to its row of the conflict matrix (R470). -/
def State.addConflicts (s : State) (c : CoreRef) (ls : List (Nat × Nat)) : State :=
  let n := (ls.map Prod.snd).foldl (· + ·) 0
  ((s.teamTally c 46 n).modTeam c fun t => { t with matrix := { t.matrix with
    conflicts := Nat.min (t.matrix.conflicts + n) (2 ^ 32 - 1) } }).lose c 4 ls

/-- The operands of step `i` of a command. -/
def stepOperands (op : MxOp) (l : MxLatch) (word i : Nat) : Option (Operand × Operand) :=
  match namedOf op l word with
  | some { a := some a, b := some b, .. } =>
    let shift (f : NestLevel → Int) (o : Operand) : Operand :=
      match op with
      | .go cfg .. =>
        let ls := levelsOf cfg l.nest
        { o with off := dotLevels f ls (indexVector ls i) }
      | _ => o
    some (shift NestLevel.da a.1, shift NestLevel.db b.1)
  | _ => none

/-- Steps of a command. -/
def MxOp.steps (op : MxOp) (l : MxLatch) : Nat :=
  match op with
  | .mma _ => 1
  | .go cfg .. => stepsOf (levelsOf cfg l.nest)
  | .nest .. | .lay .. | .zero _ | .load .. | .store .. | .spec .. | .commit _ | .fwb _ | .sclay .. | .tcopy .. | .tadd .. => 0

/-- The tile that step `i` of a nest is in, and whether it zeroes it before and writes it back after: at the ends of the levels
that carry a flag (R316). -/
def nestStep (cfg : BitVec 32) (l : MxLatch) (i : Nat) : Nat × Bool × Bool :=
  let ls := levelsOf cfg l.nest
  let pairs := ls.zip (indexVector ls i)
  (((cfgTile cfg : Int) + dotLevels NestLevel.ts ls (indexVector ls i)).toNat,
   (pairs.any fun x => x.1.first) && pairs.all (fun x => !x.1.first || x.2 == 0),
   (pairs.any fun x => x.1.last) && pairs.all fun x => !x.1.last || x.2 + 1 == x.1.ext)

/-- The tile layout that step `i` writes back through, at its offset there. -/
def writeBackAt (op : MxOp) (l : MxLatch) (word i : Nat) : Option Operand :=
  match op, namedOf op l word with
  | .go cfg .., some { tile := some t, .. } =>
    let ls := levelsOf cfg l.nest
    if (nestStep cfg l i).2.2 then some { t.1 with off := dotLevels NestLevel.dc ls (indexVector ls i) } else none
  | _, _ => none

/-- Cycles until a command's next happening: step `i` with its conflicts and those of its write-back, or its whole effect. The
last step's writes land 40 cycles after it. -/
def cyclesFor (isB : Bool) (op : MxOp) (l : MxLatch) (word i : Nat) : Nat :=
  match op with
  | .mma _ | .go .. =>
    match stepOperands op l word i with
    | some (a, b) => stepCycles isB a b + a.loss + b.loss + ((writeBackAt op l word i).map Operand.loss).getD 0
        + (if i + 1 = op.steps l then 40 else 0)
    | none => 1
  | .load .. | .store .. =>
    (if isB then 256 else 128) + (match namedOf op l word with
      | some { tile := some t, .. } => t.1.loss
      | _ => 0)
  | .zero _ => 16
  | .spec _ ps => 128 * ps.length
  | .tcopy .. | .tadd .. => 128
  | .nest .. | .lay .. | .commit _ | .fwb _ | .sclay .. => 1

/-! ### Completion (R25, R314) -/

/-- Puts a command back into MXQ. -/
def State.setMx (s : State) (c : CoreRef) (k : MxCmd) : State :=
  s.modTeam c fun t => { t with matrix := { t.matrix with
    queue := t.matrix.queue.map fun o => if o.id = k.id then k else o } }

/-- Completes finished commands from the head of MXQ, in order, while their tokens have room. A command removed while it ran
publishes no link (R324). -/
def State.settleMatrix (s : State) (c : CoreRef) : Nat → State
  | 0 => s
  | n + 1 =>
    match s.team? c with
    | none => s
    | some t =>
      match t.matrix.queue with
      | [] => s
      | k :: rest =>
        let push := k.push && !k.dead
        if !k.finished || (push && 8 ≤ t.cs.count) then s
        else
          let ref := if k.dead then s.terminalRef c.die c.core 3 else s.queueRef c 3 k.link
          let s := (if k.op.isTile && !k.dead then s.teamTally c 43 1 else s).modTeam c fun t =>
            { t with matrix := { t.matrix with queue := rest }, cs := if push then t.cs.push (some ref) else t.cs }
          (s.modStream ⟨c.die, c.core, 32⟩ fun st => st.lower 5 k.id ref).settleMatrix c n

/-! ### Starting (R310 to R313, R321, R322) -/

/-- The tiles that a command writes, as it names them. -/
def MxOp.writes (op : MxOp) (nest : List NestLevel) : List Nat :=
  match op with
  | .mma cfg => [cfgTile cfg]
  | .go cfg .. =>
    let ls := levelsOf cfg nest
    ((List.range (stepsOf ls)).map fun i => ((cfgTile cfg : Int) + dotLevels NestLevel.ts ls (indexVector ls i)).toNat).eraseDups
  | .load t _ | .zero t | .tcopy t _ | .tadd t _ => [t]
  | .nest .. | .lay .. | .store .. | .spec .. | .commit _ | .fwb _ | .sclay .. => []

/-- A region command that waits for the end of its region (R322). -/
def MxCmd.regionWaits (k : MxCmd) (nest : List NestLevel) : Bool :=
  k.region.isSome &&
    ((match k.op with
      | .store .. => true
      | .go cfg .. => writesBack cfg nest
      | _ => false)
     || (k.op.writes nest).any fun t => !(k.ren.any fun p => p.1 == t || p.2 == t))

/-- What a setup command does. -/
def MatrixEngine.setup (e : MatrixEngine) (op : MxOp) : MatrixEngine :=
  match op with
  | .nest k l => { e with shadow := setAt e.shadow k l }
  | .lay k r => { e with slots := modAt e.slots k fun x => { x with layout := r } }
  | .fwb v => { e with fwb := v }
  | .sclay k sb => { e with slots := modAt e.slots k fun x => { x with scaleBase := sb.toNat % 2 ^ 24 } }
  | .go .. | .mma _ | .load .. | .store .. | .zero _ | .spec .. | .commit _ | .tcopy .. | .tadd .. => e

/-- FWQ_EMPTY (R23, R311, R333): the engine stops at the entry; the trap is due at the control stream's next boundary, or
is taken at once when that stream has ended. -/
def State.fwqEmpty (s : State) (c : CoreRef) (k : MxCmd) : State :=
  let s := s.modTeam c fun t => { t with matrix := { t.matrix with stopped := true } }
  let r : StreamRef := ⟨c.die, c.core, 32⟩
  match s.stream? r with
  | some st =>
    if st.finished then s.takeTrap r { stream := 32, code := 0x40, pos := k.pos, issued := some k.pos, value := k.id }
    else s.modStream r fun st => { st with due := st.due ++ [{ code := 0x40, path := 6, issued := k.pos, detail := k.id }] }
  | none => s

/-- The token a command pops, with its link (R326). -/
def State.popToken (s : State) (c : CoreRef) (t : Team) (k : MxCmd) : State × MxCmd :=
  if k.pop then
    let prod := (t.lc.links.head?).getD none
    let start := k.headAt.getD s.now
    let s := s.popTally c start prod
    let s := s.modTeam c fun t => { t with lc := t.lc.pop }
    let l := s.addLink c { kind := 0x06, detail := 0, stream := 63, weng := 3, pos := k.pos, start := start
                           slack := start - linkTime (prod.getD start), prod := prod }
    (l.1, { k with link := some l.2 })
  else (s, k)

/-- Starts a tile or plain command: word and token taken, slots latched, tables swapped, checks made. -/
def State.startMatrix (s : State) (c : CoreRef) (t : Team) (k : MxCmd) : State :=
  let e := t.matrix
  let word := if k.op.isTile then ((e.fwq.head?).getD 0).toNat else 0
  let q := s.popToken c t k
  let swap := match k.op with
    | .go .. => true
    | _ => false
  let nest := if swap then e.shadow else e.nest
  let latch : MxLatch := { slots := e.slots, fwb := e.fwb, nest := nest }
  let code := if k.op.isTile then checkCode k.op latch word (s.core c).split.locBytes else 0
  let isB := (s.die c.die).isB
  let cycles := if code = 0 then cyclesFor isB k.op latch word 0 else 1
  let s := q.1.modTeam c fun t =>
    let m := { t.matrix with
      fwq := if k.op.isTile then t.matrix.fwq.drop 1 else t.matrix.fwq
      nest := nest, shadow := if swap then e.nest else e.shadow, latch := some latch, busy := cycles }
    { t with matrix := if code = 0 then m else m.fail code }
  s.setMx c { q.2 with started := true, failed := code != 0, word := word, index := 0 }

/-- The engine stops at its next step boundary: the team is being saved, is trapped, or its job ends (R330, R331). -/
def State.mxHeld (s : State) (t : Team) : Bool :=
  t.saving || t.trapped.isSome || ((s.launch? t.launch).bind Launch.status).isSome

/-- MXQ_HEAD_START (R310): the head of MXQ executes, when it is a setup command, or starts; it waits for its release,
for a running command, for its region's end and for its token. A tile command that reaches the head and finds FWQ empty stops the
engine with FWQ_EMPTY before it waits for anything (R311). Nothing starts while the team is stopped (R100, R128, R131, R331). -/
def execMxqHeadStart (c : CoreRef) (s : State) : Out :=
  match s.team? c with
  | none => .next s
  | some t =>
    let e := t.matrix
    if e.stopped || s.mxHeld t || t.change.isSome then .next s
    else
      match e.queue.find? fun k => !k.started with
      | none => .next s
      | some k =>
        let k := { k with headAt := some (k.headAt.getD s.now) }
        let s := s.setMx c k
        if k.op.isTile && e.fwq == [] then .next (s.fwqEmpty c k)
        else if (k.release.bind fun id => s.acc? id).isSome then .next s
        else if k.op.isSetup then
          let s := s.modTeam c fun t => { t with matrix := t.matrix.setup k.op }
          .next ((s.setMx c { k with started := true, finished := true }).settleMatrix c e.queue.length)
        else if e.running.isSome || k.regionWaits e.shadow then .next s
        else if k.pop && !t.lc.ready then .next s
        else .next (s.startMatrix c t k)

/-! ### Working (R315 to R318, R330) -/

/-- One step of mx.mma or of a nest, with the zeroing before it and the write-back after it. -/
def State.runStep (s : State) (c : CoreRef) (e : MatrixEngine) (k : MxCmd) (l : MxLatch) : State :=
  match stepOperands k.op l k.word k.index with
  | none => s
  | some (a, b) =>
    let s := s.addConflicts c (a.lost ++ b.lost)
    match k.op with
    | .mma cfg => s.mxStep c (e.physical k (cfgTile cfg)) a b
    | .go cfg rm sat =>
      let x := nestStep cfg l k.index
      let p := e.physical k x.1
      let s := (if x.2.1 then s.tileZero c p else s).mxStep c p a b
      match writeBackAt k.op l k.word k.index with
      | some o => (s.addConflicts c o.lost).mxStore c p o rm sat
      | none => s
    | _ => s

/-- The effect of the other commands. -/
def State.runPlain (s : State) (c : CoreRef) (e : MatrixEngine) (k : MxCmd) (l : MxLatch) : State :=
  let tile := match namedOf k.op l k.word with
    | some { tile := some t, .. } => some t.1
    | _ => none
  match k.op with
  | .load t _ => match tile with
    | some o => (s.addConflicts c o.lost).mxLoad c (e.physical k t) o
    | none => s
  | .store t _ rm sat => match tile with
    | some o => (s.addConflicts c o.lost).mxStore c (e.physical k t) o rm sat
    | none => s
  | .zero t => s.tileZero c (e.physical k t)
  | .tcopy d p => s.tileCopy c (e.physical k d) (e.physical k p)
  | .tadd d p => s.tileAdd c (e.physical k d) (e.physical k p)
  | .spec _ ps => ps.foldl (fun s p => s.tileCopy c ((e.map[p.2]?).getD 0) ((e.map[p.1]?).getD 0)) s
  | .commit ps => s.modTeam c fun t => { t with matrix := { t.matrix with
      map := ps.foldl (fun m p => setAt (setAt m p.1 ((m[p.2]?).getD 0)) p.2 ((m[p.1]?).getD 0)) t.matrix.map } }
  | .go .. | .mma _ | .nest .. | .lay .. | .fwb _ | .sclay .. => s

/-- A command goes on to a step: it takes the step's cycles, unless the engine stops at the boundary before it. -/
def State.toStep (s : State) (c : CoreRef) (t : Team) (k : MxCmd) (l : MxLatch) (i : Nat) : State :=
  if s.mxHeld t then s.setMx c { k with index := i, paused := true }
  else
    let s := s.modTeam c fun t =>
      { t with matrix := { t.matrix with busy := cyclesFor (s.die c.die).isB k.op l k.word i } }
    s.setMx c { k with index := i, paused := false }

/-- The running command does its next step, or its effect, once its cycles have passed. A nest stops between steps while its
team is being saved or is held, and goes on with the step it stopped before (R330); a command whose region was dropped ends with
its step (R324). -/
def State.runMatrix (s : State) (c : CoreRef) (t : Team) (k : MxCmd) : State :=
  let e := t.matrix
  match e.latch with
  | none => s.setMx c { k with finished := true }
  | some l =>
    let steps := k.op.steps l
    if e.busy ≠ 0 then s
    else if k.failed then s.setMx c { k with finished := true }
    else if k.paused then (if k.dead then s.setMx c { k with finished := true } else s.toStep c t k l k.index)
    else if k.index < steps then
      let s := s.runStep c e k l
      if k.index + 1 < steps ∧ k.dead = false then s.toStep c t k l (k.index + 1)
      else s.setMx c { k with index := k.index + 1, finished := true }
    else (s.runPlain c e k l).setMx c { k with finished := true }

/-- MX_COMMAND_COMPLETE (R314): the running command goes on; finished commands complete in order. -/
def execMxCommandComplete (c : CoreRef) (s : State) : Out :=
  match s.team? c with
  | none => .next s
  | some t =>
    let s := match t.matrix.running with
      | some k => s.runMatrix c t k
      | none => s
    .next (s.settleMatrix c t.matrix.queue.length)

/-- HELD_COMPLETION_RELEASE (R25): completions of an engine queue that a full token FIFO held are delivered once it has
room. Queue 0 is LDQ, 1 STQ, 2 MXQ. -/
def execHeldCompletionRelease (c : CoreRef) (queue : Nat) (s : State) : Out :=
  if queue = 2 then
    .next (s.settleMatrix c (((s.team? c).map fun t => t.matrix.queue.length).getD 0))
  else .next (s.settleCopies c (queue % 2))

end Sys2Proof.Machine
end

