-- ==== Sys2Proof/Machine/SlotRecords.lean ====
section
/-! DEFINITION. The records of a save slot whose bytes the spec lays out: the mask stack of a stream and its flight record
(spec/15_issue_engine.md R401, R409, R411). -/
namespace Sys2Proof.Machine

/-! ### The mask stack (R401) -/

/-- A mask-stack entry (Table 15.5). -/
def MaskEntry.bytes (e : MaskEntry) : List Byte :=
  toBytes 4 e.mask.toNat ++ toBytes 3 e.pc ++ [if e.recon then 1 else 0]

def maskEntryOf (bs : List Byte) : MaskEntry :=
  { mask := BitVec.ofNat 32 (fieldAt bs 0 4), pc := fieldAt bs 4 3, recon := fieldAt bs 7 1 % 2 == 1 }

/-- The 80 bytes of a stream's mask stack, bottom entry first (R401). -/
def Stream.maskRecord (st : Stream) : List Byte :=
  let entries := st.stack.reverse.take 7
  toBytes 4 st.active.toNat ++ toBytes 4 st.ended.toNat ++ toBytes 1 entries.length ++ List.replicate 7 0
    ++ (entries.map MaskEntry.bytes).flatten ++ List.replicate (8 * (7 - entries.length) + 8) 0

/-- A stream takes its active mask, ended mask and stack from a record. -/
def Stream.fromMaskRecord (st : Stream) (bs : List Byte) : Stream :=
  { st with
    active := BitVec.ofNat 32 (fieldAt bs 0 4)
    ended := BitVec.ofNat 32 (fieldAt bs 4 4)
    stack := ((List.range (Nat.min 7 (fieldAt bs 8 1))).map fun k => maskEntryOf (bs.drop (16 + 8 * k))).reverse }

/-! ### The flight record (R409, R411) -/

/-- One bit per lane. -/
def bitsOfLanes (ls : List Word) : Nat :=
  ls.zipIdx.foldl (fun n x => if x.1.getLsbD 0 then n + 2 ^ x.2 else n) 0

/-- An entry of a flight record (Table 15.9). -/
def Landing.bytes (x : Landing) : List Byte :=
  let lanes := x.val.lanes ++ List.replicate (32 - x.val.lanes.length) 0
  let head (n kind : Nat) : List Byte :=
    toBytes 1 n ++ toBytes 1 kind ++ toBytes 1 x.left ++ toBytes 1 x.flags.toNat ++ toBytes 4 x.lanes.toNat
  match x.dst with
  | .pred n => head n 1 ++ toBytes 4 (bitsOfLanes lanes) ++ List.replicate 124 0
  | .reg n => head n 0 ++ (lanes.map fun (w : Word) => toBytes 4 w.toNat).flatten
  | .val .. | .spill _ => List.replicate 136 0

/-- The result an entry names; which instruction it belongs to is no part of it. -/
def landingOf (bs : List Byte) (ins : Nat) : Landing :=
  let pred := fieldAt bs 1 1 % 2 == 1
  let lane (k : Nat) : Word := if pred then BitVec.ofNat 64 (fieldAt bs 8 4 / 2 ^ k % 2) else BitVec.ofNat 64 (fieldAt bs (8 + 4 * k) 4)
  { dst := if pred then .pred (fieldAt bs 0 1) else .reg (fieldAt bs 0 1)
    lanes := BitVec.ofNat 32 (fieldAt bs 4 4)
    val := ⟨if pred then tI1 else tI32, (List.range 32).map lane⟩
    flags := BitVec.ofNat 5 (fieldAt bs 3 1), left := fieldAt bs 2 1, ins := ins }

/-- The fixed-latency results of a stream in flight: what a stop leaves in its flight record (R409). -/
def Stream.inFlight (st : Stream) : List Landing := (st.landings.filter fun x => !x.var).take 64

/-- A stream's flight record (R411): the header, with the remaining delay and the next bundle, and an entry for each result. -/
def Stream.flightRecord (st : Stream) : List Byte :=
  toBytes 2 st.inFlight.length ++ toBytes 1 st.delay ++ [0] ++ toBytes 4 st.bundle ++ List.replicate 8 0
    ++ (st.inFlight.map Landing.bytes).flatten

/-- A stream takes what is in flight, its delay and its next bundle from a record (R412). -/
def Stream.fromFlightRecord (st : Stream) (bs : List Byte) : Stream :=
  { st with
    landings := (st.landings.filter Landing.var) ++ (List.range (Nat.min 64 (fieldAt bs 0 2))).map fun k =>
      landingOf (bs.drop (16 + 136 * k)) (((st.inFlight[k]?).map Landing.ins).getD k)
    delay := fieldAt bs 2 1, bundle := fieldAt bs 4 4 }

/-! ### In the slot -/

/-- Where in a slot a stream's mask stack and flight record stand: log entry 12 (DESIGN CHOICE). -/
def maskRecordAt (slotAt i : Nat) : Nat := slotAt + 0x300000 + 80 * i
def flightRecordAt (slotAt i : Nat) : Nat := slotAt + 0x310000 + 8720 * i

/-- Writes the records of a team's native streams to the slot at a virtual address (R101, R401, R411). -/
def State.saveRecords (s : State) (asid slotAt : Nat) (t : Team) : State :=
  t.order.foldl (fun s i =>
    match t.stream? i with
    | some st =>
      if !st.native then s
      else (s.vwrite hubCore asid (maskRecordAt slotAt i) st.maskRecord).vwrite hubCore asid (flightRecordAt slotAt i) st.flightRecord
    | none => s) s

/-- A native stream takes its records from whatever the slot holds (R101); one whose page is not mapped stands as it was. -/
def State.loadRecord (s : State) (asid slotAt : Nat) (r : StreamRef) : State :=
  let s := match s.vread hubCore asid (maskRecordAt slotAt r.idx) 80 with
    | some (s, bs, _) => s.modStream r fun st => st.fromMaskRecord bs
    | none => s
  match s.vread hubCore asid (flightRecordAt slotAt r.idx) 8720 with
  | some (s, bs, _) => s.modStream r fun st => st.fromFlightRecord bs
  | none => s

/-- The native streams of a core's team take their records. -/
def State.loadRecords (s : State) (asid slotAt : Nat) (c : CoreRef) : State :=
  match s.team? c with
  | none => s
  | some t => t.order.foldl (fun s i =>
    match t.stream? i with
    | some st => if st.native then s.loadRecord asid slotAt ⟨c.die, c.core, i⟩ else s
    | none => s) s

end Sys2Proof.Machine
end

