-- ==== Sys2Proof/Machine/Placement.lean ====
section
/-! DEFINITION. Placing clusters (spec/03_launch_walker.md R84 to R90, R93, R102; spec/13_sail_engine.md R365). -/
namespace Sys2Proof.Machine

/-! ### Rectangles (R17, R87) -/

/-- The cores of a rectangle on the module's mesh, in the order of $teamid; the arguments are width, height, row and
column of the top-left core. -/
def meshRect (w h row col : Nat) : List CoreRef :=
  (List.range (w * h)).map fun p =>
    let r := row + p / w
    let c := col + p % w
    ⟨r / 10 * 3 + c / 16, r % 10 * 16 + c % 16⟩

/-- The first rectangle among anchors, row by row and column by column, whose cores pass a test by position. -/
def firstRect (w h : Nat) (rows cols : List Nat) (test : List CoreRef → Bool) : Option (List CoreRef) :=
  rows.findSome? fun r => cols.findSome? fun c =>
    let q := meshRect w h r c
    if test q then some q else none

/-- The first rectangle inside a die. -/
def rectOn (w h d : Nat) (test : List CoreRef → Bool) : Option (List CoreRef) :=
  firstRect w h ((List.range (11 - h)).map fun k => d / 3 * 10 + k) ((List.range (17 - w)).map fun k => d % 3 * 16 + k) test

/-- The adjacent pairs in the order of R12. -/
def diePairs : List (Nat × Nat) := [(0, 1), (1, 2), (3, 4), (4, 5), (0, 3), (1, 4), (2, 5)]

/-- The first rectangle that crosses the edge of a pair. -/
def rectAcross (w h : Nat) (p : Nat × Nat) (test : List CoreRef → Bool) : Option (List CoreRef) :=
  firstRect w h (List.range (21 - h)) (List.range (49 - w)) fun q =>
    (q.all fun c => c.die == p.1 || c.die == p.2) && (q.any fun c => c.die == p.1) && (q.any fun c => c.die == p.2) && test q

/-- A core that can receive a team of a launch: it holds none, is not core 159, belongs to no other exclusive launch, and
its die is not being reset. -/
def State.coreFree (s : State) (l : Launch) (c : CoreRef) : Bool :=
  let k := s.core c
  c.core != 159 && k.team.isNone && (match k.excl with
    | some o => o == l.key
    | none => true) && !(s.fabric.resetBusy && s.fabric.resetDie.toNat == c.die)

/-- The dies in the order in which they are tried: after the die of the launch's last cluster, with wrap. -/
def Launch.dieOrder (l : Launch) (banned : List Nat) : List Nat :=
  let ds := l.record.dies.filter fun d => !banned.contains d
  (ds.filter fun d => decide (l.cursor < d)) ++ ds.filter fun d => decide (d ≤ l.cursor)

/-- The rectangle a cluster takes (R87); `ok` tests the core of a position. -/
def Launch.findRect (l : Launch) (banned : List Nat) (ok : Nat → CoreRef → Bool) : Option (List CoreRef) :=
  let test (q : List CoreRef) : Bool := q.zipIdx.all fun x => ok x.2 x.1
  let inMask (d : Nat) : Bool := l.record.mask / 2 ^ d % 2 == 1 && !banned.contains d
  match (l.dieOrder banned).findSome? fun d => rectOn l.record.w l.record.h d test with
  | some q => some q
  | none =>
    if l.record.straddle then
      (diePairs.filter fun p => inMask p.1 && inMask p.2).findSome? fun p => rectAcross l.record.w l.record.h p test
    else none

/-! ### Cluster sails (R88, R365) -/

/-- Panels for a cluster sail, in rounds over its cores; none when there are too few. -/
def State.clusterPanels (s : State) (cores : List CoreRef) (n : Nat) : Option (List (Nat × Nat)) :=
  let free := cores.map fun c => (c.die, s.freePanels c.die (nearPanels c.core))
  let all := ((List.range 32).map fun k => free.filterMap fun f => (f.2[k]?).map fun p => (f.1, p)).flatten
  if all.length < n then none else some (all.take n)

/-- Cuts a cluster's sail. -/
def State.cutCluster (s : State) (l : Launch) (key : Nat) (panels : List (Nat × Nat)) : State :=
  let g := l.record.sailGeom
  let s := s.noteSail (.cluster key)
  { s with sails := s.sails ++
    [{ id := l.record.sailId, kind := 2, lineCode := g % 4, waysCode := g / 4 % 8, policy := g / 32 % 4
       cluster := some key, parts := [{ die := 255, panels := panels }] }] }

/-- A home or replicated sail holds the id of the launch's cluster sails. -/
def State.sailClash (s : State) (l : Launch) : Bool :=
  l.record.hasSail && (s.sail? (.sys l.record.sailId)).isSome

/-! ### Teams (R84, R93) -/

/-- Removes what a range of flat addresses holds: it reads zero, valid. -/
def State.clearRange (s : State) (a n : Nat) : State :=
  let mine (x : Nat) : Bool := decide (a ≤ x) && decide (x < a + n)
  { s with mem := s.mem.filter fun c => !mine c.1, poison := s.poison.filter fun x => !mine x }

/-- A core passes to another address space: its pool, its tiles, and its streams' registers, predicates and spill words are
zeroed. -/
def State.zeroCore (s : State) (c : CoreRef) : State :=
  ((s.clearRange (flatPool c 0) (2 ^ 64)).clearRange (flatTile c 0) (2 ^ 64)).modCore c fun k => { k with left := [] }

/-- A stream as a placement leaves it; `idx` is its index, and `file` what its registers hold (R84). -/
def newStream (idx : Nat) (native ready : Bool) (file : List (Loc × TVal) := []) : Stream :=
  let n := laneCount idx
  { file := file, active := maskOf fun l => decide (l < n), native := native
    rng := (List.range n).map fun l => BitVec.ofNat 32 (Fp.rngSeed idx l)
    wait := if ready then none else some .translation }

/-- The team of position `p` of cluster `key`, number `n`, of a launch; `left` is what the streams of the core's last team have
left. Stream `i` keeps the registers of stream `i`: log entry 112 (DESIGN CHOICE). -/
def newTeam (l : Launch) (key n p : Nat) (native : Bool) (ctl grp : Option Translation)
    (left : List (Nat × List (Loc × TVal)) := []) : Team :=
  let r := l.record
  let kept (i : Nat) : List (Loc × TVal) := (left.lookup i).getD []
  let fifo (k : Nat) : TokenFifo :=
    let t := (r.tokens[k]?).getD 0
    { count := t, links := List.replicate t none }
  let seed (k : Nat) : BitVec 32 := BitVec.ofNat 32 (k * 0x9E3779B9)
  { launch := l.key, cluster := key, asid := l.asid, teamid := p, idx := iterIndices r (n * r.size + p)
    budget := l.budget
    control := newStream 32 native ctl.isSome (kept 32)
    groups := (List.range r.groups).map fun g => newStream g native grp.isSome (kept g)
    ctlUnit := ctl, grpUnit := grp
    queues := r.wiring.map fun q => { kind := q.1, prod := q.2.1, cons := q.2.2 }
    lc := fifo 0, cs := fifo 1, sl := fifo 2
    copy := { ldq := { rng := seed 1057 }, stq := { rng := seed 1058 } }
    matrix := { rng := seed 1059 } }

/-- Removes the poison marks of a place's bytes. -/
def State.clearMarks (s : State) (base : Nat) : State :=
  { s with poison := s.poison.filter fun a => flatTag a != flatTag base }

/-- Places the team of one position on a core; the marks of its tiles are cleared (R301). -/
def State.placeTeam (s : State) (l : Launch) (key n p : Nat) (c : CoreRef) : State :=
  let s := if (s.core c).lastAsid = some l.asid then s.clearMarks (flatTile c 0) else s.zeroCore c
  let q := s.wantUnit l c l.record.ctlEntry
  let g := if l.record.groups = 0 then (q.1, none) else q.1.wantUnit l c l.record.grpEntry
  g.1.modCore c fun k =>
    { k with
      team := some (newTeam l key n p s.nativeStart q.2 g.2 k.left)
      split := l.record.split l.budget
      lastAsid := some l.asid
      excl := if l.record.exclusive then some l.key else k.excl
      l1 := [], hold := 0, matrix := [], seenMatrix := [] }

/-- Changes a launch. -/
def State.modLaunch (s : State) (key : Nat) (f : Launch → Launch) : State :=
  { s with walker := { s.walker with launches := s.walker.launches.map fun l => if l.key = key then f l else l } }

/-- A cluster of the launch's queue has been placed: the turn passes to the queue after it (R90). -/
def State.served (s : State) (l : Launch) : State :=
  { s with walker := { s.walker with rr := setAt s.walker.rr l.record.priority ((l.queue + 1) % 64) } }

/-- Places a launch's next cluster, when a rectangle and its sail's panels are free (R87, R88). A straddling cluster
counts for the die of its first core: log entry 103 (DESIGN CHOICE). -/
def State.placeCluster (s : State) (l : Launch) (banned : List Nat) : Option State :=
  match l.findRect banned fun _ c => s.coreFree l c with
  | none => none
  | some cores =>
    match (if l.record.hasSail then s.clusterPanels cores l.record.sailPanels else some []) with
    | none => none
    | some panels =>
      let key := s.walker.nextKey
      let dies := cores.map CoreRef.die
      let k : Cluster := { key := key, launch := l.key, number := l.next, cores := cores, live := List.range cores.length
                           straddles := dies.eraseDups.length == 2, dies := dies, placedAt := s.ticks }
      let s := { s with walker := { s.walker with nextKey := key + 1, clusters := s.walker.clusters ++ [k] } }
      let s := if l.record.hasSail then s.cutCluster l key panels else s
      let s := cores.zipIdx.foldl (fun s c => s.placeTeam l key l.next c.2 c.1) s
      some ((s.modLaunch l.key fun l =>
        { l with next := l.next + 1, cursor := (dies.head?).getD 0, waitFrom := none
                 firstPlaced := if l.firstPlaced = 0 then s.now else l.firstPlaced }).served l)

/-- Places every cluster that a launch still has to place, or none (R89). -/
def State.placeAll (s : State) (key : Nat) (banned : List Nat) : Nat → Option State
  | 0 => some s
  | fuel + 1 =>
    match s.launch? key with
    | none => some s
    | some l =>
      if l.record.clusters ≤ l.next then some s
      else match s.placeCluster l banned with
        | none => none
        | some s => s.placeAll key banned fuel

/-! ### Resuming (R101, R102) -/

/-- The core is right for a saved team: for class 1 its die has the identifier it had. -/
def State.suits (s : State) (l : Launch) (t : SavedTeam) (c : CoreRef) : Bool :=
  s.coreFree l c && (l.record.cls == 2 || (s.die c.die).ident == t.ident)

/-- A stream as it stands when its team is resumed: demotion is not saved, what it waited for is looked for again, and a
blocked instruction counts as issued now (R460). -/
def Stream.atResume (st : Stream) (now : Nat) (ready : Bool) : Stream :=
  { st with
    demoted := false, spins := 0, spinHead := none, spinVals := [], headAt := st.headAt.map fun _ => now
    wait := if st.finished then none else if ready then (match st.wait with
      | some .translation => none
      | w => w) else some .translation }

/-- Where a slot of a launch's save area begins. -/
def Launch.slotAt (l : Launch) (slot : Nat) : Nat := l.record.saveBase + 4194304 * slot

/-- Copies a core's pool and tiles, block by block, to a slot of its launch's save area, or back from it (R101, R102). A page
that is not mapped is passed over: log entry 12 (DESIGN CHOICE). -/
def State.copySlot (s : State) (l : Launch) (slot : Nat) (c : CoreRef) (out : Bool) : State :=
  (List.range 44).foldl (fun s k =>
    let core := if k < 32 then flatPool c (65536 * k) else flatTile c (65536 * (k - 32))
    match s.translate hubCore l.asid (l.slotAt slot + 65536 * k) with
    | (.leaf f _, s) =>
      let a := f.flat (l.slotAt slot + 65536 * k)
      let s := (s.drainPage a 65536).evictPage (leafSail f.entry) a 65536
      if out then s.copyRange core a 65536 else s.copyRange a core 65536
    | (_, s) => s) s

/-- What has been answered while a team was saved comes about: its parked instructions replay, its halted queues go on or report
their faults, and its streams meet what was left unmapped (R343). What is not answered yet waits on. -/
def State.replayTeam (s : State) (c : CoreRef) (accs : List Acc) : State :=
  let s := accs.foldl (fun s a => s.replay a.id) s
  let s := (s.resumeQueue c 0).resumeQueue c 1
  match s.team? c with
  | some t => t.order.foldl (fun s i => s.settleRecord ⟨c.die, c.core, i⟩) s
  | none => s

/-- Restores one saved team on a core: its memory, and under class 1 its mask stacks and flight records, from whatever the save
slot holds (R101, R412); its streams, and the instructions parked on faults, which replay. -/
def State.restoreTeam (s : State) (l : Launch) (x : SavedTeam) (c : CoreRef) : State :=
  let s := (s.zeroCore c).copySlot l x.slot c false
  let q := s.wantUnit l c l.record.ctlEntry
  let g := if l.record.groups = 0 then (q.1, none) else q.1.wantUnit l c l.record.grpEntry
  let t := { x.team with
    control := x.team.control.atResume s.now q.2.isSome
    groups := x.team.groups.map fun st => st.atResume s.now g.2.isSome
    ctlUnit := q.2, grpUnit := g.2, saving := false
    oldCtl := if l.record.cls = 2 then x.team.ctlUnit else none
    oldGrp := if l.record.cls = 2 then x.team.grpUnit else none }
  let accs := x.accs.map fun a => { a with ref := ⟨c.die, c.core, a.ref.idx⟩ }
  let s := g.1.modCore c fun k =>
    { k with team := some t, split := x.split, lastAsid := some l.asid
             excl := if l.record.exclusive then some l.key else k.excl, l1 := [], hold := 0, matrix := [], seenMatrix := [] }
  let s := if l.record.cls = 1 then s.loadRecords l.asid (l.slotAt x.slot) c else s
  (({ s with flights := s.flights ++ accs } : State).remapTeam c).replayTeam c accs

/-- A cluster barrier with arrivals goes on at resume (R119): the arrivals counted before the save stand, and its halves are
those of the dies the cluster now stands on. -/
def State.cbarAgain (s : State) (key b : Nat) : State :=
  match s.cluster? key with
  | none => s
  | some k =>
    if (k.bar b).teams = [] then s
    else (s.modCluster key fun k =>
      { k with bars := modAt k.bars b fun x => { x with halves := [], heard := [] } }).cbarCheck key b

/-- Resumes a saved cluster with its shape, when suitable cores and its sail's panels are free. -/
def State.resumeCluster (s : State) (l : Launch) (k : Cluster) (banned : List Nat) : Option State :=
  let ok (p : Nat) (c : CoreRef) : Bool :=
    match k.saved.find? fun x => x.member == p with
    | some x => s.suits l x c
    | none => true
  match l.findRect banned ok with
  | none => none
  | some cores =>
    match (if l.record.hasSail then s.clusterPanels cores l.record.sailPanels else some []) with
    | none => none
    | some panels =>
      let dies := cores.map CoreRef.die
      let k' := { k with cores := cores, saved := [], slots := [], preempting := false, dies := dies, placedAt := s.ticks
                         straddles := dies.eraseDups.length == 2 }
      let s := s.modCluster k.key fun _ => k'
      let s := if l.record.hasSail then s.cutCluster l k.key panels else s
      let s := k.saved.foldl (fun s x => match cores[x.member]? with
        | some c => s.restoreTeam l x c
        | none => s) s
      let s := (List.range 4).foldl (fun s b => s.cbarAgain k.key b) s
      some ((s.modLaunch l.key fun l => { l with waitFrom := none }).served l)

/-! ### The order of service (R89, R90) -/

/-- The launch's wait condition holds (R92). -/
def State.mayRun (s : State) (l : Launch) : Bool :=
  l.record.waitCc == 0xFFFF ||
    (let c := s.counter l.record.waitCc
     decide (c.target.toNat ≤ c.count.toNat) && (!c.err || l.record.depRun || l.next != 0))

/-- The launch has clusters to place. -/
def Launch.toPlace (l : Launch) : Bool := decide (l.next < l.record.clusters)

/-- The launch is eligible: the oldest of its queue with clusters to place, its wait condition holding. -/
def State.eligible (s : State) (l : Launch) : Bool :=
  l.toPlace && s.mayRun l && !(s.walker.launches.any fun m => m.queue == l.queue && m.toPlace && decide (m.key < l.key))

/-- The saved cluster of a launch that is resumed next. -/
def State.savedOf (s : State) (key : Nat) : Option Cluster :=
  s.walker.clusters.find? fun k => k.launch == key && k.saved != [] && !k.preempting

/-- The launch waits for cores. -/
def State.waitsForCores (s : State) (l : Launch) : Bool :=
  l.status.isNone && ((s.savedOf l.key).isSome || s.eligible l)

/-- One launch is served before another: priority, then the round robin of the queues, then age. -/
def State.before (s : State) (a b : Launch) : Bool :=
  let turn (l : Launch) : Nat := (l.queue + 64 - (s.walker.rr[l.record.priority]?).getD 0) % 64
  decide (b.record.priority < a.record.priority) || (a.record.priority == b.record.priority &&
    (decide (turn a < turn b) || (turn a == turn b && decide (a.key < b.key))))

def State.insertServed (s : State) (l : Launch) : List Launch → List Launch
  | [] => [l]
  | m :: ms => if s.before l m then l :: m :: ms else m :: s.insertServed l ms

/-- The launches that wait for cores, in the order of service. -/
def State.serveOrder (s : State) : List Launch :=
  (s.walker.launches.filter s.waitsForCores).foldl (fun xs l => s.insertServed l xs) []

/-- The co-resident launch that holds the dies of its mask (R89): the first eligible launch of the highest priority that
waits. -/
def State.blocker (s : State) : Option Launch :=
  let order := s.serveOrder
  let top := (order.head?).map fun l => l.record.priority
  match order.filter fun l => s.eligible l && some l.record.priority == top with
  | l :: _ => if l.record.coresident then some l else none
  | [] => none

/-- Dies on which a launch places nothing now: those of a blocker of no lower priority (R89). -/
def State.bannedFor (s : State) (l : Launch) : List Nat :=
  match s.blocker with
  | some b => if b.key = l.key ∨ b.record.priority < l.record.priority then [] else b.record.dies
  | none => []

/-- Serves a launch: a saved cluster first, otherwise its next cluster, or all of them. -/
def State.serve (s : State) (l : Launch) : Option State :=
  match s.savedOf l.key with
  | some k => s.resumeCluster l k (s.bannedFor l)
  | none =>
    if l.record.coresident then s.placeAll l.key (s.bannedFor l) (l.record.clusters + 1)
    else s.placeCluster l (s.bannedFor l)

/-- The first launch of the order that can be served, with the state after it is. -/
def State.serveFirst (s : State) : Option (Launch × State) :=
  s.serveOrder.findSome? fun l => (s.serve l).map fun t => (l, t)

end Sys2Proof.Machine
end

