-- ==== Sys2Proof/Machine/WalkerEvents.lean ====
section
/-! DEFINITION. The launch walker's own steps (spec/03_launch_walker.md R76, R77, R81, R87 to R103): its registers, copying
and admitting records, placing, retiring, pre-empting and resuming teams; and the steps of a resident team that no
instruction performs (spec/04_control_engine.md R128, R132; spec/01_package_and_engines.md R30). -/
namespace Sys2Proof.Machine

/-! ### Queue registers (Table 3.1) -/

def State.queue (s : State) (n : Nat) : LaunchQueue := (s.walker.queues[n]?).getD {}

def State.modLq (s : State) (n : Nat) (f : LaunchQueue → LaunchQueue) : State :=
  { s with walker := { s.walker with queues := modAt s.walker.queues n f } }

/-- LW_QDB (R77): a tail that covers more than the ring is refused. -/
def execLwQdb (q : Nat) (tail : BitVec 32) (s : State) : Out :=
  if !s.board.ready then .next s
  else .next (s.modLq q fun x =>
    if (tail - x.head).toNat ≤ x.size then { x with tail := tail } else { x with overrun := true })

/-- LW_QCFG (R76): while EN is 1 only EN is written; writing 1 where it held 0 sets HEAD and the tail to 0. -/
def execLwQcfg (q : Nat) (w : BitVec 32) (s : State) : Out :=
  if !s.board.ready then .next s
  else .next (s.modLq q fun x =>
    if x.en then { x with en := w.getLsbD 0 }
    else
      let x := { x with en := w.getLsbD 0, log2n := w.extractLsb' 1 4, fn := w.extractLsb' 8 4, asid := w.extractLsb' 16 16 }
      if x.en then { x with head := 0, tail := 0 } else x)

/-- LW_QSTAT (R77): writing 1 clears a bit; a queue stopped on RING_FAULT goes on. -/
def execLwQstat (q : Nat) (w : BitVec 32) (s : State) : Out :=
  if !s.board.ready then .next s
  else .next (s.modLq q fun x =>
    { x with overrun := x.overrun && !w.getLsbD 0, ringFault := x.ringFault && !w.getLsbD 1 })

/-! ### Copying records (R77, R80, R81) -/

/-- Launches of a queue that the walker holds. -/
def State.heldOf (s : State) (q : Nat) : Nat := (s.walker.launches.filter fun l => l.queue == q).length

/-- Counts a walker event in a queue's partition. -/
def State.walkerEvent (s : State) (q code : Nat) : State := s.partEvent (s.queue q).fn.toNat code

/-- The walker can read `n` blocks of 64 bytes from an address on, as a load at .sys could (R77). -/
def State.ringReadable (s : State) (asid : Nat) : Nat → Nat → State × Bool
  | 0, _ => (s, true)
  | n + 1, va =>
    match s.checkGlobal hubCore asid { read := true } 1 va 0 with
    | (.lane l, s) => if l.loc = 3 ∧ s.peerServes .read l.pa = false then (s, false) else s.ringReadable asid n (va + 64)
    | (_, s) => (s, false)

/-- The bytes of the record at an address; none where it cannot be read, or holds poison (R77). -/
def State.ringRecord (s : State) (asid va : Nat) : State × Option (List Byte) :=
  let q := s.ringReadable asid 4 va
  if !q.2 then (q.1, none)
  else match q.1.vread hubCore asid va 256 with
    | some (s, bs, false) => (s, some bs)
    | some (s, _, true) => (s, none)
    | none => (q.1, none)

/-- LAUNCH_RECORD_COPY (R77, R80, R81): the walker copies the record at HEAD and admits it, or rejects it with its completion
record, LAST_REASON and its signal. A record that cannot be read, or holds poison, sets RING_FAULT. -/
def execLaunchRecordCopy (q : Nat) (s : State) : Out :=
  let x := s.queue q
  if !s.board.ready || !x.en || x.ringFault || x.head == x.tail || 8 ≤ s.heldOf q then .next s
  else
    match s.ringRecord x.asid.toNat (x.base.toNat + 256 * (x.head.toNat % x.size)) with
    | (s, none) => .next (s.modLq q fun x => { x with ringFault := true })
    | (s, some bs) =>
      let r := launchRecOf bs
      let l : Launch := { key := s.walker.nextKey, queue := q, record := r, asid := x.asid.toNat, copyTime := s.now
                          cursor := 5, budget := r.budgetInUse.getD 8 }
      let s := s.modLq q fun x => { x with head := x.head + 1 }
      if s.board.thermOff then .next (s.reportLaunch l 0x55 0)
      else match rejection bs r with
      | some reason =>
        let s := s.modLq q fun x => { x with lastReason := BitVec.ofNat 8 reason }
        .next ((s.walkerEvent q 0x10).reportLaunch l 0x10 reason)
      | none =>
        .next { s with walker := { s.walker with nextKey := s.walker.nextKey + 1, launches := s.walker.launches ++ [l] } }

/-! ### Completion counters (R91, R92) -/

/-- The launch is to be cancelled: its wait is over, with an error, and it may not run all the same. -/
def State.cancelled (s : State) (l : Launch) : Bool :=
  l.record.waitCc != 0xFFFF && !l.record.depRun && l.next == 0 &&
    (let c := s.counter l.record.waitCc
     decide (c.target.toNat ≤ c.count.toNat) && c.err)

/-- Cancels every launch whose dependence failed; one may signal the counter of another. -/
def State.cancelDeps (s : State) : Nat → State
  | 0 => s
  | fuel + 1 =>
    match s.walker.launches.find? s.cancelled with
    | none => s
    | some l => ((s.walkerEvent l.queue 0x11).reportLaunch l 0x11 0).cancelDeps fuel

def State.settleDeps (s : State) : State := s.cancelDeps (s.walker.launches.length + 1)

/-- LW_CC_COUNT (R91, R92): a register write sets COUNT and clears ERR where its bit 31 is 1; a signal adds 1. -/
def execLwCcCount (i : Nat) (a : CcInput) (s : State) : Out :=
  if !s.board.ready || 4096 ≤ i then .next s
  else
    match a with
    | .write w =>
      let c := s.counter i
      .next (s.setCounter { c with count := w.extractLsb' 0 31, err := c.err && !w.getLsbD 31 }).settleDeps
    | .signal err => .next (s.signal i err).settleDeps

/-! ### Placement -/

/-- CLUSTER_PLACEMENT (R87 to R90): the launch's next cluster is placed, when no launch served before it can be. Launches
whose dependence failed are cancelled first; an id clash of its cluster sail ends the job (R365). -/
def execClusterPlacement (launch : Nat) (s : State) : Out :=
  let s := s.settleDeps
  match s.serveFirst with
  | none => .next s
  | some (l, t) =>
    if l.key ≠ launch ∨ (s.savedOf l.key).isSome then .next s
    else if s.sailClash l then .next (s.jobFault l.asid 0x31 [4])
    else .next t

/-- CLUSTER_RESUME (R90, R102): a saved cluster is restored, when no launch served before its own can be. -/
def execClusterResume (cluster : Nat) (s : State) : Out :=
  match s.serveFirst with
  | none => .next s
  | some (l, t) =>
    if (s.savedOf l.key).map Cluster.key ≠ some cluster then .next s
    else if s.sailClash l then .next (s.jobFault l.asid 0x31 [4])
    else .next t

/-! ### Retirement (R94) -/

/-- Every stream of a team has ended, its counters are zero and its engine queues are empty. -/
def Team.drained (t : Team) : Bool :=
  let done (st : Stream) : Bool := st.finished && (List.range 6).all fun p => st.path p == []
  done t.control && t.groups.all done && t.copy.ldq.cmds == [] && t.copy.stq.cmds == [] && t.matrix.queue == []

/-- The walker waits until the write-backs of some cores are acknowledged. -/
def State.writingBackFrom (s : State) (cs : List CoreRef) : Bool :=
  s.flights.any fun a => a.wb && cs.contains (coreOf a.ref)

/-- A cluster all of whose live teams are saved is off its cores; its sail's panels are free. -/
def State.clusterOff (s : State) (key : Nat) : State :=
  match s.cluster? key with
  | none => s
  | some k =>
    if k.live.all fun m => k.saved.any fun x => x.member == m then
      (s.dropClusterSail key).modCluster key fun k => { k with cores := [], preempting := false }
    else s

/-- A cluster's member has left: with the last one, its sail's panels are free, and a launch whose teams have all retired
completes. -/
def State.memberLeft (s : State) (k : Cluster) (m : Nat) : State :=
  let left := k.live.filter fun p => p != m
  let s := s.modCluster k.key fun k => { k with live := left }
  let s := s.modLaunch k.launch fun l => { l with retired := l.retired + 1 }
  let s := if left = [] then
      let s := s.dropClusterSail k.key
      { s with walker := { s.walker with clusters := s.walker.clusters.filter fun j => j.key != k.key } }
    else if k.preempting then s.clusterOff k.key else s
  match s.launch? k.launch with
  | some l => if l.retired = l.record.iterations then (s.reportLaunch l 0 0).settleDeps else s
  | none => s

/-- TEAM_RETIRE (R94): once the team has ended and drained, its coalesced bytes leave, and the last team of a cluster has
its sail's dirty bytes written home; when those are acknowledged the core is free. -/
def execTeamRetire (c : CoreRef) (s : State) : Out :=
  match s.team? c with
  | none => .next s
  | some t =>
    match s.cluster? t.cluster with
    | none => .next s
    | some k =>
      if !t.drained || t.trapped.isSome || ((s.launch? k.launch).bind Launch.status).isSome then .next s
      else
        let s := s.flushCore c
        let s := if k.live = [t.teamid] then s.clusterFlush k.key c else s
        if s.writingBackFrom k.cores then .next s
        else .next ((s.freeCore c).memberLeft k t.teamid)

/-! ### Pre-emption (R99 to R101, R103) -/

/-- A cluster's teams. -/
def State.teamsOf (s : State) (k : Cluster) : List (CoreRef × Team) :=
  k.live.filterMap fun m => (k.cores[m]?).bind fun c => (s.team? c).map fun t => (c, t)

/-- Save slots of a launch in use, by its pre-empted clusters and its held teams. -/
def State.slotsUsed (s : State) (key : Nat) : List Nat :=
  ((s.walker.clusters.filter fun k => k.launch == key).map Cluster.slots).flatten
    ++ s.cores.filterMap fun k => (k.team.filter fun t => t.launch == key).bind Team.heldSlot

/-- The lowest free save slots of a launch, one for each of `n` teams. -/
def State.slotsFor (s : State) (l : Launch) (n : Nat) : Option (List Nat) :=
  let used := s.slotsUsed l.key
  let free := (List.range l.record.saveSlots).filter fun x => !used.contains x
  if free.length < n then none else some (free.take n)

/-- The cluster may be pre-empted: its class, its slots, and no team of it held in a trap. -/
def State.preemptable (s : State) (l : Launch) (k : Cluster) : Bool :=
  l.record.cls != 0 && l.status.isNone && k.launch == l.key && !k.preempting && k.saved == []
    && (s.slotsFor l k.live.length).isSome && (s.teamsOf k).all fun t => t.2.trapped.isNone

/-- Begins the pre-emption of a cluster: its teams issue nothing new. `waiter` names the launch that waits for it. -/
def State.startPreempt (s : State) (waiter : Option Nat) (l : Launch) (k : Cluster) : State :=
  match s.slotsFor l k.live.length with
  | none => s
  | some slots =>
    let s := s.modCluster k.key fun k => { k with preempting := true, slots := slots, waiter := waiter }
    (s.teamsOf k).foldl (fun s t => s.modTeam t.1 fun t => { t with saving := true }) s

/-- The clusters of a launch that are still resident. -/
def State.residentOf (s : State) (key : Nat) : List Cluster := s.walker.clusters.filter fun k => k.launch == key

/-- The cluster placed later. -/
def laterCluster (a : Option Cluster) (b : Cluster) : Option Cluster :=
  match a with
  | some x => if x.placedAt < b.placedAt ∨ (x.placedAt = b.placedAt ∧ x.key < b.key) then some b else some x
  | none => some b

/-- Begins the pre-emption of a co-resident launch whole, where every cluster of it can be. -/
def State.preemptWhole (s : State) (waiter : Option Nat) (l : Launch) : Option State :=
  (s.residentOf l.key).foldl (fun (s : Option State) k =>
    s.bind fun s => if s.preemptable l k then some (s.startPreempt waiter l k) else none) (some s)

/-- The clusters that a test of their launches selects and that can be taken, the most recently placed first. -/
def State.pickPreempt (s : State) (test : Launch → Cluster → Bool) : Option (Launch × Cluster) :=
  let ok (k : Cluster) : Bool := match s.launch? k.launch with
    | some l => test l k && s.preemptable l k && (!l.record.coresident || (s.preemptWhole none l).isSome)
    | none => false
  match (s.walker.clusters.filter ok).foldl laterCluster none with
  | none => none
  | some k => (s.launch? k.launch).map fun l => (l, k)

/-- Takes one cluster, or a co-resident launch whole when no more of its clusters are resident than may be taken; the second
result is how many were taken. -/
def State.takeOne (s : State) (waiter : Option Nat) (room : Nat) (test : Launch → Cluster → Bool) : State × Nat :=
  match s.pickPreempt fun l k => test l k && (!l.record.coresident || decide ((s.residentOf l.key).length ≤ room)) with
  | none => (s, 0)
  | some (l, k) =>
    if l.record.coresident then
      match s.preemptWhole waiter l with
      | some t => (t, (s.residentOf l.key).length)
      | none => (s, 0)
    else (s.startPreempt waiter l k, 1)

/-- Takes up to `room` clusters. -/
def State.takeMany (s : State) (test : Launch → Cluster → Bool) : Nat → Nat → State
  | 0, _ => s
  | fuel + 1, room =>
    if room = 0 then s
    else
      let r := s.takeOne none room test
      if r.2 = 0 then s else r.1.takeMany test fuel (room - r.2)

/-- LW_PREEMPT (R99): up to CLUSTERS clusters of the queue's launches, the most recently placed first. -/
def execLwPreempt (w : BitVec 32) (s : State) : Out :=
  if !s.board.ready || !w.getLsbD 31 then .next s
  else
    let n := (w.extractLsb' 8 8).toNat
    .next (s.takeMany (fun l _ => l.queue == (w.extractLsb' 0 6).toNat) n n)

/-- The lowest priority among the clusters that can be taken for a waiting launch. -/
def State.lowestPriority (s : State) (test : Launch → Cluster → Bool) : Option Nat :=
  (List.range 8).find? fun p => (s.pickPreempt fun l k => l.record.priority == p && test l k).isSome

/-- Takes a cluster for a waiting launch (R99): of lower priority, on the dies of its mask, the lowest priority first. -/
def State.takeFor (s : State) (l : Launch) (also : Cluster → Bool) : State :=
  let test (m : Launch) (k : Cluster) : Bool :=
    decide (m.record.priority < l.record.priority) && (k.cores.any fun c => l.record.dies.contains c.die) && also k
  match s.lowestPriority test with
  | none => s
  | some p => (s.takeOne (some l.key) (s.walker.clusters.length) fun m k => m.record.priority == p && test m k).1

/-- PREEMPT_WAIT_TIMEOUT (R99): an eligible launch has waited 1 ms; a cluster is taken for it, unless the launch can be placed or
a pre-emption is in progress. -/
def execPreemptWaitTimeout (launch : Nat) (s : State) : Out :=
  match s.launch? launch with
  | none => .next s
  | some l =>
    if !s.eligible l || (match l.waitFrom with
      | some t => decide (s.since t < 1000000)
      | none => true) || (s.walker.clusters.any fun k => k.preempting) || (s.serve l).isSome then
      .next s
    else .next (s.takeFor l fun _ => true)

/-- An access of a team holds nothing but lanes that wait for a translation, and those that are done. -/
def Acc.onlyParked (a : Acc) : Bool :=
  !a.isFence && a.lanes.any (fun l => !l.placed) && a.lanes.all fun l => !l.placed || l.stage == .done

/-- A team of class 2 stands on a ravel point: a portable stream always does; a native one at its next bundle's kind. -/
def Stream.onRavel (st : Stream) (unit : Option Translation) : Bool :=
  !st.native || st.finished || (match unit with
    | some t => t.ravels.any fun r => r.bundle == st.bundle
    | none => st.bundle == 0)

/-- Nothing variable is on its way to a stream, but what a parked instruction waits for (R409 step 2). -/
def Stream.resultsIn (st : Stream) : Bool := st.parked.isSome || st.landings.all fun x => !x.var

/-- Steps 2 to 4 of R100 are done for a team. -/
def State.quiet (s : State) (c : CoreRef) (t : Team) (cls : Nat) : Bool :=
  t.change.isNone && t.trapped.isNone && t.matrix.atBoundary && (s.core c).walks == []
    && (t.copy.ldq.cmds ++ t.copy.stq.cmds).all (fun k => k.flying == [])
    && (s.flights.all fun a => a.wb || coreOf a.ref != c || a.onlyParked)
    && (t.control :: t.groups).all Stream.resultsIn
    && (cls != 2 || (t.control.onRavel t.ctlUnit && t.groups.all fun st => st.onRavel t.grpUnit))

/-- No completion message of a cluster's barrier is on its way. -/
def State.noFarMessage (s : State) (key : Nat) : Bool :=
  !(s.fabric.msgs.any fun m => match m.body with
    | .barrier c .. => c == key
    | _ => false)

/-- A team with its pre-emption counted; its window stays open (R469), and its streams are frozen. -/
def Team.preempted (t : Team) (now : Nat) : Team :=
  let freeze (st : Stream) : Stream := if st.finished then st else { st with frozen := some now }
  { t with
    capture := t.capture.map fun w => { w with preempts := w.preempts + 1 }
    control := freeze t.control, groups := t.groups.map freeze }

/-- Saves one team in the next of the cluster's slots, and frees its core (R100 steps 5 and 6). -/
def State.saveTeam (s : State) (l : Launch) (k : Cluster) (c : CoreRef) (t : Team) : State :=
  let slot := (k.slots[k.saved.length]?).getD 0
  let s := s.teamEvent c 63 0x12 ⟨0, 0⟩
  let s := (s.flushCore c).copySlot l slot c true
  let s := if l.record.cls = 1 then s.saveRecords l.asid (l.slotAt slot) t else s
  let x : SavedTeam :=
    { member := t.teamid, ident := (s.die c.die).ident, team := t.preempted s.now, split := (s.core c).split, slot := slot
      accs := s.flights.filter fun a => !a.wb && coreOf a.ref == c }
  let s := s.modCluster k.key fun k => { k with saved := k.saved ++ [x] }
  let s := s.modLaunch k.launch fun l => { l with preempts := l.preempts + 1 }
  s.freeCore c

/-- The clusters that are pre-empted with one: those of its launch where that is co-resident, otherwise itself (R99). -/
def State.takenWith (s : State) (l : Launch) (k : Cluster) : List Cluster :=
  if l.record.coresident then (s.residentOf l.key).filter Cluster.preempting else [k]

/-- A trap came first: the cluster is not pre-empted, nor are those taken with it, and the request passes to the next
candidates: of its queue, or of the launch that waits (R103). -/
def State.cancelPreempt (s : State) (l : Launch) (k : Cluster) : State :=
  let ks := s.takenWith l k
  let s := ks.foldl (fun s k =>
    let s := s.modCluster k.key fun k => { k with preempting := false, slots := [], waiter := none }
    (s.teamsOf k).foldl (fun s t => s.modTeam t.1 fun t => { t with saving := false }) s) s
  let other (j : Cluster) : Bool := !(ks.any fun k => k.key == j.key)
  match k.waiter with
  | none => s.takeMany (fun m j => m.queue == l.queue && other j) ks.length ks.length
  | some w => match s.launch? w with
    | some m => s.takeFor m other
    | none => s

/-- PREEMPT_SAVE (R100, R103): a team being pre-empted is saved once every team taken with it is quiet; the cluster
sail's dirty bytes have then reached their homes. A team whose streams have all ended retires instead. -/
def execPreemptSave (c : CoreRef) (s : State) : Out :=
  match s.team? c with
  | none => .next s
  | some t =>
    match s.cluster? t.cluster, s.launch? t.launch with
    | some k, some l =>
      let group := s.takenWith l k
      let teams := (group.map s.teamsOf).flatten
      if !k.preempting then .next s
      else if (teams.any fun x => x.2.trapped.isSome) && group.all (fun k => k.saved == []) then .next (s.cancelPreempt l k)
      else if t.drained || !(teams.all fun x => s.quiet x.1 x.2 l.record.cls) || !s.noFarMessage k.key then .next s
      else
        let s := (s.teamsOf k).foldl (fun s x => s.flushCore x.1) s
        let s := s.clusterFlush k.key c
        if s.writingBackFrom k.cores then .next s
        else .next ((s.saveTeam l k c t).clusterOff k.key)
    | _, _ => .next s

/-! ### Steps of a resident team -/

/-- Every stream of the team is blocked or has ended; where all have ended, a command of the matrix or the copy engine keeps
the team (R333). -/
def Team.allBlocked (t : Team) : Bool :=
  let stuck (st : Stream) : Bool := st.finished || (match st.wait with
    | some .held | none => false
    | some _ => true)
  (!t.control.finished || (t.groups.any fun st => !st.finished) || t.matrix.queue != [] || t.copy.ldq.cmds != []
    || t.copy.stq.cmds != []) && stuck t.control && t.groups.all stuck

/-- TEAM_STALL (R30): every stream blocked, and nothing changed for 2^28 cycles; raised once. -/
def execTeamStall (c : CoreRef) (s : State) : Out :=
  match s.team? c with
  | none => .next s
  | some t =>
    if t.stallRaised || !t.allBlocked || t.still < 2 ^ 28 then .next s
    else .next ((s.teamEvent c 63 0x14 ⟨0, 0⟩).modTeam c fun t => { t with stallRaised := true })

/-- SLEEP_EXPIRE (R132): the last cycle of a sleep has passed. -/
def execSleepExpire (r : StreamRef) (s : State) : Out :=
  .next (s.modStream r fun st => if st.sleep = 1 then { st with sleep := 0 } else st)

/-- The team is quiet for a change of phase (R128 step 2). -/
def Team.phaseQuiet (t : Team) : Bool :=
  let zero (st : Stream) : Bool := st.ll == [] && st.gl == [] && st.st == [] && st.att == []
  zero t.control && t.groups.all zero && (t.copy.ldq.cmds ++ t.copy.stq.cmds).all (fun k => k.flying == [])
    && t.matrix.running.isNone

/-- The split of a phase of the plan. -/
def phaseSplit (rec_ : LaunchRec) (p : Nat) (x : Split) : Split :=
  let q := (rec_.plan[p]?).getD (0, 0)
  { x with locBytes := q.1 * 4096, l1Bytes := q.2 * 4096 }

/-- PHASE_DRAIN (R128 step 3): L1 is written back and invalidated, the boundary moves, and bytes added to local memory read
zero; the drain's cycles begin. -/
def execPhaseDrain (c : CoreRef) (s : State) : Out :=
  match s.team? c with
  | none => .next s
  | some t =>
    match t.change, s.launch? t.launch with
    | some ⟨p, none⟩, some l =>
      if !t.phaseQuiet then .next s
      else
        let w := ((s.onward.filter fun o => o.core == c).map fun o => o.lane.pa / 128).eraseDups.length
        let s := (s.flushCore c).teamTally c 23 w
        let old := (s.core c).split
        let new := phaseSplit l.record p old
        let s := if old.locBytes < new.locBytes then
            s.clearRange (s.flatLocal c old.locBytes) (new.locBytes - old.locBytes) else s
        let s := s.modCore c fun k => { k with split := new, l1 := [] }
        .next (s.modTeam c fun t => { t with change := some ⟨p, some (64 + (w + 7) / 8)⟩ })
    | _, _ => .next s

/-- PHASE_DRAIN_END (R128 step 4): the drain is over; the new phase is current, and the streams go on. -/
def execPhaseDrainEnd (c : CoreRef) (s : State) : Out :=
  .next (s.modTeam c fun t =>
    match t.change with
    | some ⟨p, some 0⟩ => { t with phase := p, change := none }
    | _ => t)

end Sys2Proof.Machine
end

