-- ==== Sys2Proof/Machine/Registers.lean ====
section
/-! DEFINITION. The system registers of BAR 0 (spec/00_scope.md R7 to R9 and the register tables of the chapters): writes of
registers that have no behaviour of their own, and what a read of a register finds. The registers whose writes do more are rows
of the opcode table. -/
namespace Sys2Proof.Machine

/-- Replaces one half of a 64-bit register. -/
def putHalf (high : Bool) (w : BitVec 32) (x : BitVec 64) : BitVec 64 :=
  if high then w ++ x.extractLsb' 0 32 else x.extractLsb' 32 32 ++ w

/-- Half of a 64-bit register. -/
def half (high : Bool) (x : BitVec 64) : BitVec 32 := if high then x.extractLsb' 32 32 else x.extractLsb' 0 32

/-- The bytes of a word. -/
def wordBytes (w : BitVec 32) : List Byte := toBytes 4 w.toNat

/-- The word at an offset of a block of bytes. -/
def wordAt (xs : List Byte) (off : Nat) : BitVec 32 := BitVec.ofNat 32 (ofBytes ((xs.drop off).take 4))

/-! ### Writes -/

/-- Every port is disabled (R391). -/
def Fabric.portsOff (f : Fabric) : Bool := f.ports.all fun p => !p.en

/-- A word written to the launch walker's registers (Tables 3.1 and 3.5). -/
def State.writeWalker (s : State) (o : Nat) (w : BitVec 32) : State :=
  if o < 0x1000 then
    (if o % 64 = 0 ∨ o % 64 = 4 then
      s.modLq (o / 64) fun x =>
        if x.en then x else { x with base := putHalf (o % 64 == 4) w x.base &&& 0x00FFFFFFFFFFF000 }
    else s)
  else if 0x10000 ≤ o ∧ o < 0x18000 ∧ o % 8 = 4 then
    (s.setCounter { s.counter ((o - 0x10000) / 8) with target := w }).settleDeps
  else s

/-- A word written to the page engine's registers (Table 12.4). -/
def PageEngine.write (p : PageEngine) (o : Nat) (w : BitVec 32) : PageEngine :=
  match o with
  | 0x00 | 0x04 => { p with ctx := putHalf (o == 4) w p.ctx }
  | 0x08 | 0x0C => { p with fqBase := putHalf (o == 0x0C) w p.fqBase }
  | 0x10 => { p with log2n := w.extractLsb' 0 4, en := w.getLsbD 4 }
  | 0x18 => { p with head := w }
  | _ => p

/-- A word written to the sail controller's registers (Table 13.7). -/
def SailRegs.write (r : SailRegs) (o : Nat) (w : BitVec 32) : SailRegs :=
  if o < 0x20 then { r with pasid := setAt r.pasid (o / 4) (w.extractLsb' 0 16, w.getLsbD 16) }
  else if o = 0x48 then { r with faild := r.faild &&& ~~~w.extractLsb' 0 6 }
  else r

/-- A port that is disabled no longer runs (log entry 33). -/
def Port.config (p : Port) (w : BitVec 32) : Port :=
  { p with en := w.getLsbD 0, dateline := w.getLsbD 1, up := p.up && w.getLsbD 0, retraining := p.retraining && w.getLsbD 0 }

/-- A word written to the fabric engine's registers (Table 14.4). -/
def Fabric.write (f : Fabric) (o : Nat) (w : BitVec 32) : Fabric :=
  if o = 0x04 then { f with timeout := w.extractLsb' 0 16 }
  else if o = 0x30 ∨ o = 0x34 then (if f.portsOff then { f with route := putHalf (o == 0x34) w f.route } else f)
  else if o = 0x38 ∨ o = 0x3C then (if f.portsOff then { f with pacl := putHalf (o == 0x3C) w f.pacl } else f)
  else if 0x100 ≤ o ∧ o < 0x1C0 then
    { f with ports := modAt f.ports ((o - 0x100) / 16) fun p =>
        match o % 16 with
        | 0 => p.config w
        | 4 => { p with down := p.down && !w.getLsbD 1 }
        | _ => p }
  else f

/-- A word written to the trace registers (Table 18.4). -/
def TraceRegs.write (t : TraceRegs) (o : Nat) (w : BitVec 32) : TraceRegs :=
  match o with
  | 0x00 | 0x04 => { t with ctx := putHalf (o == 4) w t.ctx }
  | 0x08 => { t with sample := w.extractLsb' 0 28 }
  | 0x18 => { t with lossOvf := t.lossOvf && !w.getLsbD 31 }
  | 0x1C => { t with lossRd := w.extractLsb' 0 31 }
  | _ => t

/-- A word written to the security registers (Table 19.5): all but SEC_CMD, and the last word of SEC_UNLOCK. -/
def Security.write (x : Security) (o : Nat) (w : BitVec 32) : Security :=
  if o = 0x04 then { x with done := x.done && !w.getLsbD 0 }
  else if o = 0x08 ∨ o = 0x0C then { x with repAddr := putHalf (o == 0x0C) w x.repAddr }
  else if 0x20 ≤ o ∧ o < 0x40 then { x with nonce := overlay (o - 0x20) (wordBytes w) x.nonce }
  else if 0x60 ≤ o ∧ o < 0xBC ∧ !x.lockout then { x with unlock := overlay (o - 0x60) (wordBytes w) x.unlock }
  else x

/-- A word written at an offset of BAR 0 of the physical function; what no table names ignores it. -/
def State.writeWord (s : State) (off : Nat) (w : BitVec 32) : State :=
  match off / 0x10000 with
  | 0x0200 | 0x0201 => s.writeWalker (off - 0x02000000) w
  | 0x0204 => { s with pages := s.pages.write (off % 0x10000) w }
  | 0x0205 => { s with sailRegs := s.sailRegs.write (off % 0x10000) w }
  | 0x0206 => { s with fabric := s.fabric.write (off % 0x10000) w }
  | 0x0207 =>
    if off % 0x10000 < 8 then { s with knit := { s.knit with hash := putHalf (off % 0x10000 == 4) w s.knit.hash } } else s
  | 0x0208 =>
    if off % 0x10000 < 8 then { s with chain := { s.chain with ctx := putHalf (off % 0x10000 == 4) w s.chain.ctx } } else s
  | 0x0209 => { s with trace := s.trace.write (off % 0x10000) w }
  | 0 =>
    if off = 0x120 then { s with board := { s.board with pcap := w.extractLsb' 0 13 } }
    else if 0x2000 ≤ off ∧ off < 0x4000 then { s with security := s.security.write (off - 0x2000) w }
    else s
  | _ => s

/-- What BAR 0 of a function maps at an offset (R76, R476): for the physical function every register; for a virtual one
HB_STATUS, the queue sets that LW_QCFG.FN gives it, and the counters assigned to it. -/
def State.maps (s : State) (fn off : Nat) : Bool :=
  fn == 0 || (decide (fn < 16) &&
    (off == 0 ||
      (decide (0x02000000 ≤ off) && decide (off < 0x02001000) &&
        ((s.walker.queues[(off - 0x02000000) / 64]?).map fun q => q.fn.toNat) == some fn) ||
      (decide (0x02010000 ≤ off) && decide (off < 0x02018000) && s.walker.assigned.lookup ((off - 0x02010000) / 8) == some fn)))

/-- The words of some bytes. -/
def regWords : List Byte → List (BitVec 32)
  | a :: b :: c :: d :: xs => (d ++ c ++ b ++ a) :: regWords xs
  | _ => []

/-- REGISTER_WRITE: aligned words, written in ascending order; before READY every register ignores them (R8). A write
at an offset that is no multiple of 4, and part of a word, are dropped: log entry 61 (DESIGN CHOICE). BAR 0 of virtual function
`n` stands at `n` times 4 GiB; a word it does not map is dropped. -/
def execRegisterWrite (off : Nat) (bytes : List Byte) (s : State) : Out :=
  if !s.board.ready || off % 4 != 0 then .next s
  else .next ((regWords bytes).zipIdx.foldl (fun s w =>
    let o := off % 2 ^ 32 + 4 * w.2
    if s.maps (off / 2 ^ 32) o then s.writeWord o w.1 else s) s)

/-! ### Reads -/

/-- A field at a bit position of a word. -/
def regField {n : Nat} (pos : Nat) (x : BitVec n) : BitVec 32 := (x.setWidth 32) <<< pos
def regFlag (pos : Nat) (b : Bool) : BitVec 32 := if b then 1#32 <<< pos else 0

/-- HB_STATUS (Table 19.2). -/
def Board.status (b : Board) : BitVec 32 :=
  regFlag 0 b.ready ||| regFlag 1 b.zeroed ||| regFlag 2 b.thermOff ||| regField 4 b.stage ||| regField 8 b.err ||| regField 16 b.dieOk

def Walker.read (x : Walker) (o : Nat) : BitVec 32 :=
  if o < 0x1000 then
    let q := (x.queues[o / 64]?).getD {}
    match o % 64 with
    | 0x00 => half false q.base
    | 0x04 => half true q.base
    | 0x08 => regFlag 0 q.en ||| regField 1 q.log2n ||| regField 8 q.fn ||| regField 16 q.asid
    | 0x10 => q.head
    | 0x14 => regFlag 0 q.overrun ||| regFlag 1 q.ringFault ||| regField 8 q.lastReason
    | _ => 0
  else if 0x10000 ≤ o ∧ o < 0x18000 then
    let c := (x.counters.find? fun c => c.idx == (o - 0x10000) / 8).getD { idx := 0 }
    if o % 8 = 0 then regField 0 c.count ||| regFlag 31 c.err else c.target
  else 0

def PageEngine.read (p : PageEngine) (o : Nat) : BitVec 32 :=
  match o with
  | 0x00 | 0x04 => half (o == 4) p.ctx
  | 0x08 | 0x0C => half (o == 0x0C) p.fqBase
  | 0x10 => regField 0 p.log2n ||| regFlag 4 p.en
  | 0x14 => p.tail
  | 0x18 => p.head
  | 0x28 => regFlag 0 p.cmd.isSome ||| regField 8 p.status
  | _ => if 0x30 ≤ o ∧ o < 0x48 then regField 0 ((p.free[(o - 0x30) / 4]?).getD 0) else 0

def State.readSails (s : State) (o : Nat) : BitVec 32 :=
  let r := s.sailRegs
  if o < 0x20 then (let p := (r.pasid[o / 4]?).getD (0, false); regField 0 p.1 ||| regFlag 16 p.2)
  else if o = 0x28 then regFlag 0 r.busy ||| regField 8 r.status
  else if 0x30 ≤ o ∧ o < 0x48 then BitVec.ofNat 32 (s.freeCount ((o - 0x30) / 4))
  else if o = 0x48 then regField 0 r.faild
  else 0

def State.readFabric (s : State) (o : Nat) : BitVec 32 :=
  let f := s.fabric
  if o = 0x00 then regField 0 f.devid
  else if o = 0x04 then regField 0 f.timeout
  else if 0x08 ≤ o ∧ o < 0x20 then regField 0 (s.die ((o - 0x08) / 4)).inc
  else if o = 0x20 then regField 0 f.hubInc
  else if o = 0x24 then regField 0 f.minc
  else if o = 0x2C then regFlag 0 f.resetBusy ||| regField 1 f.resetDie
  else if o = 0x30 ∨ o = 0x34 then half (o == 0x34) f.route
  else if o = 0x38 ∨ o = 0x3C then half (o == 0x3C) f.pacl
  else if 0x100 ≤ o ∧ o < 0x1C0 then
    let p := (f.ports[(o - 0x100) / 16]?).getD {}
    match o % 16 with
    | 0 => regFlag 0 p.en ||| regFlag 1 p.dateline
    | 4 => regFlag 0 p.up ||| regFlag 1 p.down ||| regField 8 p.nbr
    | 8 => p.replays
    | _ => 0
  else 0

def State.readKnit (s : State) (o : Nat) : BitVec 32 :=
  if o < 8 then half (o == 4) s.knit.hash
  else if o = 0x0C then regField 16 s.knit.evicted
  else if 0x10 ≤ o ∧ o < 0x28 then BitVec.ofNat 32 ((s.die ((o - 0x10) / 4)).storeBytes / 1024)
  else 0

def State.readTrace (s : State) (o : Nat) : BitVec 32 :=
  let t := s.trace
  match o with
  | 0x00 | 0x04 => half (o == 4) t.ctx
  | 0x08 => regField 0 t.sample
  | 0x0C => regFlag 0 t.locked ||| regField 1 t.offs
  | 0x10 => regField 0 t.kdbgAsid ||| regFlag 16 t.kdbg
  | 0x18 => regField 0 t.lossWr ||| regFlag 31 t.lossOvf
  | 0x1C => regField 0 t.lossRd
  | _ =>
    if 0x100 ≤ o ∧ o < 0x300 then wordAt ((t.pages[(o - 0x100) / 32]?).getD {}).sel (o % 32)
    else if 0x1000 ≤ o ∧ o < 0x5000 then BitVec.ofNat 32 (s.natAt (flatHub (o - 0x1000)) 4)
    else 0

def Security.read (x : Security) (o : Nat) : BitVec 32 :=
  if o = 0x04 then
    regFlag 0 x.done ||| regFlag 1 x.job.isSome ||| regField 8 x.err ||| regFlag 16 x.unlocked ||| regField 17 x.fails
      ||| regFlag 19 x.lockout
  else if o = 0x08 ∨ o = 0x0C then half (o == 0x0C) x.repAddr
  else if o = 0x10 ∨ o = 0x14 then half (o == 0x14) x.serial
  else if o = 0x18 then regField 0 x.certLen
  else if 0x20 ≤ o ∧ o < 0x40 then wordAt x.nonce (o - 0x20)
  else if 0x40 ≤ o ∧ o < 0x60 then wordAt x.chal (o - 0x40)
  else if 0x1000 ≤ o ∧ o < 0x2000 then wordAt x.cert (o - 0x1000)
  else 0

/-- What a read of the word at an offset of BAR 0 of the physical function finds: before READY only HB_STATUS reads (R8);
reserved fields and what no table names read zero (R9). The latching of SEC_CHAL is a row of the opcode table. -/
def State.readWord (s : State) (off : Nat) : BitVec 32 :=
  if off = 0 then s.board.status
  else if !s.board.ready then 0
  else
    match off / 0x10000 with
    | 0x0200 | 0x0201 => s.walker.read (off - 0x02000000)
    | 0x0204 => s.pages.read (off % 0x10000)
    | 0x0205 => s.readSails (off % 0x10000)
    | 0x0206 => s.readFabric (off % 0x10000)
    | 0x0207 => s.readKnit (off % 0x10000)
    | 0x0208 =>
      (match off % 0x10000 with
      | 0x00 => half false s.chain.ctx
      | 0x04 => half true s.chain.ctx
      | 0x08 => s.chain.drop
      | 0x0C => s.chain.walk
      | _ => 0)
    | 0x0209 => s.readTrace (off % 0x10000)
    | 0 =>
      if 0x100 ≤ off ∧ off < 0x118 then
        let d := s.die ((off - 0x100) / 4)
        regField 0 (BitVec.ofNat 2 d.req) ||| regField 4 (BitVec.ofNat 2 d.cur) ||| regFlag 6 d.therm
      else if off = 0x120 then regField 0 s.board.pcap
      else if off = 0x124 then regField 0 s.board.power
      else if 0x2000 ≤ off ∧ off < 0x4000 then s.security.read (off - 0x2000)
      else 0
    | _ => 0

/-- What a read through a function's BAR 0 finds (R76): what it does not map reads zero (log entry 61, DESIGN CHOICE). -/
def State.readVia (s : State) (fn off : Nat) : BitVec 32 := if s.maps fn off then s.readWord off else 0

end Sys2Proof.Machine
end

