-- ==== Sys2Proof/Machine/SailEvents.lean ====
section
/-! DEFINITION. What the sail controller does on its own: sweeps, drains, and the commands of SL_CMD (spec/13_sail_engine.md
R360 to R363, R368). -/
namespace Sys2Proof.Machine

/-- The sail a number names: an id, or from 1,000 on a cluster's. -/
def sailKeyOf (n : Nat) : SailKey := if n < 1000 then .sys n else .cluster (n - 1000)

/-- The streams that wait for a sail are handed the controller's reference (R357). -/
def State.sailEnded (s : State) (k : SailKey) (die : Nat) : State :=
  let ref := s.terminalRef (if die < 6 then die else 3) 255 6
  { s with cores := s.cores.map fun c => { c with team := c.team.map fun t => t.handOut (.sail k.num) (some (ref, 0)) } }

/-- SWEEP_PANEL (R361): the sweep of a panel ends when its cycles have passed and the bytes it sent onward have performed at
the next point: its displaced lines are dropped, and the next panel's sweep begins. After the last panel the new list is in
force and the part is STEADY. -/
def execSweepPanel (sail die : Nat) (s : State) : Out :=
  let k := sailKeyOf sail
  match s.sail? k with
  | none => .next s
  | some x =>
    match x.part? die with
    | none => .next s
    | some p =>
      if (p.phase != .shaking && p.phase != .reefing) || p.sweepLeft != 0 then .next s
      else
        let s := s.cleanLines k die (s.sailCore k) (displacedIn x)
        if s.linesLeaving k die (displacedIn x) then .next s
        else
          let s := s.dropLines k die (displacedIn x)
          if p.swept + 1 < p.panels.length then
            let s := s.modSail k fun x => x.modPart die fun p => { p with swept := p.swept + 1, sweeping := false }
            .next (s.beginSweep k die (s.sailCore k))
          else
            let s := (s.noteSail k).modSail k fun x => x.modPart die fun p =>
              { p with phase := .steady, panels := p.next, next := [], swept := 0, sweeping := false }
            .next (s.sailEnded k die)

/-- A lane of an access that was accepted for a part of a sail and has not performed (R362). -/
def State.acceptedAt (s : State) (k : SailKey) (die : Nat) (a : Acc) (l : AccLane) : Bool :=
  l.pending && !a.isLocal && match k with
    | .sys id => l.sail == id && l.home == die
    | .cluster _ => !a.wb && decide (a.scope ≤ 1) && (s.sailCores k).contains (coreOf a.ref)

/-- DRAIN_COMPLETE (R360, R362): once the accesses accepted before the drop are done, every line of the part is written
back, and dropped when the bytes have performed; its panels are free, and the sail is undefined there. -/
def execDrainComplete (sail die : Nat) (s : State) : Out :=
  let k := sailKeyOf sail
  match s.sail? k with
  | none => .next s
  | some x =>
    match x.part? die with
    | none => .next s
    | some p =>
      if p.phase != .draining || s.flights.any (fun a => a.lanes.any (s.acceptedAt k die a)) then .next s
      else
        let s := s.cleanLines k die (s.sailCore k) fun _ _ => true
        if s.linesLeaving k die fun _ _ => true then .next s
        else
          let s := ((s.noteSail k).dropLines k die fun _ _ => true).modSail k fun x =>
            { x with parts := x.parts.filter fun q => q.die != x.partDie die }
          let s := { s with sails := s.sails.filter fun x => x.parts != [] }
          .next (s.sailEnded k die)

/-! ### Resail (R363) -/

/-- A page's accesses in flight that have not reached the old sail are refused with SAIL_MOVED. -/
def State.refusePage (s : State) (flat n : Nat) : State :=
  let mine (l : AccLane) : Bool := l.stage == .sent && decide (flat ≤ l.pa) && decide (l.pa < flat + n)
  let hit (a : Acc) : Bool := !a.wb && !a.isLocal && a.lanes.any mine
  let s := (s.flights.filter hit).foldl (fun s a => s.teamEvent (coreOf a.ref) a.ref.idx 0x30 a.pos) s
  { s with flights := s.flights.map fun a =>
      if hit a then { a with lanes := a.lanes.map fun l => if mine l then { l with stage := .refused } else l } else a }

/-- Moves the pages of a resail, in order, as far as it can: a page that is migrating, or whose lines are in a round or
being written back, makes it wait. -/
def State.resailPages (s : State) (r : Resail) : Nat → List (Nat × Nat) → State
  | 0, _ => s
  | _, [] =>
    let s := s.writeBytes (flatHost (r.recAddr + 24)) [0]
    { s with sailRegs := { s.sailRegs with resail := none, busy := false, status := 0 } }
  | fuel + 1, (va, at_) :: rest =>
    let wait (s : State) : State :=
      { s with sailRegs := { s.sailRegs with resail := some { r with todo := (va, at_) :: rest } } }
    let e := s.natAt at_ 8
    let n := match (s.walk 7 r.asid va).1 with
      | .leaf f _ => f.bytes
      | _ => 65536
    let flat := leafFlat e
    if leafMov e then wait s
    else
      let s := (s.shoot r.asid va (va + n)).drainPage flat n
      let rounds := s.flights.any fun a => a.lanes.any fun l =>
        l.stage == .round && decide (flat ≤ l.pa) && decide (l.pa < flat + n)
      if rounds || s.pageBusy flat n then wait s
      else
        let s := (s.evictPage (leafSail e) flat n).refusePage flat n
        let s := s.writeEntry at_ (e - bits e 23 16 * 2 ^ 16 + r.sail * 2 ^ 16)
        s.resailPages r fuel rest

/-- Goes on with a resail in progress. -/
def State.resailGo (s : State) : State :=
  match s.sailRegs.resail with
  | none => s
  | some r => s.resailPages r (r.todo.length + 1) r.todo

/-! ### SL_CMD (R368) -/

/-- Ends a command with a status. -/
def State.sailCmdDone (s : State) (rec : BitVec 64) (status : Nat) : State :=
  let s := s.writeBytes (flatHost (rec.toNat + 24)) [BitVec.ofNat 8 status]
  { s with sailRegs := { s.sailRegs with status := BitVec.ofNat 8 status } }

/-- Performs a command of the operation a row stands for, unless one is running or the module is not ready; a record with
no operation is invalid. -/
def sailCommand (want : Nat) (rec : BitVec 64) (s : State) (act : (Nat → Nat → Nat) → Nat × State) : Out :=
  let b (k n : Nat) : Nat := s.natAt (flatHost (rec.toNat + k)) n
  if !s.board.ready || s.sailRegs.busy || (b 0 2 ≤ 4 && b 0 2 != want) then .next s
  else if 4 < b 0 2 then .next (s.sailCmdDone rec 5)
  else
    let r := act b
    .next (r.2.sailCmdDone rec r.1)

/-- The sail holds panels on a die (R363). -/
def State.sailServes (s : State) (id die : Nat) : Bool :=
  match (s.sail? (.sys id)).bind fun x => x.part? die with
  | some p => p.panels != []
  | none => false

/-- SL_CMD, OP 0 (R363). -/
def execSlCmdResail (rec : BitVec 64) (s : State) : Out :=
  let b (k n : Nat) : Nat := s.natAt (flatHost (rec.toNat + k)) n
  if !s.board.ready || s.sailRegs.busy || (b 0 2 ≤ 4 && b 0 2 != 0) then .next s
  else if 4 < b 0 2 then .next (s.sailCmdDone rec 5)
  else
    let va := b 8 8
    let id := b 16 1
    let leaves := (s.leavesIn (b 2 2) (va + 65536 * b 4 4) (b 4 4) va).filterMap fun x => x
    let home (e : Nat) : Nat := match s.sail? (.sys id) with
      | some x => x.homeOf (entryLoc e) (entryDie e)
      | none => 0
    if !(leaves.all fun f => s.sailServes id (home f.1.entry)) || (s.sail? (.sys id)).isNone then .next (s.sailCmdDone rec 3)
    else
      let r : Resail := { asid := b 2 2, sail := id, recAddr := rec.toNat, todo := leaves.map fun f => (f.1.base, f.2) }
      .next { s with sailRegs := { s.sailRegs with resail := some r, busy := true } }.resailGo

/-- SL_CMD, OP 1: the sail record stands at a physical address. -/
def execSlCmdDefine (rec : BitVec 64) (s : State) : Out :=
  sailCommand 1 rec s fun b => s.sailDefine (s.bytesAt (flatHost (b 8 8)) 64)

/-- SL_CMD, OP 2. -/
def execSlCmdDrop (rec : BitVec 64) (s : State) : Out :=
  sailCommand 2 rec s fun b => s.sailDrop (.sys (b 16 1)) (b 16 1)

/-- SL_CMD, OP 3. -/
def execSlCmdReef (rec : BitVec 64) (s : State) : Out :=
  sailCommand 3 rec s fun b => s.sailReef (.sys (b 16 1)) (b 16 1) (b 17 1) (b 4 4) hubCore

/-- SL_CMD, OP 4. -/
def execSlCmdShake (rec : BitVec 64) (s : State) : Out :=
  sailCommand 4 rec s fun b => s.sailShake (.sys (b 16 1)) (b 16 1) (b 17 1) (b 4 4) (b 18 1) hubCore

end Sys2Proof.Machine
end

