-- ==== Sys2Proof/Machine/TraceEvents.lean ====
section
/-! DEFINITION. The trace and sampling engine's own steps (spec/18_trace_sampling_debug.md): samples, the banks of the
multiplexed counters, the registers of kernel debug, and the PTP timebase. -/
namespace Sys2Proof.Machine

/-! ### Samples (R466) -/

/-- The stall reason of a wait (Table 18.2). Waits for the completion of accesses count with the counters. -/
def Wait.reason : Wait → Nat
  | .push _ | .pop _ => 3
  | .tokPush _ | .tokPop _ => 4
  | .rdv _ | .bar _ _ | .cbar _ _ | .regroup _ => 5
  | .counter _ _ | .room _ | .fence _ | .copyMatrix | .order => 6
  | .engineRoom _ | .ring _ | .slot _ => 7
  | .translation => 8
  | .page => 9
  | .rsPush _ _ | .rsPop _ _ | .flags | .phase | .sail _ => 13
  | .held => 14

/-- The reason of a native stream that nothing blocks. -/
def Cx.nativeReason (c : Cx) (u : Translation) : Nat :=
  if c.st.delay ≠ 0 then 1
  else
    match u.bundle c.st.bundle with
    | none => 0
    | some b =>
      if c.stalled b || decide (16 < c.fixedCount b) then 2
      else if c.st.demoted then 10
      else if (c.s.core c.core).admits (c.s.die c.r.die).isB b.port then 0
      else 11

/-- The stall reason of a stream in this cycle (Table 18.2, R474). -/
def Cx.stallReason (c : Cx) : Nat :=
  if c.st.finished then 15
  else if c.t.trapped.isSome || c.st.stop != .running || c.t.saving then 14
  else if c.st.parked.isSome then 9
  else if c.st.idle = 0 then 0
  else
    match c.st.wait with
    | some w => w.reason
    | none =>
      if c.st.sleep ≠ 0 || c.st.yielded then 12
      else if c.t.change.isSome then 13
      else
        match c.t.unitOf c.r.idx with
        | none => 8
        | some u => if c.st.native then c.nativeReason u else if c.st.demoted then 10 else 0

/-- The cycles between two samples of a core. -/
def State.samplePeriod (s : State) : Nat := Nat.max s.trace.sample.toNat 4096

/-- Applies a change to a partition's counter page. -/
def State.modPage (s : State) (part : Nat) (f : CounterPage → CounterPage) : State :=
  { s with trace := { s.trace with pages := modAt s.trace.pages part f } }

/-- SAMPLE: the core writes a sample of its next stream, in ascending index. -/
def execSample (c : CoreRef) (s : State) : Out :=
  match s.team? c with
  | none => .next s
  | some t =>
    match s.traceBuf t.asid with
    | some (_, _, true) =>
      let k := s.core c
      if k.sampleAge < s.samplePeriod then .next s
      else
        let all := List.range t.groups.length ++ [32]
        let idx := (all[k.sampleTurn % all.length]?).getD 32
        match t.stream? idx with
        | none => .next s
        | some st =>
          let reason := Cx.stallReason ⟨s, ⟨c.die, c.core, idx⟩, t, st⟩
          let s := s.traceWrite { type := 1, code := reason, core := c, stream := idx, asid := t.asid
                                  pos := t.standsAt idx st, payload := toBytes 4 st.active.toNat }
          let s := s.modPage (s.partOf t.launch) fun p => { p with reasons := addCount reason 1 p.reasons }
          .next (s.modCore c fun k => { k with sampleAge := 0, sampleTurn := (k.sampleTurn + 1) % all.length })
    | _ => .next s

/-! ### Multiplexed counters (R468) -/

/-- A bank of selectors holds an enabled one. -/
def CounterPage.bankOn (p : CounterPage) (b : Nat) : Bool :=
  ((p.sel.drop (8 * b)).take 8).any fun x => 128 ≤ x.toNat

/-- The next bank that counts, after a given one, with wrap. -/
def CounterPage.nextBank (p : CounterPage) : Nat :=
  (([1, 2, 3, 4].map fun k => (p.bank + k) % 4).find? p.bankOn).getD p.bank

/-- After 2^20 cycles the next bank counts. -/
def CounterPage.switch (p : CounterPage) : CounterPage :=
  if p.elapsed < 1048576 then p else { p with bank := p.nextBank, elapsed := 0 }

/-- MUX_BANK_SWITCH: after 2^20 cycles of die 0's clock the next bank counts. -/
def execMuxBankSwitch (part : Nat) (s : State) : Out := .next (s.modPage part CounterPage.switch)

/-- A selector byte is written: both of its words are zero; a bank left without an enabled selector is skipped. -/
def CounterPage.select (p : CounterPage) (sel : Nat) (b : Byte) : CounterPage :=
  let muxed := p.muxed.filter fun x => x.1 != 2 * sel && x.1 != 2 * sel + 1
  let p := { p with sel := setAt p.sel sel (b &&& 0xBF), muxed := muxed }
  if p.bankOn p.bank then p else { p with bank := p.nextBank, elapsed := 0 }

/-- TR_MUX. -/
def execTrMux (part sel : Nat) (b : Byte) (s : State) : Out :=
  if !s.board.ready || decide (32 ≤ sel) then .next s else .next (s.modPage part fun p => p.select sel b)

/-! ### Kernel debug (R471) -/

/-- TR_KDBG: EN 0 releases the held teams. -/
def execTrKdbg (w : BitVec 32) (s : State) : Out :=
  if !s.board.ready then .next s
  else
    let s := { s with trace := { s.trace with kdbgAsid := w.truncate 16, kdbg := w.getLsbD 16 } }
    if w.getLsbD 16 then .next s
    else
      let held := (s.cores.filterMap fun k => k.team.bind fun t => if t.trapped.isSome then some t.asid else none).eraseDups
      .next (held.foldl (fun s a => s.releaseHeld a) s)

/-- TR_DSTOP: a stream of the unlocked address space is asked to stop (R409). -/
def execTrDstop (w : BitVec 32) (s : State) : Out :=
  if !s.board.ready || !w.getLsbD 31 then .next s
  else
    let r : StreamRef := ⟨(w.extractLsb' 0 3).toNat, (w.extractLsb' 3 8).toNat, (w.extractLsb' 11 6).toNat⟩
    match s.team? (coreOf r) with
    | some t =>
      if s.kdbgFor t.asid then
        .next (s.modStream r fun st => if st.stop = .running && !st.finished then { st with stop := .asked 0x73 } else st)
      else .next s
    | none => .next s

/-! ### The timebase (R461) -/

/-- PTP_MESSAGE: once locked, the timebase steps forward when it lies behind by 1 ms or more, and otherwise lets the
offset out as time passes. -/
def execPtpMessage (m : PtpOffset) (s : State) : Out :=
  let t := { s.trace with locked := m.lock, offs := BitVec.ofInt 31 m.offset }
  if !m.lock then .next { s with trace := t }
  else if m.offset ≤ -1000000 then
    .next { s with trace := { t with shift := t.shift - m.offset, slew := 0, half := false } }
  else .next { s with trace := { t with slew := m.offset, half := decide (1000000 ≤ m.offset) } }

/-- What of an offset is let out in some nanoseconds: half of them while at half rate, and otherwise 200 ppm. The
nanoseconds not yet used for it are kept. -/
def TraceRegs.pass (t : TraceRegs) (ns : Nat) : TraceRegs :=
  if t.slew = 0 then { t with slewAcc := 0, half := false }
  else
    let per := if t.half then 2 else 5000
    let n := Nat.min ((t.slewAcc + ns) / per) t.slew.natAbs
    let by_ : Int := if 0 < t.slew then n else -n
    { t with shift := t.shift - by_, slew := t.slew - by_, slewAcc := (t.slewAcc + ns) % per }

end Sys2Proof.Machine
end

