-- ==== Sys2Proof/Machine/Dispatch.lean ====
section
/-! DEFINITION. The meaning of every step of the machine, by constructor. -/
namespace Sys2Proof.Machine
open Sys2Proof

/-- Gives each constructor of `Instr` its meaning. -/
def exec (i : Instr) (s : State) : Host.Outcome State Fault Refusal :=
  match i with
  | .add ins => Sys2Proof.Machine.execAdd ins s
  | .addc ins => Sys2Proof.Machine.execAddc ins s
  | .sub ins => Sys2Proof.Machine.execSub ins s
  | .subb ins => Sys2Proof.Machine.execSubb ins s
  | .mul ins => Sys2Proof.Machine.execMul ins s
  | .mulhi ins => Sys2Proof.Machine.execMulhi ins s
  | .mulw ins => Sys2Proof.Machine.execMulw ins s
  | .mad ins => Sys2Proof.Machine.execMad ins s
  | .div ins => Sys2Proof.Machine.execDiv ins s
  | .rem ins => Sys2Proof.Machine.execRem ins s
  | .neg ins => Sys2Proof.Machine.execNeg ins s
  | .abs ins => Sys2Proof.Machine.execAbs ins s
  | .min ins => Sys2Proof.Machine.execMin ins s
  | .max ins => Sys2Proof.Machine.execMax ins s
  | .madhi ins => Sys2Proof.Machine.execMadhi ins s
  | .idot ins => Sys2Proof.Machine.execIdot ins s
  | .sad ins => Sys2Proof.Machine.execSad ins s
  | .and ins => Sys2Proof.Machine.execAnd ins s
  | .or ins => Sys2Proof.Machine.execOr ins s
  | .xor ins => Sys2Proof.Machine.execXor ins s
  | .not ins => Sys2Proof.Machine.execNot ins s
  | .tlut ins => Sys2Proof.Machine.execTlut ins s
  | .shl ins => Sys2Proof.Machine.execShl ins s
  | .shr ins => Sys2Proof.Machine.execShr ins s
  | .rotl ins => Sys2Proof.Machine.execRotl ins s
  | .rotr ins => Sys2Proof.Machine.execRotr ins s
  | .fshl ins => Sys2Proof.Machine.execFshl ins s
  | .fshr ins => Sys2Proof.Machine.execFshr ins s
  | .clz ins => Sys2Proof.Machine.execClz ins s
  | .ctz ins => Sys2Proof.Machine.execCtz ins s
  | .popc ins => Sys2Proof.Machine.execPopc ins s
  | .brev ins => Sys2Proof.Machine.execBrev ins s
  | .bfx ins => Sys2Proof.Machine.execBfx ins s
  | .bfi ins => Sys2Proof.Machine.execBfi ins s
  | .cmp ins => Sys2Proof.Machine.execCmp ins s
  | .cmpImm ins => Sys2Proof.Machine.execCmpImm ins s
  | .sel ins => Sys2Proof.Machine.execSel ins s
  | .ext ins => Sys2Proof.Machine.execExt ins s
  | .trunc ins => Sys2Proof.Machine.execTrunc ins s
  | .constant ins => Sys2Proof.Machine.execConstant ins s
  | .lea ins => Sys2Proof.Machine.execLea ins s
  | .ptradd ins => Sys2Proof.Machine.execPtradd ins s
  | .ptrdiff ins => Sys2Proof.Machine.execPtrdiff ins s
  | .ptrcvt ins => Sys2Proof.Machine.execPtrcvt ins s
  | .addImm ins => Sys2Proof.Machine.execAddImm ins s
  | .mulImm ins => Sys2Proof.Machine.execMulImm ins s
  | .andImm ins => Sys2Proof.Machine.execAndImm ins s
  | .orImm ins => Sys2Proof.Machine.execOrImm ins s
  | .xorImm ins => Sys2Proof.Machine.execXorImm ins s
  | .shlImm ins => Sys2Proof.Machine.execShlImm ins s
  | .shrImm ins => Sys2Proof.Machine.execShrImm ins s
  | .minImm ins => Sys2Proof.Machine.execMinImm ins s
  | .maxImm ins => Sys2Proof.Machine.execMaxImm ins s
  | .bitcast ins => Sys2Proof.Machine.execBitcast ins s
  | .cls ins => Sys2Proof.Machine.execCls ins s
  | .bswap ins => Sys2Proof.Machine.execBswap ins s
  | .bpick ins => Sys2Proof.Machine.execBpick ins s
  | .divImm ins => Sys2Proof.Machine.execDivImm ins s
  | .remImm ins => Sys2Proof.Machine.execRemImm ins s
  | .rotlImm ins => Sys2Proof.Machine.execRotlImm ins s
  | .bfxImm ins => Sys2Proof.Machine.execBfxImm ins s
  | .bfiImm ins => Sys2Proof.Machine.execBfiImm ins s
  | .mov ins => Sys2Proof.Machine.execMov ins s
  | .selImm ins => Sys2Proof.Machine.execSelImm ins s
  | .fadd ins => Sys2Proof.Machine.execFadd ins s
  | .fsub ins => Sys2Proof.Machine.execFsub ins s
  | .fmul ins => Sys2Proof.Machine.execFmul ins s
  | .fma ins => Sys2Proof.Machine.execFma ins s
  | .fnma ins => Sys2Proof.Machine.execFnma ins s
  | .fdiv ins => Sys2Proof.Machine.execFdiv ins s
  | .sqrt ins => Sys2Proof.Machine.execSqrt ins s
  | .rcp ins => Sys2Proof.Machine.execRcp ins s
  | .rsqrt ins => Sys2Proof.Machine.execRsqrt ins s
  | .fmin ins => Sys2Proof.Machine.execFmin ins s
  | .fmax ins => Sys2Proof.Machine.execFmax ins s
  | .fneg ins => Sys2Proof.Machine.execFneg ins s
  | .fabs ins => Sys2Proof.Machine.execFabs ins s
  | .copysign ins => Sys2Proof.Machine.execCopysign ins s
  | .fcmp ins => Sys2Proof.Machine.execFcmp ins s
  | .fclass ins => Sys2Proof.Machine.execFclass ins s
  | .cvtFF ins => Sys2Proof.Machine.execCvtFF ins s
  | .cvtFI ins => Sys2Proof.Machine.execCvtFI ins s
  | .cvtIF ins => Sys2Proof.Machine.execCvtIF ins s
  | .cvtToNf ins => Sys2Proof.Machine.execCvtToNf ins s
  | .cvtFromNf ins => Sys2Proof.Machine.execCvtFromNf ins s
  | .rnd ins => Sys2Proof.Machine.execRnd ins s
  | .fract ins => Sys2Proof.Machine.execFract ins s
  | .ldexp ins => Sys2Proof.Machine.execLdexp ins s
  | .frexp ins => Sys2Proof.Machine.execFrexp ins s
  | .exp2 ins => Sys2Proof.Machine.execExp2 ins s
  | .log2 ins => Sys2Proof.Machine.execLog2 ins s
  | .exp ins => Sys2Proof.Machine.execExp ins s
  | .log ins => Sys2Proof.Machine.execLog ins s
  | .sin ins => Sys2Proof.Machine.execSin ins s
  | .cos ins => Sys2Proof.Machine.execCos ins s
  | .sincos ins => Sys2Proof.Machine.execSincos ins s
  | .tanh ins => Sys2Proof.Machine.execTanh ins s
  | .sigm ins => Sys2Proof.Machine.execSigm ins s
  | .erf ins => Sys2Proof.Machine.execErf ins s
  | .gelu ins => Sys2Proof.Machine.execGelu ins s
  | .atan2 ins => Sys2Proof.Machine.execAtan2 ins s
  | .pow ins => Sys2Proof.Machine.execPow ins s
  | .cbrt ins => Sys2Proof.Machine.execCbrt ins s
  | .silu ins => Sys2Proof.Machine.execSilu ins s
  | .dot2 ins => Sys2Proof.Machine.execDot2 ins s
  | .pack2 ins => Sys2Proof.Machine.execPack2 ins s
  | .unpack2 ins => Sys2Proof.Machine.execUnpack2 ins s
  | .clamp ins => Sys2Proof.Machine.execClamp ins s
  | .lerp ins => Sys2Proof.Machine.execLerp ins s
  | .amax ins => Sys2Proof.Machine.execAmax ins s
  | .scx ins => Sys2Proof.Machine.execScx ins s
  | .scl ins => Sys2Proof.Machine.execScl ins s
  | .faddImm ins => Sys2Proof.Machine.execFaddImm ins s
  | .fmulImm ins => Sys2Proof.Machine.execFmulImm ins s
  | .fmaImm ins => Sys2Proof.Machine.execFmaImm ins s
  | .fminImm ins => Sys2Proof.Machine.execFminImm ins s
  | .fmaxImm ins => Sys2Proof.Machine.execFmaxImm ins s
  | .fcmpImm ins => Sys2Proof.Machine.execFcmpImm ins s
  | .clampImm ins => Sys2Proof.Machine.execClampImm ins s
  | .ldexpImm ins => Sys2Proof.Machine.execLdexpImm ins s
  | .dot4n ins => Sys2Proof.Machine.execDot4n ins s
  | .pack4 ins => Sys2Proof.Machine.execPack4 ins s
  | .unpack4 ins => Sys2Proof.Machine.execUnpack4 ins s
  | .rseed ins => Sys2Proof.Machine.execRseed ins s
  | .max3 ins => Sys2Proof.Machine.execMax3 ins s
  | .min3 ins => Sys2Proof.Machine.execMin3 ins s
  | .canon ins => Sys2Proof.Machine.execCanon ins s
  | .fmaw ins => Sys2Proof.Machine.execFmaw ins s
  | .ldL ins => Sys2Proof.Machine.execLdL ins s
  | .ldG ins => Sys2Proof.Machine.execLdG ins s
  | .ldLPi ins => Sys2Proof.Machine.execLdLPi ins s
  | .ldGPi ins => Sys2Proof.Machine.execLdGPi ins s
  | .stL ins => Sys2Proof.Machine.execStL ins s
  | .stG ins => Sys2Proof.Machine.execStG ins s
  | .stLPi ins => Sys2Proof.Machine.execStLPi ins s
  | .stGPi ins => Sys2Proof.Machine.execStGPi ins s
  | .ldLX2 ins => Sys2Proof.Machine.execLdLX2 ins s
  | .ldGX2 ins => Sys2Proof.Machine.execLdGX2 ins s
  | .ldLX4 ins => Sys2Proof.Machine.execLdLX4 ins s
  | .ldGX4 ins => Sys2Proof.Machine.execLdGX4 ins s
  | .stLX2 ins => Sys2Proof.Machine.execStLX2 ins s
  | .stGX2 ins => Sys2Proof.Machine.execStGX2 ins s
  | .stLX4 ins => Sys2Proof.Machine.execStLX4 ins s
  | .stGX4 ins => Sys2Proof.Machine.execStGX4 ins s
  | .pf ins => Sys2Proof.Machine.execPf ins s
  | .fence ins => Sys2Proof.Machine.execFence ins s
  | .tagLk ins => Sys2Proof.Machine.execTagLk ins s
  | .tagSet ins => Sys2Proof.Machine.execTagSet ins s
  | .tagClr ins => Sys2Proof.Machine.execTagClr ins s
  | .tagClrAll ins => Sys2Proof.Machine.execTagClrAll ins s
  | .ldc ins => Sys2Proof.Machine.execLdc ins s
  | .l1Inv ins => Sys2Proof.Machine.execL1Inv ins s
  | .pfL1 ins => Sys2Proof.Machine.execPfL1 ins s
  | .atomAdd ins => Sys2Proof.Machine.execAtomAdd ins s
  | .atomAddFloat ins => Sys2Proof.Machine.execAtomAddFloat ins s
  | .atomMin ins => Sys2Proof.Machine.execAtomMin ins s
  | .atomMax ins => Sys2Proof.Machine.execAtomMax ins s
  | .atomAnd ins => Sys2Proof.Machine.execAtomAnd ins s
  | .atomOr ins => Sys2Proof.Machine.execAtomOr ins s
  | .atomXor ins => Sys2Proof.Machine.execAtomXor ins s
  | .atomExch ins => Sys2Proof.Machine.execAtomExch ins s
  | .atomCas ins => Sys2Proof.Machine.execAtomCas ins s
  | .atomCasX2 ins => Sys2Proof.Machine.execAtomCasX2 ins s
  | .atomInc ins => Sys2Proof.Machine.execAtomInc ins s
  | .atomDec ins => Sys2Proof.Machine.execAtomDec ins s
  | .redAdd ins => Sys2Proof.Machine.execRedAdd ins s
  | .redAddFloat ins => Sys2Proof.Machine.execRedAddFloat ins s
  | .redAnd ins => Sys2Proof.Machine.execRedAnd ins s
  | .redOr ins => Sys2Proof.Machine.execRedOr ins s
  | .redXor ins => Sys2Proof.Machine.execRedXor ins s
  | .redMin ins => Sys2Proof.Machine.execRedMin ins s
  | .redMax ins => Sys2Proof.Machine.execRedMax ins s
  | .ballot ins => Sys2Proof.Machine.execBallot ins s
  | .ballotAt ins => Sys2Proof.Machine.execBallotAt ins s
  | .ballotCol ins => Sys2Proof.Machine.execBallotCol ins s
  | .vote ins => Sys2Proof.Machine.execVote ins s
  | .shfl ins => Sys2Proof.Machine.execShfl ins s
  | .bfly ins => Sys2Proof.Machine.execBfly ins s
  | .matchLanes ins => Sys2Proof.Machine.execMatchLanes ins s
  | .gred ins => Sys2Proof.Machine.execGred ins s
  | .gscan ins => Sys2Proof.Machine.execGscan ins s
  | .rsPush ins => Sys2Proof.Machine.execRsPush ins s
  | .rsPop ins => Sys2Proof.Machine.execRsPop ins s
  | .regroup ins => Sys2Proof.Machine.execRegroup ins s
  | .gredFloat ins => Sys2Proof.Machine.execGredFloat ins s
  | .gscanFloat ins => Sys2Proof.Machine.execGscanFloat ins s
  | .shflImm ins => Sys2Proof.Machine.execShflImm ins s
  | .bflyImm ins => Sys2Proof.Machine.execBflyImm ins s
  | .rsCnt ins => Sys2Proof.Machine.execRsCnt ins s
  | .elect ins => Sys2Proof.Machine.execElect ins s
  | .blk ins => Sys2Proof.Machine.execBlk ins s
  | .br ins => Sys2Proof.Machine.execBr ins s
  | .brc ins => Sys2Proof.Machine.execBrc ins s
  | .brt ins => Sys2Proof.Machine.execBrt ins s
  | .call ins => Sys2Proof.Machine.execCall ins s
  | .ret ins => Sys2Proof.Machine.execRet ins s
  | .endStream ins => Sys2Proof.Machine.execEndStream ins s
  | .rdv ins => Sys2Proof.Machine.execRdv ins s
  | .bar ins => Sys2Proof.Machine.execBar ins s
  | .cbar ins => Sys2Proof.Machine.execCbar ins s
  | .qpush ins => Sys2Proof.Machine.execQpush ins s
  | .qpop ins => Sys2Proof.Machine.execQpop ins s
  | .tokPush ins => Sys2Proof.Machine.execTokPush ins s
  | .tokPop ins => Sys2Proof.Machine.execTokPop ins s
  | .wait ins => Sys2Proof.Machine.execWait ins s
  | .sreg ins => Sys2Proof.Machine.execSreg ins s
  | .modeSet ins => Sys2Proof.Machine.execModeSet ins s
  | .modeGet ins => Sys2Proof.Machine.execModeGet ins s
  | .phase ins => Sys2Proof.Machine.execPhase ins s
  | .launch ins => Sys2Proof.Machine.execLaunch ins s
  | .trap ins => Sys2Proof.Machine.execTrap ins s
  | .trapValue ins => Sys2Proof.Machine.execTrapValue ins s
  | .brk ins => Sys2Proof.Machine.execBrk ins s
  | .yield ins => Sys2Proof.Machine.execYield ins s
  | .sleep ins => Sys2Proof.Machine.execSleep ins s
  | .qtry ins => Sys2Proof.Machine.execQtry ins s
  | .qoffer ins => Sys2Proof.Machine.execQoffer ins s
  | .tokCnt ins => Sys2Proof.Machine.execTokCnt ins s
  | .cntRd ins => Sys2Proof.Machine.execCntRd ins s
  | .nop ins => Sys2Proof.Machine.execNop ins s
  | .flagsClr ins => Sys2Proof.Machine.execFlagsClr ins s
  | .barArv ins => Sys2Proof.Machine.execBarArv ins s
  | .barWt ins => Sys2Proof.Machine.execBarWt ins s
  | .mxNest ins => Sys2Proof.Machine.execMxNest ins s
  | .mxGo ins => Sys2Proof.Machine.execMxGo ins s
  | .mxLay ins => Sys2Proof.Machine.execMxLay ins s
  | .mxZero ins => Sys2Proof.Machine.execMxZero ins s
  | .mxLoad ins => Sys2Proof.Machine.execMxLoad ins s
  | .mxStore ins => Sys2Proof.Machine.execMxStore ins s
  | .mxSpec ins => Sys2Proof.Machine.execMxSpec ins s
  | .mxCommit ins => Sys2Proof.Machine.execMxCommit ins s
  | .mxDrop ins => Sys2Proof.Machine.execMxDrop ins s
  | .mxFw ins => Sys2Proof.Machine.execMxFw ins s
  | .mxMma ins => Sys2Proof.Machine.execMxMma ins s
  | .mxConf ins => Sys2Proof.Machine.execMxConf ins s
  | .mxSclay ins => Sys2Proof.Machine.execMxSclay ins s
  | .mxTcopy ins => Sys2Proof.Machine.execMxTcopy ins s
  | .mxTadd ins => Sys2Proof.Machine.execMxTadd ins s
  | .mxStat ins => Sys2Proof.Machine.execMxStat ins s
  | .cpDesc ins => Sys2Proof.Machine.execCpDesc ins s
  | .cpLd ins => Sys2Proof.Machine.execCpLd ins s
  | .cpSt ins => Sys2Proof.Machine.execCpSt ins s
  | .cpGg ins => Sys2Proof.Machine.execCpGg ins s
  | .cpRed ins => Sys2Proof.Machine.execCpRed ins s
  | .cpFill ins => Sys2Proof.Machine.execCpFill ins s
  | .cpBcast ins => Sys2Proof.Machine.execCpBcast ins s
  | .cpGat ins => Sys2Proof.Machine.execCpGat ins s
  | .cpSct ins => Sys2Proof.Machine.execCpSct ins s
  | .cpFence ins => Sys2Proof.Machine.execCpFence ins s
  | .cpRes ins => Sys2Proof.Machine.execCpRes ins s
  | .cpStat ins => Sys2Proof.Machine.execCpStat ins s
  | .chStep ins => Sys2Proof.Machine.execChStep ins s
  | .chMark ins => Sys2Proof.Machine.execChMark ins s
  | .trStart ins => Sys2Proof.Machine.execTrStart ins s
  | .trStop ins => Sys2Proof.Machine.execTrStop ins s
  | .trEmit ins => Sys2Proof.Machine.execTrEmit ins s
  | .ctrRd ins => Sys2Proof.Machine.execCtrRd ins s
  | .sailDef ins => Sys2Proof.Machine.execSailDef ins s
  | .sailReef ins => Sys2Proof.Machine.execSailReef ins s
  | .sailShake ins => Sys2Proof.Machine.execSailShake ins s
  | .sailDrop ins => Sys2Proof.Machine.execSailDrop ins s
  | .sailQuery ins => Sys2Proof.Machine.execSailQuery ins s
  | .sailWb ins => Sys2Proof.Machine.execSailWb ins s
  | .bundleIssue r => Sys2Proof.Machine.execBundleIssue r s
  | .streamStop r => Sys2Proof.Machine.execStreamStop r s
  | .translation die row => Sys2Proof.Machine.execTranslation die row s
  | .translationComplete die row => Sys2Proof.Machine.execTranslationComplete die row s
  | .teCmdEvictHash w => Sys2Proof.Machine.execTeCmdEvictHash w s
  | .teCmdEvictAll w => Sys2Proof.Machine.execTeCmdEvictAll w s
  | .lwQdb q tail => Sys2Proof.Machine.execLwQdb q tail s
  | .lwQcfg q w => Sys2Proof.Machine.execLwQcfg q w s
  | .lwQstat q w => Sys2Proof.Machine.execLwQstat q w s
  | .launchRecordCopy q => Sys2Proof.Machine.execLaunchRecordCopy q s
  | .clusterPlacement launch => Sys2Proof.Machine.execClusterPlacement launch s
  | .teamRetire c => Sys2Proof.Machine.execTeamRetire c s
  | .lwCcCount ins a => Sys2Proof.Machine.execLwCcCount ins a s
  | .lwPreempt w => Sys2Proof.Machine.execLwPreempt w s
  | .preemptWaitTimeout launch => Sys2Proof.Machine.execPreemptWaitTimeout launch s
  | .preemptSave c => Sys2Proof.Machine.execPreemptSave c s
  | .clusterResume cluster => Sys2Proof.Machine.execClusterResume cluster s
  | .teamStall c => Sys2Proof.Machine.execTeamStall c s
  | .heldCompletionRelease c queue => Sys2Proof.Machine.execHeldCompletionRelease c queue s
  | .sleepExpire r => Sys2Proof.Machine.execSleepExpire r s
  | .cbarFarMessage cluster k toDie => Sys2Proof.Machine.execCbarFarMessage cluster k toDie s
  | .phaseDrain c => Sys2Proof.Machine.execPhaseDrain c s
  | .phaseDrainEnd c => Sys2Proof.Machine.execPhaseDrainEnd c s
  | .loadReturn id => Sys2Proof.Machine.execLoadReturn id s
  | .storeAck id => Sys2Proof.Machine.execStoreAck id s
  | .coalesceTimeout c line => Sys2Proof.Machine.execCoalesceTimeout c line s
  | .atomicRequest id lane => Sys2Proof.Machine.execAtomicRequest id lane s
  | .atomicResult id => Sys2Proof.Machine.execAtomicResult id s
  | .freeNotice r => Sys2Proof.Machine.execFreeNotice r s
  | .atomicopCompletion id lane a => Sys2Proof.Machine.execAtomicopCompletion id lane a s
  | .pcieCompletionTimeout id lane => Sys2Proof.Machine.execPcieCompletionTimeout id lane s
  | .chunkStart c queue => Sys2Proof.Machine.execChunkStart c queue s
  | .chunkLand c cmd chunk => Sys2Proof.Machine.execChunkLand c cmd chunk s
  | .mxqHeadStart c => Sys2Proof.Machine.execMxqHeadStart c s
  | .mxCommandComplete c => Sys2Proof.Machine.execMxCommandComplete c s
  | .batchClose die => Sys2Proof.Machine.execBatchClose die s
  | .batchWrite die => Sys2Proof.Machine.execBatchWrite die s
  | .pgResolve w => Sys2Proof.Machine.execPgResolve w s
  | .batchTimeout die batch => Sys2Proof.Machine.execBatchTimeout die batch s
  | .pgCmdShootdown rec => Sys2Proof.Machine.execPgCmdShootdown rec s
  | .pgCmdMigrate rec => Sys2Proof.Machine.execPgCmdMigrate rec s
  | .pgCmdUnmap rec => Sys2Proof.Machine.execPgCmdUnmap rec s
  | .pgCmdPin rec => Sys2Proof.Machine.execPgCmdPin rec s
  | .pgCmdUnpin rec => Sys2Proof.Machine.execPgCmdUnpin rec s
  | .shootdownComplete => Sys2Proof.Machine.execShootdownComplete s
  | .migrationCopy => Sys2Proof.Machine.execMigrationCopy s
  | .slCmdResail rec => Sys2Proof.Machine.execSlCmdResail rec s
  | .slCmdDefine rec => Sys2Proof.Machine.execSlCmdDefine rec s
  | .slCmdDrop rec => Sys2Proof.Machine.execSlCmdDrop rec s
  | .slCmdReef rec => Sys2Proof.Machine.execSlCmdReef rec s
  | .slCmdShake rec => Sys2Proof.Machine.execSlCmdShake rec s
  | .sweepPanel sail die => Sys2Proof.Machine.execSweepPanel sail die s
  | .drainComplete sail die => Sys2Proof.Machine.execDrainComplete sail die s
  | .bridgeFlitReceive src dst chan crcGood => Sys2Proof.Machine.execBridgeFlitReceive src dst chan crcGood s
  | .fetch src dst => Sys2Proof.Machine.execFetch src dst s
  | .fetchResponse src dst => Sys2Proof.Machine.execFetchResponse src dst s
  | .hold src dst => Sys2Proof.Machine.execHold src dst s
  | .holdAck src dst => Sys2Proof.Machine.execHoldAck src dst s
  | .openMsg src dst => Sys2Proof.Machine.execOpenMsg src dst s
  | .invalidate src dst => Sys2Proof.Machine.execInvalidate src dst s
  | .efUpdate src dst => Sys2Proof.Machine.execEfUpdate src dst s
  | .syncRequest src dst => Sys2Proof.Machine.execSyncRequest src dst s
  | .syncMarker src dst => Sys2Proof.Machine.execSyncMarker src dst s
  | .holdTimeout round => Sys2Proof.Machine.execHoldTimeout round s
  | .fabricTimeout id => Sys2Proof.Machine.execFabricTimeout id s
  | .fbDiereset w => Sys2Proof.Machine.execFbDiereset w s
  | .dieResetEnd => Sys2Proof.Machine.execDieResetEnd s
  | .flitReceive port crcGood f => Sys2Proof.Machine.execFlitReceive port crcGood f s
  | .replayTimeout port => Sys2Proof.Machine.execReplayTimeout port s
  | .portTraining port nbr inc => Sys2Proof.Machine.execPortTraining port nbr inc s
  | .portDown port => Sys2Proof.Machine.execPortDown port s
  | .peerRequest dev addr op => Sys2Proof.Machine.execPeerRequest dev addr op s
  | .atsInvalidation addr size => Sys2Proof.Machine.execAtsInvalidation addr size s
  | .walkEnd c => Sys2Proof.Machine.execWalkEnd c s
  | .sample c => Sys2Proof.Machine.execSample c s
  | .muxBankSwitch part => Sys2Proof.Machine.execMuxBankSwitch part s
  | .trMux part sel b => Sys2Proof.Machine.execTrMux part sel b s
  | .trKdbg w => Sys2Proof.Machine.execTrKdbg w s
  | .trDstop w => Sys2Proof.Machine.execTrDstop w s
  | .ptpMessage m => Sys2Proof.Machine.execPtpMessage m s
  | .powerGood => Sys2Proof.Machine.execPowerGood s
  | .moduleReset => Sys2Proof.Machine.execModuleReset s
  | .hbDvfs die w => Sys2Proof.Machine.execHbDvfs die w s
  | .powerMeasurement watts => Sys2Proof.Machine.execPowerMeasurement watts s
  | .junctionTemperature die celsius => Sys2Proof.Machine.execJunctionTemperature die celsius s
  | .scrub granule f => Sys2Proof.Machine.execScrub granule f s
  | .secCmd w => Sys2Proof.Machine.execSecCmd w s
  | .secChal => Sys2Proof.Machine.execSecChal s
  | .secUnlock w => Sys2Proof.Machine.execSecUnlock w s
  | .registerWrite off bytes => Sys2Proof.Machine.execRegisterWrite off bytes s
  | .pllRelock die => Sys2Proof.Machine.execPllRelock die s
  | .bringUpStepEnd err dieOk => Sys2Proof.Machine.execBringUpStepEnd err dieOk s
  | .attestationReportDone written => Sys2Proof.Machine.execAttestationReportDone written s

end Sys2Proof.Machine
end

