-- ==== Sys2Proof/Machine/Time.lean ====
section
/-! DEFINITION. Time (spec/01_package_and_engines.md R5; spec/15_issue_engine.md R402 to R406): what the passing of a tick and
of a cycle does to what waits, counts or is in flight. -/
namespace Sys2Proof.Machine

/-! ### Readiness and order (R96, R31) -/

/-- Nothing of its own holds a stream back: what it would read has landed. -/
def State.ready (s : State) (r : StreamRef) : Bool :=
  s.mayIssue r &&
    match s.team? (coreOf r) with
    | none => false
    | some t =>
      match t.stream? r.idx, t.unitOf r.idx with
      | some st, some u =>
        if st.native then
          match u.bundle st.bundle with
          | none => true
          | some b =>
            let q := if b.kind = 5 then st.reconverge st.bundle (st.stack.length + 1) else (st, false)
            let c : Cx := ⟨s, r, t, q.1⟩
            q.2 || (b.slots.any fun x => decide (7 < q.1.stack.length + c.pushes x)) || !(c.stalled b || decide (16 < c.fixedCount b))
        else Cx.plainReady ⟨s, r, t, st⟩ u
      | _, _ => false

/-- What a stream would take in its core's cycle; none where it takes nothing. -/
def State.portNeeded (s : State) (r : StreamRef) : Option IssuePort :=
  match s.team? (coreOf r) with
  | none => none
  | some t =>
    match t.stream? r.idx, t.unitOf r.idx with
    | some st, some u =>
      if st.native && (match u.bundle st.bundle with
        | none => false
        | some b => b.kind == 5 && (st.reconverge st.bundle (st.stack.length + 1)).2) then none
      else Cx.portNeeded ⟨s, r, t, st⟩ u
    | _, _ => none

/-- A stream's place in the order of R96: a demoted group that has not issued for 255 cycles, so that R31 holds; the control
stream; groups; demoted groups; streams that yielded. -/
def Stream.rank (st : Stream) (idx : Nat) : Nat :=
  if st.demoted ∧ 255 ≤ st.idle then 0
  else if st.yielded then 4
  else if idx = 32 then 1
  else if st.demoted then 3
  else 2

/-- Of two streams of a core the one taken first: by rank, then the one ready for longer, then the lower index. -/
def takenFirst (a b : Nat × Stream) : Bool :=
  let ra := a.2.rank a.1
  let rb := b.2.rank b.1
  decide (ra < rb) || (ra == rb && (decide (b.2.readyFor < a.2.readyFor) || (a.2.readyFor == b.2.readyFor && decide (a.1 < b.1))))

/-- The first of some streams, in the order of R96, that a core can issue. -/
def bestOf (k : Core) (isB : Bool) (xs : List (Nat × Stream × IssuePort)) : Option (Nat × Stream × IssuePort) :=
  (xs.filter fun x => k.admits isB x.2.2).foldl (fun best x => match best with
    | none => some x
    | some b => if takenFirst (x.1, x.2.1) (b.1, b.2.1) then some x else some b) none

/-- The streams that issue together in what is left of a cycle: the first candidate of R96, and on a C-core the first later
one that pairs with it (R405). -/
def issuePair (k : Core) (isB : Bool) (xs : List (Nat × Stream × IssuePort)) : List Nat :=
  match bestOf k isB xs with
  | none => []
  | some a => a.1 :: (match bestOf (k.take isB (a.1 != 32) a.2.2) isB (xs.filter fun x => x.1 != a.1) with
    | some b => [b.1]
    | none => [])

/-- The place of a stream in the order of one cycle's happenings: the control stream, then groups in ascending index
(R116, R236). -/
def cyclePlace (idx : Nat) : Nat := if idx = 32 then 0 else idx + 1

/-- The stream of a core that issues next in this cycle: of those that issue together and those that take no place in the
core's cycle, the first in the order of R116 and R236. -/
def State.nextOf (s : State) (c : CoreRef) (t : Team) : Option Nat :=
  let able := (t.order.filterMap fun i => (t.stream? i).map fun st => (i, st, s.portNeeded ⟨c.die, c.core, i⟩)).filter fun x =>
    s.ready ⟨c.die, c.core, x.1⟩
  let free := (able.filter fun x => x.2.2.isNone).map Prod.fst
  let ports := able.filterMap fun x => x.2.2.map fun p => (x.1, x.2.1, p)
  (free ++ issuePair (s.core c) (s.die c.die).isB ports).foldl (fun best i => match best with
    | none => some i
    | some b => if cyclePlace i < cyclePlace b then some i else some b) none

/-- The stream that issues next: of the first core, in ascending die and core, that has one (R236, R258). -/
def State.nextStream (s : State) : Option StreamRef :=
  s.cores.findSome? fun k => k.team.bind fun t => (s.nextOf k.at_ t).map fun i => ⟨k.at_.die, k.at_.core, i⟩

/-! ### A cycle of a core -/

/-- A stream frozen as its flight record has it: asked to stop or stopped (R409), waiting for a translation, or being saved
(R100). Its fixed-latency results and its delay stand still. -/
def Stream.still (st : Stream) (saving : Bool) : Bool :=
  st.stop != .running || st.wait == some .translation || saving

/-- The results that the cycle brings. -/
def Stream.landed1 (st : Stream) (still : Bool) : Stream :=
  let next := st.landings.map fun x => if still && !x.var then x else { x with left := x.left - 1 }
  let done (x : Landing) : Bool := x.left == 0 && !(still && !x.var)
  (next.filter done).foldl Stream.land { st with landings := next.filter fun x => !done x }

/-- A cycle of a stream; waits that nothing announces are looked at again. -/
def Stream.cycle (st : Stream) (still ready : Bool) : Stream :=
  let st := st.landed1 still
  { st with
    delay := if still then st.delay else st.delay - 1
    sleep := if 1 < st.sleep then st.sleep - 1 else st.sleep
    idle := st.idle + 1
    readyFor := if ready then st.readyFor + 1 else 0
    yielded := st.yielded && !ready
    wait := match st.wait with
      | some .order | some (.sail _) => none
      | w => w }

/-- The six counters of a stream. -/
def Stream.counts (st : Stream) : List Nat :=
  [st.ll.length, st.gl.length, st.st.length, st.att.length, st.cp.length, st.mx.length]

/-- What a team shows at this point of a cycle. -/
def State.shows (s : State) (t : Team) : Shown :=
  { counts := t.control.counts :: t.groups.map Stream.counts
    queues := t.queues.map fun q => q.entries.length
    tokens := [t.lc.count, t.cs.count, t.sl.count]
    engines := [t.copy.ldq.cmds.length, t.copy.stq.cmds.length, t.matrix.queue.length, t.matrix.fwq.length]
    recs := t.recs.map fun r => r.recs.length
    bars := t.bars.map fun b => (b.arrived, b.gen)
    cbars := t.cbars.zipIdx.map fun b =>
      let x := ((s.cluster? t.cluster).map fun k => k.bar b.2).getD {}
      (b.1.1, x.teams.length, x.gen)
    rdv := (t.rdv.arrived.length, t.rdv.gen)
    regroup := (t.regroup.arrived.length, t.regroup.gen) }

/-- The tokens of this cycle are there for the pops of the next. -/
def TokenFifo.settle (x : TokenFifo) : TokenFifo := { x with fresh := 0 }

/-- A cycle of a team. `ready` names its ready streams, and `seen` is what it shows at the cycle's end. -/
def Team.cycle (t : Team) (cls : Nat) (ready : List Nat) (stall : Bool) (seen : Shown) : Team :=
  let go (i : Nat) (st : Stream) : Stream := st.cycle (st.still (t.saving && cls != 2)) (ready.contains i)
  { t with
    control := go 32 t.control
    groups := t.groups.zipIdx.map fun x => go x.2 x.1
    still := if seen = t.shown then t.still + 1 else 0
    stallRaised := t.stallRaised && seen == t.shown
    shown := seen
    lc := t.lc.settle, cs := t.cs.settle, sl := t.sl.settle
    change := t.change.map fun p => { p with drain := p.drain.map fun n => n - 1 }
    copy := t.copy.settle
    matrix := { t.matrix.settle with busy := t.matrix.busy - 1 }
    capture := t.capture.map fun w =>
      { w with cycles := w.cycles + 1, stalls := if stall then w.stalls + 1 else w.stalls } }

/-- Completions that a full token FIFO held are delivered at the end of a cycle whose pops have made room (R25, R26). -/
def State.heldRelease (s : State) (c : CoreRef) : State :=
  match s.team? c with
  | none => s
  | some t => ((s.settleMatrix c t.matrix.queue.length).settleCopies c 0).settleCopies c 1

/-- What a cycle of a core adds to the multiplexed quantities (Table 18.6): its streams' waits, its engines' cycles, and the
core's own. -/
def State.cycleTally (s : State) (c : CoreRef) (t : Team) (reasons : List Nat) : State :=
  let wait (r : Nat) : Nat := (reasons.filter fun x => x == r).length
  let halted := ([t.copy.ldq, t.copy.stq].filter fun q => q.halted.isSome).length
  let busy := if t.matrix.busy = 0 then 0 else 1
  let idle := if t.matrix.busy = 0 ∧ t.matrix.queue ≠ [] then 1 else 0
  [(12, wait 1), (13, wait 2), (42, halted), (44, busy), (45, idle), (49, wait 3), (50, wait 5), (63, 1)].foldl
    (fun s x => if x.2 = 0 then s else s.teamTally c x.1 x.2) s

/-- A cycle of a core and its team. A cycle in which no stream issued is a stalled one. -/
def State.coreCycle (s : State) (c : CoreRef) : State :=
  let isB := (s.die c.die).isB
  let s := s.heldRelease c
  let s := match s.team? c with
    | none => s
    | some t =>
      let cls := ((s.launch? t.launch).map fun (l : Launch) => l.record.cls).getD 0
      let refs := t.order.map fun i => (⟨c.die, c.core, i⟩ : StreamRef)
      let ready := (refs.filter s.ready).map StreamRef.idx
      let reasons : List Nat := refs.filterMap fun (r : StreamRef) => (t.stream? r.idx).map fun (st : Stream) => Cx.stallReason ⟨s, r, t, st⟩
      let stall := !reasons.contains 0
      let s := (s.cycleTally c t reasons).modPage (s.partOf t.launch) fun p =>
        { p with jobs := addCount 0 1 (if stall then addCount 2 1 p.jobs else p.jobs) }
      s.modTeam c fun t => t.cycle cls ready stall (s.shows t)
  s.modCore c fun k =>
    { k with used := if isB then k.used - 1 else 0, usedMxc := false, usedF := false, usedF64 := false, dropped := none, filled := []
             hold := k.hold - 1, sampleAge := k.sampleAge + 1
             walks := (k.walks.take 1).map (fun w => { w with busy := w.busy - 1 }) ++ k.walks.drop 1 }

/-! ### A cycle of a die -/

/-- The first request of each knitter goes on (R421). -/
def knitCycle : List (Nat × KnitJob) → List Nat → List (Nat × KnitJob)
  | [], _ => []
  | j :: js, seen =>
    (if seen.contains j.1 then j else (j.1, { j.2 with left := j.2.left - 1, spent := j.2.spent + 1 }))
      :: knitCycle js (j.1 :: seen)

/-- A cycle of the bank that counts: its elapsed cycles, and the cycle words of its enabled selectors (R468). -/
def CounterPage.cycle (p : CounterPage) : CounterPage :=
  if p.bankOn p.bank then
    { p with
      elapsed := p.elapsed + 1
      muxed := (List.range 8).foldl (fun m k =>
        let i := 8 * p.bank + k
        if 128 ≤ ((p.sel[i]?).getD 0).toNat then addCount (2 * i + 1) 1 m else m) p.muxed }
  else p

/-- The counters and conflict matrices as the cores of a die read them in the next cycle (R469). -/
def State.showCounters (s : State) (d : Nat) : State :=
  { s with
    cores := s.cores.map fun k => if k.at_.die = d ∧ k.team.isSome then { k with seenMatrix := k.matrix } else k
    trace := { s.trace with seen := setAt s.trace.seen d s.trace.pages } }

/-- The die whose cycles the sweeps of a sail's part take: a cluster sail's is that of the cluster's first core. -/
def State.sweepDie (s : State) (k : SailKey) (p : SailPart) : Nat := if p.die < 6 then p.die else (s.sailCore k).die

/-- A cycle of the sweeps on a die (R361). -/
def State.sweepCycle (s : State) (d : Nat) : State :=
  s.sails.foldl (fun s x => x.parts.foldl (fun s p =>
    if p.sweeping && s.sweepDie x.key p == d then
      (s.sailTally x.key 36 1).modSail x.key fun x => x.modPart p.die fun p => { p with sweepLeft := p.sweepLeft - 1 }
    else s) s) s

/-- A cycle of a die. -/
def State.dieCycle (s : State) (d : Nat) : State :=
  let s := (s.cores.filter fun k => k.at_.die == d).foldl (fun s k => s.coreCycle k.at_) (s.sweepCycle d)
  let s := s.modDie d fun x => { x with clock := x.clock + 1, jobs := knitCycle x.jobs [] }
  let s := if d = 0 then { s with trace := { s.trace with pages := s.trace.pages.map CounterPage.cycle } } else s
  s.showCounters d

/-! ### Ticks -/

/-- Ticks of a die's cycle. -/
def Die.cycleTicks (d : Die) : Nat := Machine.cycleTicks d.cur

/-- The ticks until the next cycle of some die ends, or until what the agenda awaits. -/
def State.quantum (s : State) : Nat :=
  let n := s.dies.foldl (fun n d => Nat.min n (d.cycleTicks - d.acc)) 297
  match s.agenda with
  | a :: _ => if a.ticks = 0 then n else Nat.min n a.ticks
  | [] => n

/-- Ticks pass for a die; a cycle ends when they fill it. -/
def State.dieTicks (s : State) (n d : Nat) : State :=
  let x := s.die d
  if x.acc + n < x.cycleTicks then s.modDie d fun x => { x with acc := x.acc + n }
  else (s.modDie d fun x => { x with acc := x.acc + n - x.cycleTicks }).dieCycle d

/-- The walker notes since when a launch waits for cores (R99). -/
def State.noteWaits (s : State) : State :=
  let launches : List Launch := s.walker.launches.map fun (l : Launch) =>
    { l with waitFrom := if s.waitsForCores l then l.waitFrom.orElse fun _ => some s.now else none }
  { s with walker := { s.walker with launches := launches } }

/-- The copy engine can do no more for the commands a trapped team has started (R131): no chunk is in flight, none can start, and
no page is awaited. -/
def State.copiesDone (s : State) (c : CoreRef) (t : Team) : Bool :=
  let still (t : Team) (q : Nat) : Bool := (t.copy.queue q).cmds.all fun k => k.flying == []
  [0, 1].all fun q => still t q && (match (t.copy.queue q).halted with
    | some f => f.blocks == []
    | none => match execChunkStart c q s with
      | .next s => (s.team? c).all fun t => still t q && (t.copy.queue q).halted.isNone
      | _ => true)

/-- The engines of a job's teams have stopped (R131, R331). -/
def State.jobAtRest (s : State) (asid : Nat) : Bool :=
  s.cores.all fun k => k.team.all fun t =>
    t.asid != asid || t.atRest || (t.trapped.isSome && t.matrix.atBoundary && s.copiesDone k.at_ t)

/-- The jobs that were to end do, once their engines have stopped. -/
def State.settleEnds (s : State) : State :=
  ((s.walker.launches.filter fun l => l.status.isSome && s.jobAtRest l.asid).map Launch.asid).eraseDups.foldl
    (fun s a => s.finishJob a 0) s

/-- A held team is saved into a slot of its save area, once its engines have stopped (R471). -/
def State.saveHeld (s : State) : State :=
  s.cores.foldl (fun s k =>
    match s.team? k.at_ with
    | none => s
    | some t =>
      if t.trapped.isNone || t.heldSlot.isSome || !(t.atRest || (t.matrix.atBoundary && s.copiesDone k.at_ t)) then s
      else match s.launch? t.launch with
        | none => s
        | some l => match s.slotsFor l 1 with
          | some [n] => (s.copySlot l n k.at_ true).modTeam k.at_ fun t => { t with heldSlot := some n }
          | _ => s) s

/-- Time passes until the next cycle of some die ends. The jobs whose engines have stopped end, the fences that can complete in the cycle have, and then a resail goes
on. -/
def State.tick (s : State) : State :=
  let s := s.settleEnds.saveHeld.settleFences
  let n := s.quantum
  let ns := (s.ticks + n) * 10 / 4752 - s.ticks * 10 / 4752
  let agenda := match s.agenda with
    | a :: rest => { a with ticks := a.ticks - n } :: rest
    | [] => []
  let s := { s.noteWaits with
    ticks := s.ticks + n, agenda := agenda, trace := s.trace.pass ns, turn := 0, late := false
    sailRegs := { s.sailRegs with before := [] } }
  ((List.range 6).foldl (fun s d => s.dieTicks n d) s).resailGo

end Sys2Proof.Machine
end

