-- ==== Sys2Proof/Machine/Step.lean ====
section
/-! DEFINITION. One step of the machine: what the agenda asks for, the issue of a stream, a device step that happens by itself,
or the passing of time (log entry 3). -/
namespace Sys2Proof.Machine

/-! ### Device steps that happen by themselves -/

/-- A device step. -/
abbrev Act := State → Out

/-- Steps of an access in flight. -/
def Acc.acts (a : Acc) : List Act :=
  (match a.kind with
    | .load | .prefetch | .prefetchL1 => [execLoadReturn a.id]
    | .store => [execStoreAck a.id]
    | .atomic .. => (a.lanes.map fun l => execAtomicRequest a.id l.lane) ++ [execAtomicResult a.id]
    | .fence _ => [])
  ++ [execFabricTimeout a.id]

/-- Steps of the message at the head of a channel between two dies. -/
def linkActs (src dst : Nat) : List Act :=
  [execFetch src dst, execFetchResponse src dst, execHold src dst, execHoldAck src dst, execOpenMsg src dst,
        execInvalidate src dst, execEfUpdate src dst, execSyncRequest src dst, execSyncMarker src dst]

/-- Steps of the messages on their way. -/
def State.msgActs (s : State) : List Act :=
  let hops := ((s.fabric.msgs.filter fun m => !m.arrived).map fun m => (m.at_, nextHop m.at_ m.dst, m.chan)).eraseDups
  let ends := (s.fabric.msgs.map fun m => (m.src, m.dst)).eraseDups
  let bars := (s.fabric.msgs.filterMap fun m => match m.body with
    | .barrier c k _ _ => some (c, k, m.dst)
    | _ => none).eraseDups
  (hops.map fun h => execBridgeFlitReceive h.1 h.2.1 h.2.2 true) ++ (ends.map fun e => linkActs e.1 e.2).flatten ++ bars.map fun b => execCbarFarMessage b.1 b.2.1 b.2.2

/-- Steps of a core's engines: what starts and takes tokens, then what completes and pushes them, the matrix engine before
the copy engine (R26); `chunks` are the chunks in flight. -/
def coreActs (c : CoreRef) (chunks : List (Nat × Nat)) : List Act :=
  [execChunkStart c 0, execChunkStart c 1, execMxqHeadStart c, execMxCommandComplete c]
    ++ chunks.map (fun x => execChunkLand c x.1 x.2)
    ++ [execHeldCompletionRelease c 2, execHeldCompletionRelease c 0, execHeldCompletionRelease c 1, execPhaseDrain c,
        execPhaseDrainEnd c, execWalkEnd c, execSample c, execTeamStall c, execPreemptSave c, execTeamRetire c]

/-- Steps of a core and its team. A coalescing line sends its bytes after 64 cycles (R211). -/
def State.teamActs (s : State) (k : Core) : List Act :=
  match k.team with
  | none => []
  | some t =>
    let c := k.at_
    let lines := ((s.onward.filter fun o => o.core == c && decide (o.since + 64 ≤ (s.die c.die).clock)).map fun o => o.lane.pa / 128).eraseDups
    let chunks := ((t.copy.ldq.cmds ++ t.copy.stq.cmds).map fun (q : CopyCmd) => q.flying.map fun x => (q.id, x.num)).flatten
    (t.order.map fun i =>
        let r : StreamRef := ⟨c.die, c.core, i⟩
        [execStreamStop r, execSleepExpire r, execFreeNotice r]).flatten
      ++ lines.map (fun l => execCoalesceTimeout c l) ++ coreActs c chunks

/-- Steps of a die. -/
def State.dieActs (s : State) (d : Nat) : List Act :=
  let rows := ((s.die d).jobs.map Prod.fst).eraseDups
  let batches := (s.pages.batches.filter fun b => b.die == d).map fun b => b.number.toNat
  [execBatchClose d, execBatchWrite d] ++ batches.map (fun b => execBatchTimeout d b)
    ++ (rows.map fun r => [execTranslation d r, execTranslationComplete d r]).flatten ++ [execPllRelock d]

/-- Steps of the hub. -/
def State.hubActs (s : State) : List Act :=
  ((List.range 64).filter fun q => (s.queue q).head != (s.queue q).tail).map (fun q => execLaunchRecordCopy q)
    ++ (s.walker.clusters.map fun k => execClusterResume k.key)
    ++ (s.walker.launches.map fun l => [execClusterPlacement l.key, execPreemptWaitTimeout l.key]).flatten
    ++ [execShootdownComplete, execMigrationCopy, execDieResetEnd, retryPeer]
    ++ (s.sails.map fun x => (x.parts.map fun p => [execSweepPanel x.key.num p.die, execDrainComplete x.key.num p.die]).flatten).flatten
    ++ (s.sails.map fun x => x.rounds.map fun r => execHoldTimeout r.id).flatten
    ++ ((List.range 12).map fun p => execReplayTimeout p) ++ ((List.range 16).map fun p => execMuxBankSwitch p)

/-- An access comes before another in the order in which one cycle's accesses reach a place: ascending die and core, in a core
the control stream first and then the groups, and in a stream the order of issue (R236, R258). -/
def Acc.before (a b : Acc) : Bool :=
  if coreOf a.ref = coreOf b.ref then
    (if a.ref.idx = b.ref.idx then decide (a.id < b.id) else decide (cyclePlace a.ref.idx < cyclePlace b.ref.idx))
  else coreBefore (coreOf a.ref) (coreOf b.ref)

/-- Inserts an access before the first that comes after it. -/
def insertAcc (a : Acc) : List Acc → List Acc
  | [] => [a]
  | b :: bs => if b.before a then b :: insertAcc a bs else a :: b :: bs

/-- The accesses in flight in that order. -/
def State.inOrder (s : State) : List Acc := s.flights.foldr insertAcc []

/-- Every device step that may happen by itself, in the order in which they are tried. -/
def State.acts (s : State) : List Act :=
  (s.inOrder.map fun a => a.acts).flatten ++ s.msgActs ++ (s.cores.map fun k => s.teamActs k).flatten
    ++ ((List.range 6).map fun d => s.dieActs d).flatten ++ s.hubActs

/-! ### The step -/

/-- A step passes for what the agenda awaits, once its ticks have. -/
def State.passStep (s : State) : State :=
  match s.agenda with
  | a :: rest => if a.ticks = 0 then { s with agenda := { a with steps := a.steps - 1 } :: rest } else s
  | [] => s

/-- The agenda's next entry comes about: bytes written to memory, a module file, an error in a panel, and a device step. -/
def State.perform (s : State) (d : Due) : Out :=
  let s := d.pokes.foldl (fun s p => s.writeBytes p.1 p.2) s
  let s := { s with cur := none, modules := s.modules ++ (d.load.filter relocsOk).toList }
  let s := match d.strike with
    | some (die, panel) => s.modDie die fun x => { x with struck := x.struck ++ [panel] }
    | none => s
  let s := { s with
    walker := { s.walker with assigned := (d.assign.map fun r => putKey r.1 r.2 s.walker.assigned).getD s.walker.assigned }
    pages := { s.pages with free := (d.reserve.map fun r => setAt s.pages.free r.1 r.2).getD s.pages.free }
    fabric := { s.fabric with
      refused := (d.refused.map fun r => putKey r.1 r.2 s.fabric.refused).getD s.fabric.refused
      replies := s.fabric.replies ++ d.reply.toList } }
  match d.act with
  | some i => exec i s
  | none => .next s

/-- The device step whose turn it is; none once all have been tried, or while the agenda names them itself. -/
def State.nextAct (s : State) : Option Act :=
  let manual := match s.agenda with
    | a :: _ => a.manual
    | [] => false
  if manual || s.late then none else s.acts[s.turn]?

/-- One step without the agenda. In a cycle the device steps are tried in turn, so that what an engine pops, starts or
reports does not see what a stream does in the same cycle (R26, R133, R300, R334); then the ready streams issue; and then
time passes. -/
def State.run (s : State) : Out :=
  match s.nextAct with
  | some act => act { s with turn := s.turn + 1 }
  | none =>
    match s.nextStream with
    | some r => execBundleIssue r { s with late := true }
    | none => .next s.tick

/-- One step of the machine. -/
def step (s : State) : Host.Outcome State Fault Refusal :=
  match s.agenda with
  | d :: rest => if d.ticks = 0 ∧ d.steps = 0 then { s with agenda := rest }.perform d else s.passStep.run
  | [] => s.run

/-! ### A program -/

/-- The bytes of an instruction word: its own, and zeros up to the longest instruction. -/
def fetchBytes (nbits w : Nat) : List Byte := leBytes 24 (w % 2 ^ nbits)

/-- A unit of one block that holds the given instruction. -/
def unitOfBytes (bytes : List Byte) : Translation :=
  { key := ⟨0, 0, 0, 8⟩, unit := [{ func := 0, frame := 0, argBase := 0, items := [{ func := 0, off := 0, bytes := bytes }] }] }

/-- A team whose control stream stands at the given instruction. -/
def teamOfBytes (bytes : List Byte) : Team :=
  { launch := 0, cluster := 0, asid := 0, control := newStream 32 false true, ctlUnit := some (unitOfBytes bytes) }

/-- The machine brought up, with a team on core 0 of die 0 whose control stream is next to issue and stands at the given
instruction: what bring-up, a launch and its placement come to (log entry 34). -/
def State.withFetchWord (s : State) (nbits w : Nat) : State :=
  let c : CoreRef := ⟨0, 0⟩
  let k : Core := { at_ := c, team := some (teamOfBytes (fetchBytes nbits w)) }
  { s with
    agenda := []
    cur := some ⟨0, 0, 32⟩
    late := true
    cores := k :: s.cores.filter fun x => x.at_ != c
    dies := modAt s.dies 0 fun d => { d with relock := false }
    sails := if s.board.ready then s.sails else [sailZero]
    board := { s.board with ready := true, step := 8, stage := 7 } }

end Sys2Proof.Machine
end

