-- ==== Sys2Proof/Safety.lean ====
section
/-! DEFINITION. What counts as a safe run, in the terms the statements use: a run that stops at no fault and no refusal, and the
invariant that every step keeps. -/
namespace Sys2Proof.Machine

/-- The outcome is a next state. -/
def Completes (o : Out) : Prop := ∃ t, o = .next t

/-- `t` follows `s` by one step. -/
def Steps (s t : State) : Prop := step s = .next t

/-- `t` follows `s` by any number of steps. -/
inductive Reaches (s : State) : State → Prop where
  | refl : Reaches s s
  | tail {t u : State} : Reaches s t → Steps t u → Reaches s u

/-- No state that a run from `s` reaches stops with a fault or a refusal. -/
def SafeRun (s : State) : Prop := ∀ t, Reaches s t → Completes (step t)

/-- Memory is in its canonical form. -/
def State.MemInv (s : State) : Prop := Memory.wf s.mem = true

end Sys2Proof.Machine
end

