-- ==== Sys2Proof/WellFormed.lean ====
section
/-! DEFINITION. The well-formed instructions of the portable form: those that have an encoding that the decoder
accepts, taken by themselves (R41, R45, R49 to R54, R60). The rules that need the function around an instruction (types
of its operands, dominance, targets) are the knitter's, `Machine/KnitVerify.lean`. A device step is always well formed:
it is not encoded. -/
namespace Sys2Proof

/-- The operands have the kinds and numbers of the opcode's signature. -/
def Instr.shape (i : Instr) : Bool :=
  match i.fields? with
  | some (opc, f) => shapeOk opc f
  | none => true

/-- The instruction gives no verification code by itself. -/
def Instr.codes (i : Instr) : List Nat :=
  match i.fields? with
  | some (opc, f) => insCodes opc f
  | none => []

/-- The form and attribute bytes name this constructor, where an opcode stands for several. -/
def Instr.named (i : Instr) : Bool :=
  match i.fields? with
  | some (opc, f) => rowOf opc f == i.row
  | none => true

/-- The encoding has at most 24 bytes (R45). -/
def Instr.lengthOk (i : Instr) : Bool := (encode i).length ≤ 24

/-- A well-formed instruction. -/
def Instr.wf (i : Instr) : Bool := i.shape && i.codes.isEmpty && i.named && i.lengthOk

end Sys2Proof
end

