-- ==== Sys2Proof/Certificates/Slice0/Obligations.lean ====
section
/-! DEFINITION. The statements for the provers: each `Obligations.<Name>` says what its name and its docstring say. The
definitions before them, under `Sys2Proof.Claims`, are the words the statements are written in. -/
namespace Sys2Proof.Claims
open Machine

/-- The stream `r` of team `t` is current, and stands as `st`. -/
def Runs (s : State) (r : StreamRef) (t : Team) (st : Stream) : Prop :=
  s.cur = some r ∧ s.team? (coreOf r) = some t ∧ t.stream? r.idx = some st

/-- For every state with a current stream, whatever its form and the instruction's guard, the instruction gives a next state
in which each executing lane has what `f` says, unless a lane raises an exception whose trap is enabled. -/
def Lane (x : Instr) (opc : Nat) (i : Ins) (tys : List Nat) (f : Cx → Nat → LaneOut) : Prop :=
  ∀ s r t st, Runs s r t st → (Cx.mk s r t st).trapping ((Cx.mk s r t st).outs i f) = [] →
    exec x s = .next (s.modStream r
      ((Cx.mk s r t st).written opc i tys ((Cx.mk s r t st).lanes i) ((Cx.mk s r t st).outs i f)))

/-- The same for an instruction that raises no exception: it gives a next state always. -/
def Plain (x : Instr) (opc : Nat) (i : Ins) (tys : List Nat) (f : Cx → Nat → List Nat) : Prop :=
  ∀ s r t st, Runs s r t st →
    exec x s = .next (s.modStream r ((Cx.mk s r t st).written opc i tys ((Cx.mk s r t st).lanes i)
      ((Cx.mk s r t st).outs i fun c l => { vals := f c l })))

/-- The type of an instruction's first result. -/
abbrev ty (i : Ins) : Nat := i.form.toNat

/-- The value of operand `k` under the signedness bit: `val` of R139. -/
def val (c : Cx) (i : Ins) (k l : Nat) : Int :=
  if i.attr.sxBit then IntOps.sext (wOf i) (c.arg i k (wOf i) l) else (c.arg i k (wOf i) l : Int) % 2 ^ wOf i

/-- `fin` of R139: clamped to the range of the signedness when the saturate bit is set, then taken modulo 2^W. -/
def fin (i : Ins) (v : Int) : Nat :=
  let top : Int := if i.attr.sxBit then 2 ^ (wOf i - 1) - 1 else 2 ^ wOf i - 1
  let low : Int := if i.attr.sxBit then -2 ^ (wOf i - 1) else 0
  ((if i.attr.satBit then min (max v low) top else v) % 2 ^ wOf i).toNat

/-- The bits of operand `k`. -/
def bitsOf (c : Cx) (i : Ins) (k l : Nat) : BitVec (wOf i) := BitVec.ofNat (wOf i) (c.arg i k (wOf i) l)

end Sys2Proof.Claims

open Sys2Proof Sys2Proof.Machine Sys2Proof.Claims

/-! ### The integer engine (spec/05_integer_engine.md) -/

/-- R139, R140, R143, R144: the sums, products and their relatives give `fin` of the exact value in each lane in which they
execute, for every form, signedness and saturation, in both levels; and they give a next state always. -/
def Obligations.IntegerSumsAndProducts : Prop := ∀ i : Ins,
  Plain (.add i) 0x00 i [ty i] (fun c l => [fin i (val c i 0 l + val c i 1 l)]) ∧
  Plain (.addImm i) 0x2C i [ty i] (fun c l => [fin i (val c i 0 l + val c i 1 l)]) ∧
  Plain (.sub i) 0x02 i [ty i] (fun c l => [fin i (val c i 0 l - val c i 1 l)]) ∧
  Plain (.mul i) 0x04 i [ty i] (fun c l => [fin i (val c i 0 l * val c i 1 l)]) ∧
  Plain (.mulImm i) 0x2D i [ty i] (fun c l => [fin i (val c i 0 l * val c i 1 l)]) ∧
  Plain (.mad i) 0x07 i [ty i] (fun c l => [fin i (val c i 0 l * val c i 1 l + val c i 2 l)]) ∧
  Plain (.madhi i) 0x0E i [ty i] (fun c l => [fin i ((val c i 0 l * val c i 1 l).fdiv (2 ^ wOf i) + val c i 2 l)]) ∧
  Plain (.neg i) 0x0A i [ty i] (fun c l => [fin i (-val c i 0 l)]) ∧
  Plain (.mulhi i) 0x05 i [ty i]
    (fun c l => [((val c i 0 l * val c i 1 l).fdiv (2 ^ wOf i) % 2 ^ wOf i).toNat]) ∧
  (i.attr.sxBit = true → Plain (.abs i) 0x0B i [ty i] (fun c l => [fin i (val c i 0 l).natAbs])) ∧
  Plain (.mulw i) 0x06 i [ty i] (fun c l =>
    let half (k : Nat) : Int :=
      if i.attr.sxBit then IntOps.sext (wOf i / 2) (c.arg i k (wOf i / 2) l) else (c.arg i k (wOf i / 2) l : Int) % 2 ^ (wOf i / 2)
    [(half 0 * half 1 % 2 ^ wOf i).toNat]) ∧
  Plain (.sad i) 0x10 i [ty i] (fun c l =>
    let v := c.arg i 2 (wOf i) l % 2 ^ wOf i + (val c i 0 l - val c i 1 l).natAbs
    [if i.attr.satBit then Nat.min v (2 ^ wOf i - 1) else v % 2 ^ wOf i])

/-- R141, R142 and Table 5.2: add with carry, subtract with borrow, and the divisions, a zero divisor among them. -/
def Obligations.IntegerCarriesAndDivisions : Prop := ∀ i : Ins,
  (i.attr.sxBit = false → Plain (.addc i) 0x01 i [ty i, tI1] (fun c l =>
    let t := c.arg i 0 (wOf i) l % 2 ^ wOf i + c.arg i 1 (wOf i) l % 2 ^ wOf i + c.arg i 2 1 l % 2
    [t % 2 ^ wOf i, if 2 ^ wOf i ≤ t then 1 else 0])) ∧
  (i.attr.sxBit = false → Plain (.subb i) 0x03 i [ty i, tI1] (fun c l =>
    let t : Int := val c i 0 l - val c i 1 l - c.arg i 2 1 l % 2
    [(t % 2 ^ wOf i).toNat, if t < 0 then 1 else 0])) ∧
  (i.attr.sxBit = true → Plain (.addc i) 0x01 i [ty i, tI1] (fun c l =>
    let t : Int := val c i 0 l + val c i 1 l + c.arg i 2 1 l % 2
    [(t % 2 ^ wOf i).toNat, if t < -2 ^ (wOf i - 1) ∨ 2 ^ (wOf i - 1) ≤ t then 1 else 0])) ∧
  (i.attr.sxBit = true → Plain (.subb i) 0x03 i [ty i, tI1] (fun c l =>
    let t : Int := val c i 0 l - val c i 1 l - c.arg i 2 1 l % 2
    [(t % 2 ^ wOf i).toNat, if t < -2 ^ (wOf i - 1) ∨ 2 ^ (wOf i - 1) ≤ t then 1 else 0])) ∧
  (∀ x opc, (x, opc) = (Instr.div i, 0x08) ∨ (x, opc) = (.divImm i, 0x39) → Plain x opc i [ty i] (fun c l =>
    [if c.arg i 1 (wOf i) l % 2 ^ wOf i = 0 then 2 ^ wOf i - 1 else fin i ((val c i 0 l).tdiv (val c i 1 l))])) ∧
  (∀ x opc, (x, opc) = (Instr.rem i, 0x09) ∨ (x, opc) = (.remImm i, 0x3A) → Plain x opc i [ty i] (fun c l =>
    [if c.arg i 1 (wOf i) l % 2 ^ wOf i = 0 then c.arg i 0 (wOf i) l % 2 ^ wOf i
     else ((val c i 0 l).tmod (val c i 1 l) % 2 ^ wOf i).toNat]))

/-- R146 to R148: logic, shifts, rotations and funnel shifts, as operations on bit vectors. -/
def Obligations.IntegerLogicAndShifts : Prop := ∀ i : Ins,
  (∀ x opc, (x, opc) = (Instr.and i, 0x11) ∨ (x, opc) = (.andImm i, 0x2E) →
    Plain x opc i [ty i] (fun c l => [c.arg i 0 (wOf i) l &&& c.arg i 1 (wOf i) l])) ∧
  (∀ x opc, (x, opc) = (Instr.or i, 0x12) ∨ (x, opc) = (.orImm i, 0x2F) →
    Plain x opc i [ty i] (fun c l => [c.arg i 0 (wOf i) l ||| c.arg i 1 (wOf i) l])) ∧
  (∀ x opc, (x, opc) = (Instr.xor i, 0x13) ∨ (x, opc) = (.xorImm i, 0x30) →
    Plain x opc i [ty i] (fun c l => [c.arg i 0 (wOf i) l ^^^ c.arg i 1 (wOf i) l])) ∧
  Plain (.not i) 0x14 i [ty i] (fun c l => [(~~~ bitsOf c i 0 l).toNat]) ∧
  Plain (.tlut i) 0x15 i [ty i] (fun c l => [IntOps.fromBits (wOf i) fun b =>
    c.arg i 3 8 l / 2 ^ ((bitsOf c i 0 l).getLsbD b).toNat
      / 2 ^ (2 * ((bitsOf c i 1 l).getLsbD b).toNat) / 2 ^ (4 * ((bitsOf c i 2 l).getLsbD b).toNat) % 2]) ∧
  (∀ x opc, (x, opc) = (Instr.shl i, 0x16) ∨ (x, opc) = (.shlImm i, 0x31) →
    Plain x opc i [ty i] (fun c l => [(bitsOf c i 0 l <<< c.arg i 1 32 l).toNat])) ∧
  (∀ x opc, (x, opc) = (Instr.shr i, 0x17) ∨ (x, opc) = (.shrImm i, 0x32) → i.attr.sxBit = false →
    Plain x opc i [ty i] (fun c l => [(bitsOf c i 0 l >>> c.arg i 1 32 l).toNat])) ∧
  (∀ x opc, (x, opc) = (Instr.shr i, 0x17) ∨ (x, opc) = (.shrImm i, 0x32) → i.attr.sxBit = true → 0 < wOf i →
    Plain x opc i [ty i] (fun c l => [((bitsOf c i 0 l).sshiftRight (c.arg i 1 32 l)).toNat])) ∧
  (∀ x opc, (x, opc) = (Instr.rotl i, 0x18) ∨ (x, opc) = (.rotlImm i, 0x3B) → 0 < wOf i →
    Plain x opc i [ty i] (fun c l => [((bitsOf c i 0 l).rotateLeft (c.arg i 1 32 l)).toNat])) ∧
  (0 < wOf i → Plain (.rotr i) 0x19 i [ty i] (fun c l => [((bitsOf c i 0 l).rotateRight (c.arg i 1 32 l)).toNat])) ∧
  Plain (.fshl i) 0x1A i [ty i] (fun c l =>
    let n := if i.attr.low = 1 then c.arg i 2 32 l % wOf i else Nat.min (c.arg i 2 32 l) (wOf i)
    [(((bitsOf c i 0 l ++ bitsOf c i 1 l) <<< n).extractLsb' (wOf i) (wOf i)).toNat]) ∧
  Plain (.fshr i) 0x1B i [ty i] (fun c l =>
    let n := if i.attr.low = 1 then c.arg i 2 32 l % wOf i else Nat.min (c.arg i 2 32 l) (wOf i)
    [(((bitsOf c i 0 l ++ bitsOf c i 1 l) >>> n).extractLsb' 0 (wOf i)).toNat])

/-- R145, R149 to R153: counts, reversals, byte picks, fields and dot products. -/
def Obligations.IntegerCountsAndFields : Prop := ∀ i : Ins,
  Plain (.clz i) 0x1C i [ty i] (fun c l => [(bitsOf c i 0 l).clz.toNat]) ∧
  Plain (.ctz i) 0x1D i [ty i] (fun c l => [(bitsOf c i 0 l).ctz.toNat]) ∧
  Plain (.popc i) 0x1E i [ty i] (fun c l => [((List.range (wOf i)).filter fun b => (bitsOf c i 0 l).getLsbD b).length]) ∧
  Plain (.cls i) 0x36 i [ty i] (fun c l =>
    [(((List.range (wOf i - 1)).reverse.takeWhile fun b => (bitsOf c i 0 l).getLsbD b == (bitsOf c i 0 l).msb)).length]) ∧
  Plain (.brev i) 0x1F i [ty i] (fun c l => [(bitsOf c i 0 l).reverse.toNat]) ∧
  Plain (.bswap i) 0x37 i [ty i] (fun c l => [ofBytes (toBytes (wOf i / 8) (c.arg i 0 (wOf i) l)).reverse]) ∧
  Plain (.bpick i) 0x38 i [ty i] (fun c l => [ofBytes ((List.range 4).map fun k =>
    let x := (BitVec.ofNat 32 (c.arg i 1 32 l) ++ BitVec.ofNat 32 (c.arg i 0 (wOf i) l)).extractLsb'
      (8 * ((c.arg i 2 32 l / 2 ^ (8 * k)) % 8)) 8
    let f := BitVec.ofNat 8 (c.arg i 2 32 l / 2 ^ (8 * k))
    let y : BitVec 8 := if f.getLsbD 3 then 0 else if f.getLsbD 4 then (if x.msb then 255 else 0) else x
    if f.getLsbD 5 then ~~~ y else y)]) ∧
  (∀ x opc, (x, opc) = (Instr.bfx i, 0x20) ∨ (x, opc) = (.bfxImm i, 0x3C) → Plain x opc i [ty i] (fun c l =>
    let n := Nat.min (c.arg i 2 32 l) (wOf i)
    let f := ((val c i 0 l).fdiv (2 ^ c.arg i 1 32 l) % 2 ^ n).toNat
    [if n = 0 then 0 else if i.attr.sxBit ∧ 2 ^ (n - 1) ≤ f then f + 2 ^ wOf i - 2 ^ n else f])) ∧
  (∀ x opc, (x, opc) = (Instr.bfi i, 0x21) ∨ (x, opc) = (.bfiImm i, 0x3D) → Plain x opc i [ty i] (fun c l =>
    [IntOps.fromBits (wOf i) fun b =>
      if c.arg i 2 32 l ≤ b ∧ b < c.arg i 2 32 l + Nat.min (c.arg i 3 32 l) (wOf i) then
        ((bitsOf c i 1 l).getLsbD (b - c.arg i 2 32 l)).toNat
      else ((bitsOf c i 0 l).getLsbD b).toNat])) ∧
  Plain (.idot i) 0x0F i [ty i] (fun c l =>
    let q := if i.attr.low.testBit 2 then 16 else 8
    let e (sg : Bool) (k j : Nat) : Int :=
      let x := c.arg i k (if k = 0 then wOf i else 32) l / 2 ^ (q * j) % 2 ^ q
      if sg ∧ 2 ^ (q - 1) ≤ x then (x : Int) - 2 ^ q else x
    let a : Int := if i.attr.sxBit then IntOps.sext 32 (c.arg i 2 32 l) else (c.arg i 2 32 l : Int) % 2 ^ 32
    let v := (List.range (32 / q)).foldl (fun v j => v + e (i.attr.low.testBit 0) 0 j * e (i.attr.low.testBit 1) 1 j) a
    [IntOps.fin i.attr.satBit i.attr.sxBit 32 v])

/-- R143, R154 to R158: minima and maxima, comparisons, selects, width changes, moves and constants. -/
def Sys2Proof.Claims.IntegerChoicesAndMoves : Prop := ∀ i : Ins,
  (∀ x opc, (x, opc) = (Instr.min i, 0x0C) ∨ (x, opc) = (.minImm i, 0x33) → Plain x opc i [ty i] (fun c l =>
    [if val c i 0 l ≤ val c i 1 l then c.arg i 0 (wOf i) l % 2 ^ wOf i else c.arg i 1 (wOf i) l % 2 ^ wOf i])) ∧
  (∀ x opc, (x, opc) = (Instr.max i, 0x0D) ∨ (x, opc) = (.maxImm i, 0x34) → Plain x opc i [ty i] (fun c l =>
    [if val c i 1 l ≤ val c i 0 l then c.arg i 0 (wOf i) l % 2 ^ wOf i else c.arg i 1 (wOf i) l % 2 ^ wOf i])) ∧
  (∀ x opc, (x, opc) = (Instr.cmp i, 0x22) ∨ (x, opc) = (.cmpImm i, 0x23) → Plain x opc i [tI1] (fun c l =>
    let a := val c i 0 l
    let b := val c i 1 l
    [if (i.attr.low = 0 ∧ a = b) ∨ (i.attr.low = 1 ∧ a ≠ b) ∨ (i.attr.low = 2 ∧ a < b) ∨ (i.attr.low = 3 ∧ a ≤ b)
        ∨ (i.attr.low = 4 ∧ b < a) ∨ (i.attr.low = 5 ∧ b ≤ a) then 1 else 0])) ∧
  (∀ x opc, (x, opc) = (Instr.sel i, 0x24) ∨ (x, opc) = (.selImm i, 0x3F) → Plain x opc i [ty i] (fun c l =>
    [c.arg i (if c.arg i 0 1 l = 1 then 1 else 2) (wOf i) l])) ∧
  Plain (.ext i) 0x25 i [ty i] (fun c l =>
    let x := c.arg i 0 (tyBits i.attr.srcTy) l
    [((if i.attr.sxBit then IntOps.sext (tyBits i.attr.srcTy) x else (x : Int) % 2 ^ tyBits i.attr.srcTy) % 2 ^ wOf i).toNat]) ∧
  (i.attr.satBit = false → Plain (.trunc i) 0x26 i [ty i] (fun c l =>
    [c.arg i 0 (tyBits i.attr.srcTy) l % 2 ^ wOf i])) ∧
  (i.attr.satBit = true → Plain (.trunc i) 0x26 i [ty i] (fun c l =>
    let x := c.arg i 0 (tyBits i.attr.srcTy) l
    [fin i (if i.attr.sxBit then IntOps.sext (tyBits i.attr.srcTy) x else (x : Int) % 2 ^ tyBits i.attr.srcTy)])) ∧
  Plain (.mov i) 0x3E i [ty i] (fun c l => [c.arg i 0 (wOf i) l]) ∧
  Plain (.bitcast i) 0x35 i [ty i] (fun c l => [c.arg i 0 (wOf i) l]) ∧
  Plain (.constant i) 0x27 i [ty i] (fun c l =>
    [if i.attr.low = 1 then
       (((c.s.launch? c.t.launch).map fun a => a.record.const).getD 0 + c.arg i 0 (wOf i) l) % 2 ^ 64
     else c.arg i 0 (wOf i) l])

/-- R159 to R161 and Table 5.5: scaled addresses, pointer sums and differences, and the pointer conversions. -/
def Sys2Proof.Claims.IntegerPointers : Prop := ∀ i : Ins,
  Plain (.lea i) 0x28 i [ty i] (fun c l =>
    let x : Int := if i.attr.sxBit then IntOps.sext (c.argBits i 1) (c.arg i 1 (c.argBits i 1) l)
      else (c.arg i 1 (c.argBits i 1) l : Int) % 2 ^ c.argBits i 1
    [(((c.arg i 0 (wOf i) l : Int) + x * 2 ^ i.attr.low + IntOps.sext 32 (c.arg i 2 32 l)) % 2 ^ wOf i).toNat]) ∧
  Plain (.ptradd i) 0x29 i [ty i] (fun c l =>
    let x : Int := if i.attr.sxBit then IntOps.sext (c.argBits i 1) (c.arg i 1 (c.argBits i 1) l)
      else (c.arg i 1 (c.argBits i 1) l : Int) % 2 ^ c.argBits i 1
    [(((c.arg i 0 (wOf i) l : Int) + x) % 2 ^ wOf i).toNat]) ∧
  Plain (.ptrdiff i) 0x2A i [ty i] (fun c l =>
    [(((c.arg i 0 (wOf i) l : Int) - c.arg i 1 (wOf i) l) % 2 ^ wOf i).toNat]) ∧
  (i.attr.low = 0 → Plain (.ptrcvt i) 0x2B i [ty i] (fun c l =>
    let p := BitVec.ofNat 32 (c.arg i 0 32 l)
    [(p.extractLsb' 30 2 ++ 1#1 ++ 0#1 ++ BitVec.ofNat 4 c.t.teamid ++ p.extractLsb' 0 24).toNat])) ∧
  (i.attr.low = 2 → Plain (.ptrcvt i) 0x2B i [ty i] (fun c l =>
    let p := BitVec.ofNat 32 (c.arg i 0 32 l)
    [(p.extractLsb' 30 2 ++ 0#6 ++ p.extractLsb' 0 24).toNat])) ∧
  (i.attr.low = 1 → Plain (.ptrcvt i) 0x2B i [ty i] (fun c l =>
    let p := BitVec.ofNat 32 (c.arg i 0 32 l)
    let m := c.arg i 1 32 l
    let far := (c.memberDie m).any fun d => d != c.r.die
    [((if m < 16 then p.extractLsb' 30 2 else 1#2) ++ 1#1 ++ BitVec.ofBool far ++ BitVec.ofNat 4 m
      ++ p.extractLsb' 0 24).toNat]))

/-- Integer choices, moves and pointers. R143, R154 to R158: minima and maxima, comparisons, selects, width changes, moves and
constants. R159 to R161 and Table 5.5: scaled addresses, pointer sums and differences, and the pointer conversions. -/
def Obligations.IntegerChoicesMovesAndPointers : Prop := Claims.IntegerChoicesAndMoves ∧ Claims.IntegerPointers

/-! ### The float engine (spec/06_float_engine.md) -/
namespace Sys2Proof.Claims

/-- The bits of operand `k` of a floating-point instruction. -/
abbrev code (c : Cx) (i : Ins) (k l : Nat) : Nat := c.arg i k (tyBits (ty i)) l

/-- An instruction that computes each element of its result by `g`, from the format, what the mode register and the
instruction select (R173), the element's random bits (R174) and its operands: one element for a scalar type, two for a
packed type (R165). -/
abbrev Each (x : Instr) (opc : Nat) (i : Ins) (g : Fp.Fmt → Fp.Env → Nat → (Nat → Nat) → Nat × Fp.Flags) : Prop :=
  (isPackedTy (ty i) = false → Lane x opc i [ty i] (fun c l =>
    c.elements opc i l [fun u => g (fmtOf (ty i)) (c.env i) u fun k => code c i k l] id)) ∧
  (isPackedTy (ty i) = true → Lane x opc i [ty i] (fun c l =>
    c.elements opc i l
      [fun u => g (fmtOf (ty i)) (c.env i) u fun k => code c i k l % 2 ^ 16,
       fun u => g (fmtOf (ty i)) (c.env i) u fun k => code c i k l / 2 ^ 16]
      packed))

/-- The four floating-point formats of Table 6.1. -/
def Ieee (f : Fp.Fmt) : Prop := f = Fp.f16 ∨ f = Fp.bf16 ∨ f = Fp.f32 ∨ f = Fp.f64

/-- The magnitude bits of a code. -/
def magBits (f : Fp.Fmt) (a : Nat) : Nat := a % 2 ^ (f.ebits + f.mbits)

/-- The magnitude bits of an infinity. -/
def infBits (f : Fp.Fmt) : Nat := (2 ^ f.ebits - 1) * 2 ^ f.mbits

/-- A code of a format is a NaN. -/
def NanCode (f : Fp.Fmt) (a : Nat) : Prop := infBits f < magBits f a

/-- A NaN code with its quiet bit set. -/
def quieted (f : Fp.Fmt) (a : Nat) : Nat := if a.testBit (f.mbits - 1) then a else a + 2 ^ (f.mbits - 1)

/-- The rational value of a finite decoded number. -/
def rat : Fp.FVal → Option Rat
  | .fin n m e => some ((if n then -1 else 1) * (m : Rat) * (2 : Rat) ^ e)
  | _ => none

end Sys2Proof.Claims

/-- R183, R185 to R187, R198: sums, products, fused products, dot products and interpolations are the exact combination of
the operands, read under FTZI, rounded once by `Fp.fused`; quotients and roots are correctly rounded. Each completes for
every form unless an exception it raises is enabled. -/
def Obligations.FloatArithmetic : Prop := ∀ i : Ins,
  (∀ x opc, (x, opc) = (Instr.fadd i, 0x40) ∨ (x, opc) = (.faddImm i, 0x70) →
    Each x opc i fun f v u x => let r (k : Nat) := f.decodeFtz v.ftzi (x k); Fp.fused f v u [r 0, r 1] [] [r 0, r 1]) ∧
  Each (.fsub i) 0x41 i (fun f v u x =>
    let r (k : Nat) := f.decodeFtz v.ftzi (x k); Fp.fused f v u [r 0, r 1] [] [r 0, (r 1).negate]) ∧
  (∀ x opc, (x, opc) = (Instr.fmul i, 0x42) ∨ (x, opc) = (.fmulImm i, 0x71) →
    Each x opc i fun f v u x => let r (k : Nat) := f.decodeFtz v.ftzi (x k); Fp.fused f v u [r 0, r 1] [(r 0, r 1)] []) ∧
  (∀ x opc, (x, opc) = (Instr.fma i, 0x43) ∨ (x, opc) = (.fmaImm i, 0x72) →
    Each x opc i fun f v u x =>
      let r (k : Nat) := f.decodeFtz v.ftzi (x k); Fp.fused f v u [r 0, r 1, r 2] [(r 0, r 1)] [r 2]) ∧
  Each (.fnma i) 0x44 i (fun f v u x =>
    let r (k : Nat) := f.decodeFtz v.ftzi (x k); Fp.fused f v u [r 0, r 1, r 2] [((r 0).negate, r 1)] [r 2]) ∧
  Each (.fdiv i) 0x45 i (fun f v u x => Fp.div f v u (x 0) (x 1)) ∧
  Each (.sqrt i) 0x46 i (fun f v u x => Fp.sqrt f v u (x 0)) ∧
  Each (.rcp i) 0x47 i (fun f v u x => Fp.rcp f v u (x 0)) ∧
  Each (.lerp i) 0x6C i (fun f v u x => Fp.lerp f v u (x 0) (x 1) (x 2)) ∧
  Lane (.dot2 i) 0x68 i [tF32] (fun c l => c.elements 0x68 i l
    [fun u => Fp.dot2 (if i.attr.low = 0 then Fp.f16 else Fp.bf16) (c.env i) u (c.arg i 0 32 l) (c.arg i 1 32 l) (c.arg i 2 32 l)] id) ∧
  Lane (.fmaw i) 0x7F i [ty i] (fun c l =>
    let t := if i.attr.low = 0 then tF16 else if i.attr.low = 1 then tBf16 else tF32
    c.elements 0x7F i l [fun u =>
      let x := (fmtOf t).decodeFtz (c.env i).ftzi (c.arg i 0 (tyBits t) l)
      let y := (fmtOf t).decodeFtz (c.env i).ftzi (c.arg i 1 (tyBits t) l)
      let z := (fmtOf (ty i)).decodeFtz (c.env i).ftzi (c.arg i 2 (tyBits (ty i)) l)
      Fp.fused (fmtOf (ty i)) (c.env i) u [x, y, z] [(x, y)] [z]] id) ∧
  Lane (.dot4n i) 0x78 i [tF32] (fun c l => c.elements 0x78 i l
    [fun u => match Fp.narrowFmt (c.arg i 3 32 l) with
      | none => (if i.attr.satBit then 0 else 0x7FC00000, Fp.fInv)
      | some nf => Fp.dot4n nf (c.env i) u (c.arg i 0 32 l) (c.arg i 1 32 l) (c.arg i 2 32 l)] id)

/-- R188 to R191: minima, maxima and clamps, sign operations on the bits alone, canon, comparisons and classes. -/
def Obligations.FloatChoicesAndClasses : Prop := ∀ i : Ins,
  (∀ x opc, (x, opc) = (Instr.fmin i, 0x49) ∨ (x, opc) = (.fminImm i, 0x73) →
    Each x opc i fun f v _ x => Fp.minmax f v (i.attr.low == 1) false (x 0) (x 1)) ∧
  (∀ x opc, (x, opc) = (Instr.fmax i, 0x4A) ∨ (x, opc) = (.fmaxImm i, 0x74) →
    Each x opc i fun f v _ x => Fp.minmax f v (i.attr.low == 1) true (x 0) (x 1)) ∧
  Each (.amax i) 0x6D i (fun f v _ x => Fp.amax f v (i.attr.low == 1) (x 0) (x 1)) ∧
  Each (.max3 i) 0x7C i (fun f v _ x => Fp.minmax3 f v (i.attr.low == 1) true (x 0) (x 1) (x 2)) ∧
  Each (.min3 i) 0x7D i (fun f v _ x => Fp.minmax3 f v (i.attr.low == 1) false (x 0) (x 1) (x 2)) ∧
  (∀ x opc, (x, opc) = (Instr.clamp i, 0x6B) ∨ (x, opc) = (.clampImm i, 0x76) →
    Each x opc i fun f v _ x => Fp.clamp f v (i.attr.low == 1) (x 0) (x 1) (x 2)) ∧
  Each (.fneg i) 0x4B i (fun f _ _ x => ((x 0 + 2 ^ (f.width - 1)) % 2 ^ f.width, 0)) ∧
  Each (.fabs i) 0x4C i (fun f _ _ x => (x 0 % 2 ^ (f.width - 1), 0)) ∧
  Each (.copysign i) 0x4D i (fun f _ _ x =>
    (x 0 % 2 ^ (f.width - 1) + x 1 / 2 ^ (f.width - 1) % 2 * 2 ^ (f.width - 1), 0)) ∧
  Each (.canon i) 0x7E i (fun f v _ x => Fp.canon f v (x 0)) ∧
  (∀ x opc, (x, opc) = (Instr.fcmp i, 0x4E) ∨ (x, opc) = (.fcmpImm i, 0x75) → Lane x opc i [tI1] (fun c l =>
    let q := Fp.cmp (fmtOf (ty i)) (c.env i) i.attr.low (code c i 0 l) (code c i 1 l)
    { vals := [if q.1 then 1 else 0], flags := q.2 })) ∧
  Plain (.fclass i) 0x4F i [tI1] (fun c l =>
    let f := fmtOf (ty i)
    let a := code c i 0 l
    let neg := a.testBit (f.width - 1)
    let k := if infBits f < magBits f a then (if a.testBit (f.mbits - 1) then 1 else 0)
      else if magBits f a = infBits f then (if neg then 2 else 9)
      else if magBits f a = 0 then (if neg then 5 else 6)
      else if magBits f a < 2 ^ f.mbits then (if neg then 4 else 7)
      else (if neg then 3 else 8)
    [c.arg i 1 10 l / 2 ^ k % 2])

/-- R170, R192 to R197, R199 to R201: conversions between floating-point types, integers and narrow formats, rounding to
integral values, and scaling. -/
def Obligations.FloatConversionsAndScaling : Prop := ∀ i : Ins,
  Lane (.cvtFF i) 0x50 i [ty i] (fun c l => c.elements 0x50 i l
    [fun u => Fp.convert (fmtOf i.attr.srcTy) (fmtOf (ty i)) (c.env i) u (c.arg i 0 (tyBits i.attr.srcTy) l)] id) ∧
  Lane (.cvtFI i) 0x51 i [ty i] (fun c l => c.elements 0x51 i l
    [fun u => Fp.toInt (fmtOf i.attr.srcTy) (c.env i) i.attr.sxBit (tyBits (ty i)) u (c.arg i 0 (tyBits i.attr.srcTy) l)] id) ∧
  Lane (.cvtIF i) 0x52 i [ty i] (fun c l => c.elements 0x52 i l [fun u =>
    let w := tyBits i.attr.srcTy
    let x : Int := if i.attr.sxBit then IntOps.sext w (c.arg i 0 w l) else (c.arg i 0 w l : Int) % 2 ^ w
    Fp.deliver (fmtOf (ty i)) (c.env i) u (.fin (decide (x < 0)) x.natAbs 0)] id) ∧
  Lane (.cvtToNf i) 0x53 i [tNf] (fun c l => c.elements 0x53 i l [fun u =>
    match Fp.narrowFmt (c.arg i 1 32 l) with
    | none => (0, Fp.fInv)
    | some nf => Fp.toNarrow nf (c.env i) u
        ((fmtOf i.attr.srcTy).decodeFtz (c.env i).ftzi (c.arg i 0 (tyBits i.attr.srcTy) l))] id) ∧
  Lane (.cvtFromNf i) 0x54 i [ty i] (fun c l => c.elements 0x54 i l [fun u =>
    match Fp.narrowFmt (c.arg i 1 32 l) with
    | none => ((fmtOf (ty i)).nanCode, Fp.fInv)
    | some nf => Fp.fromNarrow nf (fmtOf (ty i)) (c.env i) u (Fp.element nf.width (c.arg i 0 32 l) i.attr.low)] id) ∧
  Lane (.pack2 i) 0x69 i [ty i] (fun c l => c.elements 0x69 i l
    [fun u => Fp.convert Fp.f32 (fmtOf (ty i)) (c.env i) u (c.arg i 0 32 l),
     fun u => Fp.convert Fp.f32 (fmtOf (ty i)) (c.env i) u (c.arg i 1 32 l)] packed) ∧
  Lane (.unpack2 i) 0x6A i [tF32, tF32] (fun c l =>
    let g := if i.attr.low = 0 then Fp.f16 else Fp.bf16
    c.elements 0x6A i l
      [fun u => Fp.convert g Fp.f32 (c.env i) u (c.arg i 0 32 l % 2 ^ 16),
       fun u => Fp.convert g Fp.f32 (c.env i) u (c.arg i 0 32 l / 2 ^ 16)] id) ∧
  Lane (.pack4 i) 0x79 i [tNf] (fun c l =>
    let e (k u : Nat) := match Fp.narrowFmt (c.arg i 4 32 l) with
      | none => (0, Fp.fInv)
      | some nf => Fp.toNarrow nf (c.env i) u (Fp.f32.decodeFtz (c.env i).ftzi (c.arg i k 32 l))
    let w := match Fp.narrowFmt (c.arg i 4 32 l) with
      | none => 0
      | some nf => nf.width
    c.elements 0x79 i l [e 0, e 1, e 2, e 3]
      fun xs => [xs[0]! + xs[1]! * 2 ^ w + xs[2]! * 2 ^ (2 * w) + xs[3]! * 2 ^ (3 * w)]) ∧
  Lane (.unpack4 i) 0x7A i [tF32, tF32, tF32, tF32] (fun c l =>
    let e (k u : Nat) := match Fp.narrowFmt (c.arg i 1 32 l) with
      | none => (0x7FC00000, Fp.fInv)
      | some nf => Fp.fromNarrow nf Fp.f32 (c.env i) u (Fp.element nf.width (c.arg i 0 32 l) k)
    c.elements 0x7A i l [e 0, e 1, e 2, e 3] id) ∧
  Each (.rnd i) 0x55 i (fun f v u x => Fp.rnd f v u (x 0)) ∧
  Each (.fract i) 0x56 i (fun f v _ x => Fp.fract f v (x 0)) ∧
  (∀ x opc, (x, opc) = (Instr.ldexp i, 0x57) ∨ (x, opc) = (.ldexpImm i, 0x77) → Lane x opc i [ty i] (fun c l =>
    c.elements opc i l
      [fun u => Fp.scaleBy (fmtOf (ty i)) (c.env i) u (code c i 0 l) (IntOps.sext 32 (c.arg i 1 32 l))] id)) ∧
  Lane (.frexp i) 0x58 i [ty i, tI32] (fun c l =>
    let q := Fp.frexp (fmtOf (ty i)) (c.env i) (code c i 0 l)
    { vals := [q.1, q.2.1], flags := q.2.2 }) ∧
  Lane (.scx i) 0x6E i [tI32] (fun c l =>
    let q := Fp.scx (fmtOf (ty i)) (c.env i) (c.arg i 1 32 l) (code c i 0 l)
    { vals := [q.1], flags := q.2 }) ∧
  Lane (.scl i) 0x6F i [ty i] (fun c l => c.elements 0x6F i l [fun u =>
    if c.arg i 1 32 l % 256 = 255 then
      ((fmtOf (ty i)).nanCode, if ((fmtOf (ty i)).decode (code c i 0 l)).isSnan then Fp.fInv else 0)
    else Fp.scaleBy (fmtOf (ty i)) (c.env i) u (code c i 0 l) ((c.arg i 1 32 l % 256 : Nat) - 127 : Int)] id)

/-- R187, R202 to R204: the bounded functions deliver what `Fp.special1`, `Fp.atan2` and `Fp.pow` say, whatever the free
value `Config.specialValue` is; sincos gives both; rseed replaces a zero seed. -/
def Obligations.FloatFunctionsAndSeed : Prop := ∀ i : Ins,
  (∀ x opc fn, (x, opc, fn) ∈ [(Instr.rsqrt i, 0x48, SpecialFn.rsqrt), (.exp2 i, 0x59, .exp2), (.log2 i, 0x5A, .log2),
      (.exp i, 0x5B, .exp), (.log i, 0x5C, .log), (.sin i, 0x5D, .sin), (.cos i, 0x5E, .cos), (.tanh i, 0x60, .tanh),
      (.sigm i, 0x61, .sigm), (.erf i, 0x62, .erf), (.cbrt i, 0x66, .cbrt), (.silu i, 0x67, .silu),
      (.gelu i, 0x63, if i.attr.low = 1 then .geluTanh else .gelu)] →
    Each x opc i fun f v _ x => Fp.special1 fn f v (x 0)) ∧
  Each (.atan2 i) 0x64 i (fun f v _ x => Fp.atan2 f v (x 0) (x 1)) ∧
  Each (.pow i) 0x65 i (fun f v _ x => Fp.pow f v (x 0) (x 1)) ∧
  Lane (.sincos i) 0x5F i [ty i, ty i] (fun c l =>
    let p := Fp.special1 .sin (fmtOf (ty i)) (c.env i) (code c i 0 l)
    let q := Fp.special1 .cos (fmtOf (ty i)) (c.env i) (code c i 0 l)
    { vals := [p.1, q.1], flags := p.2 ||| q.2 }) ∧
  Lane (.rseed i) 0x7B i [] (fun c l =>
    { vals := [], rng := some (if c.arg i 0 32 l = 0 then 0x9E3779B9 else BitVec.ofNat 32 (c.arg i 0 32 l)) })

/-- R173, R175, Table 6.4: rounding a magnitude `m · 2^e` to a multiple of `2^(e + d)`, in each of the six modes. -/
def Sys2Proof.Claims.RoundingFollowsTheMode : Prop :=
  ∀ (rm u m d : Nat) (neg : Bool) (e : Int), 1 ≤ rm → rm ≤ 6 → u < 2 ^ 16 → 0 < m →
    let r := Fp.roundAt rm u ⟨neg, m, e, false⟩ (e + d)
    let k := m / 2 ^ d
    let f := m % 2 ^ d
    (f = 0 → r = (k, false)) ∧
    (f ≠ 0 → r.2 = true ∧ r.1 =
      if (rm = 1 ∧ (2 ^ d < 2 * f ∨ (2 * f = 2 ^ d ∧ k % 2 = 1))) ∨ (rm = 3 ∧ neg = false) ∨ (rm = 4 ∧ neg = true) ∨
          (rm = 5 ∧ 2 ^ d ≤ 2 * f) ∨ (rm = 6 ∧ 2 ^ 16 ≤ f * 2 ^ 16 / 2 ^ d + u)
      then k + 1 else k)

/-- R185: the exact sum of finite values has the rational sum of their values, and the exact product their product; the sum
of opposite infinities has none. -/
def Sys2Proof.Claims.FloatSumsAndProductsAreExact : Prop :=
  (∀ (rm : Nat) (xs : List Fp.FVal) (qs : List Rat), xs.map rat = qs.map some → ∃ y, Fp.sumExact rm xs = some y ∧ rat y = some qs.sum) ∧
  (∀ x y p q, rat x = some p → rat y = some q → ∃ z, Fp.mulExact x y = some z ∧ rat z = some (p * q)) ∧
  (∀ rm n, Fp.sumExact rm [.inf n, .inf !n] = none)

/-- The rounding mode in force, and the exact results that are rounded. R173, R175, Table 6.4: rounding a magnitude `m · 2^e`
to a multiple of `2^(e + d)`, in each of the six modes. R185: the exact sum of finite values has the rational sum of their
values, and the exact product their product; the sum of opposite infinities has none. -/
def Obligations.RoundingFollowsTheModeAndSumsAreExact : Prop := Claims.RoundingFollowsTheMode ∧ Claims.FloatSumsAndProductsAreExact

/-- R164, R173, R185: under round to nearest, the code of a value that does not overflow has a value at least as near as
that of every other code of the format, and inexact is raised exactly when the two differ. -/
def Obligations.FloatRoundingIsNearest : Prop :=
  ∀ f u n (m : Nat) (e : Int), Ieee f → 0 < m →
    let x : Rat := (if n then -1 else 1) * (m : Rat) * (2 : Rat) ^ e
    let r := Fp.pack f 1 u false false ⟨n, m, e, false⟩
    r.2 &&& Fp.fOf = 0 →
    ∃ y, rat (f.decode r.1) = some y ∧
      (∀ c z, rat (f.decode c) = some z → (y - x).abs ≤ (z - x).abs) ∧
      (r.2 &&& Fp.fInx = 0 ↔ y = x)

/-- R166, R178, Table 6.5: the NaN that a sum, a difference, a product or a quotient delivers for a NaN operand, and the
invalid exception of a signalling one. -/
def Obligations.FloatNanPolicy : Prop :=
  ∀ f (v : Fp.Env) u a b, Ieee f → v.sat = false → v.ftzi = false → a < 2 ^ f.width → b < 2 ^ f.width →
    ∀ op, op = Fp.add f v u ∨ op = Fp.sub f v u ∨ op = Fp.div f v u →
      (v.nan = 1 → NanCode f a ∨ NanCode f b → (op a b).1 = f.nanCode) ∧
      (v.nan = 0 → NanCode f a → (op a b).1 = quieted f a) ∧
      (v.nan = 0 → ¬ NanCode f a → NanCode f b → (op a b).1 = quieted f b) ∧
      (v.nan = 2 → NanCode f a → NanCode f b → a.testBit (f.mbits - 1) = false → b.testBit (f.mbits - 1) = true →
        (op a b).1 = b) ∧
      (NanCode f a ∨ NanCode f b →
        ((op a b).2 = Fp.fInv ↔ (NanCode f a ∧ a.testBit (f.mbits - 1) = false) ∨
          (NanCode f b ∧ b.testBit (f.mbits - 1) = false)))

/-- R190: on codes that are not NaNs the comparisons order the codes as sign and magnitude, with the two zeros equal; with a
NaN only the conditions .ne and .un hold, and the ordered conditions raise invalid. -/
def Obligations.FloatComparisonsOrderTheCodes : Prop :=
  ∀ f (v : Fp.Env) cc a b, Ieee f → v.ftzi = false → cc < 8 → a < 2 ^ f.width → b < 2 ^ f.width →
    let key (x : Nat) : Int := if x.testBit (f.width - 1) then -(magBits f x : Int) else magBits f x
    (NanCode f a ∨ NanCode f b →
      ((Fp.cmp f v cc a b).1 = true ↔ cc = 1 ∨ cc = 6) ∧ (2 ≤ cc → cc ≤ 5 → (Fp.cmp f v cc a b).2 = Fp.fInv)) ∧
    (¬ NanCode f a → ¬ NanCode f b → Fp.cmp f v cc a b =
      (decide ((cc = 0 ∧ key a = key b) ∨ (cc = 1 ∧ key a ≠ key b) ∨ (cc = 2 ∧ key a < key b) ∨ (cc = 3 ∧ key a ≤ key b) ∨
        (cc = 4 ∧ key b < key a) ∨ (cc = 5 ∧ key b ≤ key a) ∨ cc = 7), 0))

/-- R180, R222: when an executing lane of a lane-wise float instruction raises an exception that TRAPEN enables, the stream
takes the trap 0x1C, whose record holds those lanes and the exceptions raised in every executing lane, and nothing is written. -/
def Obligations.EnabledExceptionsTrap : Prop :=
  ∀ i s r t st, Runs s r t st → isPackedTy (ty i) = false →
    ∀ x opc g, (x, opc, g) = (Instr.fadd i, 0x40, Fp.add) ∨ (x, opc, g) = (.fsub i, 0x41, Fp.sub) ∨
        (x, opc, g) = (.fmul i, 0x42, Fp.mul) ∨ (x, opc, g) = (.fdiv i, 0x45, Fp.div) →
      let outs := (Cx.mk s r t st).outs i fun c l =>
        c.elements opc i l [fun u => g (fmtOf (ty i)) (c.env i) u (code c i 0 l) (code c i 1 l)] id
      let bad := outs.filter fun o => o.2.flags &&& st.mode.extractLsb' 8 5 != 0
      bad ≠ [] →
      exec x s = .next (s.takeTrap r { st.trapAt r.idx 0x1C with
        lanes := maskOfList (bad.map Prod.fst)
        value := (outs.foldl (fun f o => f ||| o.2.flags) (0 : BitVec 5)).toNat })

/-! ### Loads, stores and their relatives (spec/07_load_store_engine.md) -/
namespace Sys2Proof.Claims

/-- The pointer of a lane. -/
abbrev ptr (c : Cx) (i : Ins) (glob : Bool) (l : Nat) : Nat := c.arg i 0 (if glob then 64 else 32) l

/-- The checks of the executing lanes of a load or a store of `size` bytes, in ascending order. -/
def checks (c : Cx) (i : Ins) (glob : Bool) (need : Need) (size : Nat) : Tried :=
  c.tryLanes (lanesOf (c.lanes i)) (ptr c i glob) fun s a l =>
    if glob then s.checkGlobal c.core c.t.asid need size a l else (c.checkLocal size size a l, s)

/-- The access as it joins the flights: numbered, named after its stream and place, with the lanes that were checked, those
whose page is missing parked, each with the bytes it stores. -/
def inFlight (c : Cx) (i : Ins) (q : Tried) (a : Acc) (data : Nat → List Byte) (tys : List Nat) : Acc :=
  let lanes := (lanesOf (c.lanes i)).filterMap fun l => (q.lanes ++ q.missed).find? fun (x : AccLane) => x.lane == l
  { a with
    id := q.s.nextId, ref := c.r, asid := c.t.asid, lanes := lanes.map fun (l : AccLane) => { l with data := data l.lane }
    dsts := c.st.destinations i tys, pos := ⟨c.st.func, c.st.off⟩, time := q.s.now, born := q.s.now }

/-- The state after issue: the access joins the flights, the conflict matrix counts what a local access loses, its path
counter rises, its destinations are pending, the group parks where a page is missing, and the stream moves on. -/
def issued (c : Cx) (i : Ins) (q : Tried) (a : Acc) (tys : List Nat) (kinds : Nat) (more : Stream → Stream) : State :=
  let s := c.loseBanks a { q.s with nextId := q.s.nextId + 1, flights := q.s.flights ++ [a] }
  (s.park c.r a kinds (parkedBlocks a.lanes)).modStream c.r fun st =>
    let st := st.raise a.pathOf a.id
    (more (c.fallbacks i (c.lanes i) tys { st with pending := st.pending ++ pendingOf a.dsts })).retired

/-- The loads: global, number of elements, post-incremented pointer. -/
def loads (i : Ins) : List (Instr × Bool × Nat × Bool) :=
  [(.ldL i, false, 1, false), (.ldLPi i, false, 1, true), (.ldLX2 i, false, 2, false), (.ldLX4 i, false, 4, false),
   (.ldG i, true, 1, false), (.ldGPi i, true, 1, true), (.ldGX2 i, true, 2, false), (.ldGX4 i, true, 4, false)]

/-- The stores, likewise. -/
def stores (i : Ins) : List (Instr × Bool × Nat × Bool) :=
  [(.stL i, false, 1, false), (.stLPi i, false, 1, true), (.stLX2 i, false, 2, false), (.stLX4 i, false, 4, false),
   (.stG i, true, 1, false), (.stGPi i, true, 1, true), (.stGX2 i, true, 2, false), (.stGX4 i, true, 4, false)]

/-- The post-incremented pointer, result `k` (R220). -/
def bump (c : Cx) (i : Ins) (glob pi : Bool) (k arg : Nat) (st : Stream) : Stream :=
  if pi then c.postInc i (c.lanes i) k (if glob then tPtrG else tPtrL) (ptr c i glob) (IntOps.sext 32 (c.arg i arg 32 0)) st
  else st

end Sys2Proof.Claims

/-- R220, R222, R226, R404: a load whose lanes pass their checks is issued: it joins the flights, GL or LL rises, its
destinations become pending; with no executing lane only the fallbacks are delivered; with its counter full it waits. -/
def Obligations.LoadsAreIssued : Prop := ∀ i x glob n pi, (x, glob, n, pi) ∈ loads i → ∀ s r t st, Runs s r t st →
  let c := Cx.mk s r t st
  let tys := List.replicate n (ty i)
  let q := checks c i glob { read := true, scope := (memAcc i.attr).bindScope } (n * tyBytes (ty i))
  let a := inFlight c i q
    { memAcc i.attr with kind := .load, isLocal := !glob, size := n * tyBytes (ty i) } (fun _ => []) tys
  (c.lanes i ≠ 0 → st.hasRoom (if glob then 1 else 0) = true → q.bad = [] →
    exec x s = .next (issued c i q a tys kindRead (bump c i glob pi n 1))) ∧
  (c.lanes i = 0 → exec x s = .next (s.modStream r fun st => (bump c i glob pi n 1 (c.fallbacks i 0 tys st)).retired)) ∧
  (c.lanes i ≠ 0 → st.hasRoom (if glob then 1 else 0) = false →
    exec x s = .next (s.modStream r fun st => st.blocked s.now (.room (if glob then 1 else 0))))

/-- R220, R222, R226: a store whose lanes pass their checks is issued with its lanes' bytes, little-endian; ST rises. -/
def Obligations.StoresAreIssued : Prop := ∀ i x glob n pi, (x, glob, n, pi) ∈ stores i → ∀ s r t st, Runs s r t st →
  let c := Cx.mk s r t st
  let q := checks c i glob { write := true, scope := (memAcc i.attr).scope } (n * tyBytes (ty i))
  let b := memAcc i.attr
  let a := inFlight c i q
    { b with kind := .store, isLocal := !glob, size := n * tyBytes (ty i), link := if b.rel then some (s.streamRef r) else none }
    (fun l => ((List.range n).map fun k => toBytes (tyBytes (ty i)) (c.arg i (k + 1) (tyBits (ty i)) l)).flatten) []
  (c.lanes i ≠ 0 → st.hasRoom 2 = true → q.bad = [] →
    exec x s = .next (issued c i q a [] kindWrite (bump c i glob pi 0 2))) ∧
  (c.lanes i = 0 → exec x s = .next (s.modStream r fun st => (bump c i glob pi 0 2 st).retired)) ∧
  (c.lanes i ≠ 0 → st.hasRoom 2 = false → exec x s = .next (s.modStream r fun st => st.blocked s.now (.room 2)))

/-- R207, R209, R221, R222: the checks of one lane: alignment, bits of the address above 55, the fields and the bound of a
local pointer; and an instruction some lane of which fails traps with the code that comes first in the order of R39, the
address of the lowest such lane, and the mask of all of them, with nothing issued; PANEL_FAULT, the last of them, comes after a
missing page. -/
def Obligations.AccessChecksAndTraps : Prop :=
  (∀ (s : State) c asid need align va l, va % align ≠ 0 → s.checkGlobal c asid need align va l = (.bad 0x24 0, s)) ∧
  (∀ (s : State) c asid need align va l, va % align = 0 → 2 ^ 56 ≤ va →
    s.checkGlobal c asid need align va l = (.bad 0x21 5, s)) ∧
  (∀ (c : Cx) size align p l, p < 2 ^ 24 → (c.s.core c.core).split.locBytes < p + size →
    c.checkLocal size align p l = .bad 0x23 0) ∧
  (∀ (c : Cx) size align p l, p < 2 ^ 24 → p + size ≤ (c.s.core c.core).split.locBytes → p % align ≠ 0 →
    c.checkLocal size align p l = .bad 0x24 0) ∧
  (∀ (c : Cx) size align p l, p < 2 ^ 24 → p + size ≤ (c.s.core c.core).split.locBytes → p % align = 0 →
    c.checkLocal size align p l =
      .lane { lane := l, va := p, pa := c.s.flatLocal c.core p, home := c.r.die }) ∧
  (∀ (c : Cx) size align p l, 2 ^ 30 ≤ p → c.checkLocal size align p l = .bad 0x23 0) ∧
  (∀ i x glob n pi, (x, glob, n, pi) ∈ loads i ∨ (x, glob, n, pi) ∈ stores i → ∀ s r t st, Runs s r t st →
    let c := Cx.mk s r t st
    let load := (x, glob, n, pi) ∈ loads i
    ∀ q, (load → q = checks c i glob { read := true, scope := (memAcc i.attr).bindScope } (n * tyBytes (ty i))) →
      (¬ load → q = checks c i glob { write := true, scope := (memAcc i.attr).scope } (n * tyBytes (ty i))) →
      (q.missed = [] ∨ ∃ b ∈ q.bad, codeRank b.2.1 < 4) →
      c.lanes i ≠ 0 → (load → st.hasRoom (if glob then 1 else 0) = true) → (¬ load → st.hasRoom 2 = true) →
      ∀ b rest, (q.bad.filter fun b => codeRank b.2.1 == leastRank q.bad) = b :: rest →
        exec x s = .next (q.s.takeTrap r { st.trapAt r.idx b.2.1 with
          arg := b.2.2.1, value := b.2.2.2, lanes := maskOfList ((b :: rest).map Prod.fst) }))

/-- R223 to R226, R234: ldc reads at the constant base plus its offset; a prefetch drops the lanes that fault; a fence joins
the flights for the lanes that execute; l1.inv sends what coalesces and drops every line. -/
def Obligations.ConstantLoadsPrefetchesAndFences : Prop := ∀ i s r t st, Runs s r t st →
  let c := Cx.mk s r t st
  let base := match s.launch? t.launch with
    | some a => a.record.const
    | none => 0
  (let q := c.tryLanes (lanesOf (c.lanes i)) (fun l => (base + c.arg i 0 32 l) % 2 ^ 64) fun s a l =>
      s.checkGlobal c.core t.asid { read := true, scope := (memAcc i.attr).bindScope } (tyBytes (ty i)) a l
   c.lanes i ≠ 0 → st.hasRoom 1 = true → q.bad = [] → exec (.ldc i) s = .next (issued c i q
     (inFlight c i q { memAcc i.attr with kind := .load, size := tyBytes (ty i), ro := true } (fun _ => []) [ty i])
     [ty i] kindRead id)) ∧
  (∀ x k, (x, k) = (Instr.pf i, AccKind.prefetch) ∨ (x, k) = (.pfL1 i, .prefetchL1) →
    let q := c.tryLanes (lanesOf (c.lanes i)) (c.arg i 0 64) fun s a l =>
      s.checkGlobal c.core t.asid { read := true, scope := (memAcc i.attr).scope } 1 a l
    c.lanes i ≠ 0 → st.hasRoom 1 = true →
    exec x s = .next (issued c i { q with missed := [], bad := [] }
      (inFlight c i { q with missed := [], bad := [] } { memAcc i.attr with kind := k, size := 1 } (fun _ => []) [])
      [] kindRead id)) ∧
  (c.lanes i ≠ 0 →
    let b := memAcc i.attr
    let a : Acc := { id := s.nextId, ref := r, asid := t.asid, kind := .fence (BitVec.ofNat 16 (c.warg i 0 16))
                     scope := b.scope, acq := b.acq, rel := b.rel, pos := ⟨st.func, st.off⟩, born := s.now
                     lanes := (lanesOf (c.lanes i)).map fun l => { lane := l, va := 0 }, link := some (s.streamRef r) }
    exec (.fence i) s =
      .next ({ s with nextId := s.nextId + 1, flights := s.flights ++ [a] }.modStream r Stream.retired)) ∧
  (c.lanes i = 0 → ∀ x ∈ [Instr.fence i, .pf i, .pfL1 i, .l1Inv i], exec x s = .next (s.modStream r Stream.retired)) ∧
  (c.lanes i ≠ 0 → exec (.l1Inv i) s =
    .next (((s.flushCore c.core).modCore c.core fun k => k.l1Clear true).modStream r Stream.retired))

/-- R213 to R216: the tag table, for an instruction that executes in one lane: tag.lk gives the slot of a valid way with the
key, else 2^31 plus the victim's slot; tag.set makes the way valid with the key and the most recent and gives what stood
there; tag.clr and tag.clr.all make ways invalid. No other state of the team changes. -/
def Obligations.TagTable : Prop := ∀ (i : Ins) (s : State) (r : StreamRef) (t : Team) (st : Stream) (l : Nat), Runs s r t st →
  lanesOf ((Cx.mk s r t st).lanes i) = [l] →
  let c := Cx.mk s r t st
  let after (opc : Nat) (tys vals : List Nat) (tags : List TagSet) : State :=
    (s.modTeam c.core fun t => { t with tags := tags }).modStream r
      (c.written opc i tys (c.lanes i) [(l, { vals := vals })])
  let put (k : Nat) (x : TagSet) : List TagSet := setAt (t.tags ++ List.replicate (256 - t.tags.length) ({} : TagSet)) k x
  let set (k : Nat) : TagSet := (t.tags[k]?).getD {}
  (let k := c.arg i 0 (tyBits (ty i)) l
   let x := set (k % 256)
   let hit := x.ways.findIdx fun w => w.valid && w.key.toNat == k
   let free := x.ways.findIdx fun w => !w.valid
   exec (.tagLk i) s = .next (
     if hit < x.ways.length then
       after 0x92 [tI32] [4 * (k % 256) + hit] (put (k % 256)
         (if i.attr.low = 1 then x else { x with recency := hit :: x.recency.filter fun v => v != hit }))
     else if free < x.ways.length then after 0x92 [tI32] [2 ^ 31 + 4 * (k % 256) + free] (put (k % 256) x)
     else after 0x92 [tI32] [2 ^ 31 + 4 * (k % 256) + (x.recency.getLast?).getD 0] (put (k % 256) x))) ∧
  (let w := c.arg i 0 32 l % 4
   let k := c.arg i 1 (tyBits (ty i)) l
   let x := set (k % 256)
   let old := (x.ways[w]?).getD {}
   exec (.tagSet i) s = .next (after 0x93 [tI64, tI1] [old.key.toNat, if old.valid then 1 else 0] (put (k % 256)
     { ways := setAt x.ways w ⟨BitVec.ofNat 64 k, true⟩, recency := w :: x.recency.filter fun v => v != w }))) ∧
  (let n := c.arg i 0 32 l % 1024
   let x := set (n / 4)
   exec (.tagClr i) s = .next (after 0x94 [] [] (put (n / 4)
     { x with ways := modAt x.ways (n % 4) fun w => { w with valid := false } }))) ∧
  exec (.tagClrAll i) s = .next (after 0x94 [] []
    (t.tags.map fun x => { x with ways := x.ways.map fun w => { w with valid := false } }))

/-- R34, R205: writing bytes to memory and reading them: a byte inside the bytes written reads as the byte written there,
every other byte reads as before, in every state whose memory is canonical. -/
def Sys2Proof.Claims.MemoryReadsWhatWasWritten : Prop := ∀ (s : State) a bs bad x, s.MemInv →
  (s.writeBytes a bs bad).byteAt x = if a ≤ x ∧ x < a + bs.length then (bs[x - a]?).getD 0 else s.byteAt x

/-- R34, R475: what a write inside one place of memory does to the poison: a granule covered whole is poisoned afterwards
exactly when the new data is; one covered in part stays poisoned, and is poisoned when the new data is; every other granule
keeps its mark. -/
def Sys2Proof.Claims.PoisonFollowsTheWrite : Prop := ∀ (s : State) a bs bad x, 0 < bs.length →
  flatTag a = flatTag (a + bs.length - 1) →
  (covers a bs.length x = true → (s.writeBytes a bs bad).poisoned x = bad) ∧
  (covers a bs.length x = false → granuleOf x ∈ granulesOf a bs.length → s.isFresh x = false →
    (s.writeBytes a bs bad).poisoned x = (s.poisoned x || bad)) ∧
  (covers a bs.length x = false → granuleOf x ∈ granulesOf a bs.length → s.poisoned x = true ∨ bad = true →
    (s.writeBytes a bs bad).poisoned x = true) ∧
  (granuleOf x ∉ granulesOf a bs.length → (s.writeBytes a bs bad).poisoned x = s.poisoned x)

/-- A write changes the bytes it stores and their poison, and nothing else (R34). R34, R205: writing bytes to memory and
reading them: a byte inside the bytes written reads as the byte written there, every other byte reads as before, in every
state whose memory is canonical. R34, R475: what a write inside one place of memory does to the poison: a granule covered
whole is poisoned afterwards exactly when the new data is; one covered in part stays poisoned, and is poisoned when the new
data is; every other granule keeps its mark. -/
def Obligations.MemoryAndPoisonFollowTheWrite : Prop := Claims.MemoryReadsWhatWasWritten ∧ Claims.PoisonFollowsTheWrite

/-! ### What happens to an access in flight -/

/-- R220, R226: LOAD_RETURN of a load of local memory that nothing older keeps: each lane receives the bytes that stand at
its address, the destinations take them, the pending bits clear and the counter falls; in the native form not before the
load's latency has passed (R408), and the lanes have bound until then. -/
def Sys2Proof.Claims.LocalLoadReturnsMemory : Prop := ∀ (s : State) id a, s.acc? id = some a → a.id = id → a.isLoad = true →
  a.isLocal = true → a.acq = false → (∀ l ∈ a.lanes, l.stage = .sent) → s.clear a = true → s.fabric.msgs = [] →
  (∀ o ∈ olderThan a.id s.flights, coreOf o.ref = coreOf a.ref → o.isStore = false) →
  (∀ l ∈ a.lanes, s.anyPoison l.pa a.size = false) →
  let b := { a with due := s.loadDue a, lanes := a.lanes.map fun (l : AccLane) =>
    { l with got := s.bytesAt l.pa a.size, stage := .done, poison := false } }
  let s' := s.modAcc id fun x => { x with lanes := b.lanes, due := b.due }
  (b.due ≤ (s.die a.ref.die).clock → exec (.loadReturn id) s = .next ((s'.modStream a.ref (deliverLoad b)).finishAcc b)) ∧
  ((s.die a.ref.die).clock < b.due → exec (.loadReturn id) s = .next s')

/-- R220, R404: what a returned load leaves in a stream: each lane of the access holds its bytes as a little-endian number in
the destination, the other lanes keep theirs, and the destination is no longer pending. -/
def Sys2Proof.Claims.LoadedValuesAreWritten : Prop := ∀ (a : Acc) (st : Stream) f n t l,
  a.dsts = [(.val f n, t)] → l < 32 → 0 < tyBytes t →
  ((∃ x ∈ a.lanes, x.lane = l) →
    ((deliverLoad a st).get (.val f n)).lane l =
      ofBytes ((((a.lanes.find? fun x => x.lane == l).map AccLane.got).getD []).take (tyBytes t)) % 2 ^ 64) ∧
  ((∀ x ∈ a.lanes, x.lane ≠ l) → ((deliverLoad a st).get (.val f n)).lane l = (st.get (.val f n)).lane l) ∧
  Loc.val f n ∉ (deliverLoad a st).pending ∧
  (∀ k, k ≠ Loc.val f n → (deliverLoad a st).get k = st.get k)

/-- What a load reads and where its results go (R23, R211, R223, R227). R220, R226: LOAD_RETURN of a load of local memory that
nothing older keeps: each lane receives the bytes that stand at its address, the destinations take them, the pending bits
clear and the counter falls; in the native form not before the load's latency has passed (R408), and the lanes have bound
until then. R220, R404: what a returned load leaves in a stream: each lane of the access holds its bytes as a little-endian
number in the destination, the other lanes keep theirs, and the destination is no longer pending. -/
def Obligations.LoadsReturnAndAreWritten : Prop := Claims.LocalLoadReturnsMemory ∧ Claims.LoadedValuesAreWritten

/-- R226, R227: STORE_ACK of a store to local memory that nothing older keeps: the lanes' bytes stand in memory in ascending
lane order, and the access leaves the flights with its counter lowered. -/
def Sys2Proof.Claims.LocalStorePerforms : Prop := ∀ (s : State) id a, s.acc? id = some a → a.id = id → a.isStore = true →
  a.isLocal = true → a.rel = false → (∀ l ∈ a.lanes, l.stage = .sent) → s.clear a = true → s.fabric.msgs = [] →
  let b := { a with lanes := a.lanes.map fun (l : AccLane) => { l with stage := .done } }
  exec (.storeAck id) s = .next (((a.lanes.foldl (fun (s : State) (l : AccLane) =>
    s.writeBytes l.pa l.data l.poison) s).modAcc id fun x => { x with lanes := b.lanes }).finishAcc b)

/-- R211, R230: COALESCE_TIMEOUT sends a core's coalesced bytes of one 128-byte line onward, in their order, and with them every
byte the core has held for longer; those it has held for less stay. -/
def Sys2Proof.Claims.CoalescedLineLeaves : Prop := ∀ (s : State) c line,
  let mine := s.onward.filter fun o => o.core == c
  ∀ old young, mine = old ++ young → (∀ o ∈ young, o.lane.pa / 128 ≠ line) →
    (old = [] ∨ ∃ o, old.getLast? = some o ∧ o.lane.pa / 128 = line) →
    let s' := old.foldl (fun s o => s.pushOnward o) s
    exec (.coalesceTimeout c line) s = .next { s' with onward := (s'.onward.filter fun o => o.core != c) ++ young }

/-- How a store performs and a coalesced line leaves (R211, R227). R226, R227: STORE_ACK of a store to local memory that
nothing older keeps: the lanes' bytes stand in memory in ascending lane order, and the access leaves the flights with its
counter lowered. R211, R230: COALESCE_TIMEOUT sends a core's coalesced bytes of one 128-byte line onward, in their order, and
with them every byte the core has held for longer; those it has held for less stay. -/
def Obligations.StoresPerformAndCoalesce : Prop := Claims.LocalStorePerforms ∧ Claims.CoalescedLineLeaves

/-! ### Atomics (spec/08_atomic_engine.md) -/
namespace Sys2Proof.Claims

/-- The atomics and reductions with the opcode and the operation select each stands for (Table 8.1). -/
def atomics (i : Ins) : List (Instr × Nat × Nat) :=
  [(.atomAdd i, 0x98, 0), (.atomAddFloat i, 0x99, 0), (.atomMin i, 0x9A, 0), (.atomMax i, 0x9B, 0), (.atomAnd i, 0x9C, 0),
   (.atomOr i, 0x9D, 0), (.atomXor i, 0x9E, 0), (.atomExch i, 0x9F, 0), (.atomCas i, 0xA0, 0), (.atomCasX2 i, 0xA1, 0),
   (.atomInc i, 0xA2, 0), (.atomDec i, 0xA3, 0), (.redAdd i, 0xA4, 0), (.redAddFloat i, 0xA5, 0), (.redAnd i, 0xA6, 0),
   (.redOr i, 0xA6, 1), (.redXor i, 0xA6, 2), (.redMin i, 0xA7, 0), (.redMax i, 0xA7, 1)]

end Sys2Proof.Claims

/-- R237 to R239, R243 to R246, R251: an atomic or a reduction whose lanes pass their checks is issued with its lanes'
operands, its executing places, its stream's floor and its tag, which advances; AT rises. With no executing lane only the fallbacks
are delivered; with AT full it waits. -/
def Obligations.AtomicsAreIssued : Prop := ∀ (i : Ins) (x : Instr) (opc sel : Nat), (x, opc, sel) ∈ atomics i →
  ∀ (s : State) (r : StreamRef) (t : Team) (st : Stream), Runs s r t st →
  let c := Cx.mk s r t st
  let size := if opc = 0xA1 then 16 else tyBytes (ty i)
  let glob := c.isGlobal i 0
  let tys := if 0xA4 ≤ opc then [] else if opc = 0xA1 then [ty i, ty i] else [ty i]
  let b := memAcc i.attr
  let q := c.tryLanes (lanesOf (c.lanes i)) (ptr c i glob) fun s a l =>
    if glob then s.checkAtomic c.core t.asid opc b.scope size a l else (c.checkLocal size size a l, s)
  let q := { q with lanes := q.lanes.map fun (l : AccLane) => { l with place := s.placeCode c.core (!glob) b.scope l } }
  let a := inFlight c i q
    { b with kind := .atomic opc sel (ty i) i.attr.sxBit, isLocal := !glob, size := size, tag := st.tag
             floor := (s.floorOf r).getD st.tag, link := if b.rel then some (s.streamRef r) else none }
    (fun l => ((List.range (i.src.length - 1)).map fun k => toBytes (tyBytes (ty i)) (c.arg i (k + 1) (tyBits (ty i)) l)).flatten)
    tys
  (c.lanes i ≠ 0 → st.hasRoom 3 = true → q.bad = [] →
    exec x s = .next (issued c i q a tys kindAtomic fun st => { st with tag := st.tag + 1 })) ∧
  (c.lanes i = 0 → exec x s = .next (s.modStream r fun st => (c.fallbacks i 0 tys st).retired)) ∧
  (c.lanes i ≠ 0 → st.hasRoom 3 = false → exec x s = .next (s.modStream r fun st => st.blocked s.now (.room 3)))

/-- R240 to R242: the new value of every atomic and reduction on integers, for the old value and the operands, by the exact
value under the signedness; add wraps, inc and dec wrap at the operand, cas writes only on a match; the float sum rounds to
nearest even with the canonical quiet NaN. -/
def Obligations.AtomicNewValues : Prop := ∀ (t : Nat) (sx : Bool) (old v w2 : Nat), isFloatTy t = false → 0 < tyBits t →
  old < 2 ^ tyBits t → v < 2 ^ tyBits t →
  let w := tyBits t
  let x := BitVec.ofNat w old
  let y := BitVec.ofNat w v
  let less := if sx then x.sle y else decide (old ≤ v)
  let more := if sx then y.sle x else decide (v ≤ old)
  (∀ opc sel n, (opc, sel, n) ∈ [(0x98, 0, (x + y).toNat), (0xA4, 0, (x + y).toNat), (0x9A, 0, if less then old else v),
      (0x9B, 0, if more then old else v), (0xA7, 0, if less then old else v), (0xA7, 1, if more then old else v),
      (0x9C, 0, (x &&& y).toNat), (0xA6, 0, (x &&& y).toNat), (0x9D, 0, (x ||| y).toNat), (0xA6, 1, (x ||| y).toNat),
      (0x9E, 0, (x ^^^ y).toNat), (0xA6, 2, (x ^^^ y).toNat), (0x9F, 0, v),
      (0xA2, 0, if v ≤ old then 0 else old + 1), (0xA3, 0, if old = 0 ∨ v < old then v else old - 1)] →
    atomicNew opc sel t sx old [v] = some n) ∧
  atomicNew 0xA0 0 t sx old [v, w2] = (if old = v then some w2 else none) ∧
  (∀ lo hi nlo nhi, atomicNew 0xA1 0 t sx (lo + 2 ^ 64 * hi) [lo, hi, nlo, nhi] = some (nlo + 2 ^ 64 * nhi)) ∧
  (∀ a b opc, opc = 0x99 ∨ opc = 0xA5 → atomicNew opc 0 tF32 sx a [b] =
    some (Fp.add Fp.f32 { rm := 1, ftzi := false, ftzo := false, nsat := false, nan := 1, sat := false } 0 a b).1)

/-- R240, R243, R247, R252, R253: ATOMIC_REQUEST. The request's floor first frees what its requester has stored at the place.
A request whose page moves is refused; one whose result is stored already receives that result, and memory stays as it is; the
first request of a lane in local memory reads the old bytes, writes the new value, or nothing, and stores the old bytes as the
result. -/
def Obligations.AtomicAppliesOnce : Prop := ∀ (s : State) (id lane : Nat) (a : Acc) (l : AccLane), s.acc? id = some a → a.id = id →
  a.isAtomic = true → a.rel = false → (∀ m ∈ a.lanes, m.stage ≠ .refused ∧ m.stage ≠ .mapped ∧ m.stage ≠ .denied) →
  (a.lanes.find? fun m => m.lane == lane && m.stage == .sent) = some l → s.clear a = true → a.lowerWaits l = false →
  let f := s.freeBelow (s.placeUnit a l) (s.requester a l) a.floor
  let ended : LaneStage := if a.returns l then .applied else .done
  (f.movingAt a l = true → exec (.atomicRequest id lane) s = .next (f.setLane id { l with stage := .refused })) ∧
  (f.movingAt a l = false → ∀ got, f.storedResult a l = some got →
    exec (.atomicRequest id lane) s = .next (f.setLane id { l with stage := ended, got := got })) ∧
  (f.movingAt a l = false → f.storedResult a l = none → l.place ≤ 1 → f.storeHasRoom (f.placeUnit a l) = true →
    let old := f.bytesAt l.pa a.size
    let bad := f.anyPoison l.pa a.size
    let s' := match a.newValue l old with
      | some new => f.writeBytes l.pa new bad
      | none => f
    exec (.atomicRequest id lane) s = .next ((s'.storeResult a l (f.placeUnit a l) old).setLane id
      { l with stage := ended, got := old, poison := bad, fate := if bad then 1 else 0, ref := f.refFound a l }))

/-- R245, R250, R252, R255, R390: what ends an atomic: the responses of the lanes that have been applied return, poisoned where
one fails its check; when every lane's has, its results and poison marks reach the stream; a completion from the host applies it to
host memory or leaves its fate unknown; a timeout poisons it; and a free notice drops the stored results that lie before the
requester's floor. How long a native access is held back, by the latencies of R408, is log entry 116. -/
def Obligations.AtomicResultsAndCompletions : Prop :=
  (∀ (s : State) (id : Nat) (a : Acc), s.acc? id = some a → a.id = id → a.isAtomic = true → a.acq = false →
    s.fabric.msgs = [] →
    let back (x : Acc) : Acc := { x with lanes := x.lanes.map fun (l : AccLane) => l.replied (s.replyTo id l.lane) }
    let s' := (s.modAcc id back).answered id ((a.lanes.filter fun l => l.stage == .applied).map AccLane.lane)
    ((back a).completes = false ∨ s'.early (back a) (s'.atomicDue (back a)) = true → exec (.atomicResult id) s = .next s') ∧
    ((back a).completes = true → s'.early (back a) (s'.atomicDue (back a)) = false → exec (.atomicResult id) s = .next ((s'.modStream a.ref fun st =>
      let st := deliverLoad (back a) st
      { st with poisoned := st.poisoned ++ (back a).poisonMarks }).finishAcc (back a)))) ∧
  (∀ l : AccLane, (l.stage = .applied → l.replied .good = { l with stage := .done } ∧
      l.replied .bad = { l with stage := .done, poison := true, fate := 1 }) ∧
    (l.stage ≠ .applied → ∀ rep, l.replied rep = l)) ∧
  (∀ (s : State) (id lane : Nat) (a : Acc) (l : AccLane), s.acc? id = some a →
    (a.lanes.find? fun l => l.lane == lane && l.stage == .round && l.place == 4) = some l →
    exec (.atomicopCompletion id lane .refused) s =
      .next (s.setLane id { l with stage := .done, poison := true, fate := 3 }) ∧
    (∀ words, let old := (words.map fun w => toBytes 8 w).flatten.take a.size
      let w := match a.newValue l old with
        | some new => s.writeBytes l.pa new
        | none => s
      let s' := w.modCore (coreOf a.ref) fun k => k.l1Update l.pa ((a.newValue l old).getD old)
      exec (.atomicopCompletion id lane (.done words)) s =
        .next ((s'.storeResult a l (s'.placeUnit a l) old).setLane id { l with stage := .done, got := old }))) ∧
  (∀ (s : State) (id lane : Nat) (a : Acc) (l : AccLane), s.acc? id = some a →
    (a.lanes.find? fun l => l.lane == lane && l.loc == 2 && l.placed && l.stage != .done) = some l →
    (a.isAtomic = true → l.stage = .round → exec (.pcieCompletionTimeout id lane) s =
      .next (s.setLane id { l with stage := .done, poison := true, fate := 2 })) ∧
    (a.isLoad = true → exec (.pcieCompletionTimeout id lane) s = .next (s.takeTrap a.ref
      { stream := a.ref.idx, code := 0x29, pos := a.pos, value := l.va, lanes := maskOfList [lane] }))) ∧
  (∀ (s : State) (r : StreamRef) (f : BitVec 16), s.floorOf r = some f →
    exec (.freeNotice r) s = .next { s with results := s.results.filter fun (e : ResultEntry) =>
      !(e.dev == s.fabric.devid.toNat && e.ref == r && (f != e.tag && decide ((f - e.tag).toNat ≤ 32768))) })

/-! ### The exchange engine (spec/09_exchange_engine.md) -/
namespace Sys2Proof.Claims

/-- The participating lanes (R259). -/
abbrev parts (c : Cx) (i : Ins) : List Nat := lanesOf (c.lanes i)

/-- The lowest participating lane. -/
abbrev first (c : Cx) (i : Ins) : Nat := ((parts c i).head?).getD 0

/-- The number whose bit `l` is set for the participating lanes that satisfy a test. -/
def bitsWhere (c : Cx) (i : Ins) (p : Nat → Bool) : Nat :=
  ((parts c i).map fun l => if p l then 2 ^ l else 0).sum

end Sys2Proof.Claims

/-- R259, R263, R264, R273: ballots and their masks, votes and election among the participating lanes, and the number of records
that a record stream held at the end of the previous cycle. -/
def Sys2Proof.Claims.BallotsAndVotes : Prop := ∀ i : Ins,
  Plain (.ballot i) 0xA8 i [tI32] (fun c _ => [bitsWhere c i fun l => c.arg i 0 1 l == 1]) ∧
  Plain (.ballotAt i) 0xA8 i [tI32] (fun c l =>
    [if l = c.arg i 1 32 (first c i) then bitsWhere c i fun l => c.arg i 0 1 l == 1 else c.arg i 2 32 l]) ∧
  Plain (.ballotCol i) 0xA8 i [tI32] (fun c l =>
    let n := c.arg i 1 32 (first c i)
    [if l = n then bitsWhere c i fun k => n < 32 && (c.arg i 0 32 k).testBit n else c.arg i 2 32 l]) ∧
  Plain (.vote i) 0xA9 i [tI1] (fun c _ =>
    let yes := ((parts c i).filter fun l => c.arg i 0 1 l == 1).length
    let all := (parts c i).length
    [if (i.attr.low = 0 ∧ 0 < yes) ∨ (i.attr.low = 1 ∧ yes = all) ∨ (i.attr.low = 2 ∧ (yes = 0 ∨ yes = all)) ∨
        (i.attr.low = 3 ∧ yes = 0) ∨ (i.attr.low = 4 ∧ yes % 2 = 1) ∨ (5 ≤ i.attr.low ∧ all < 2 * yes) then 1 else 0]) ∧
  Plain (.elect i) 0xB7 i [tI1] (fun c l => [if l = first c i then 1 else 0]) ∧
  Plain (.rsCnt i) 0xB6 i [tI32] (fun c _ => [c.t.shown.records (i.attr.low % 4)])

/-- R262, R265 to R267: a shuffle reads the lane its mode names, when that participates, and otherwise its own; a butterfly
exchanges in the lanes its mask names; match finds the lanes with equal keys. -/
def Sys2Proof.Claims.ShufflesAndMatches : Prop := ∀ i : Ins,
  (∀ x opc, (x, opc) = (Instr.shfl i, 0xAA) ∨ (x, opc) = (.shflImm i, 0xB4) → Plain x opc i [ty i] (fun c l =>
    let n := c.arg i 1 32 l
    let src : Int := if i.attr.low = 0 then n else if i.attr.low = 1 then (l : Int) - n
      else if i.attr.low = 2 then (l : Int) + n else (l ^^^ n : Nat)
    [c.arg i 0 (tyBits (ty i)) (if 0 ≤ src ∧ src < 32 ∧ src.toNat ∈ parts c i then src.toNat else l)])) ∧
  (∀ x opc, (x, opc) = (Instr.bfly i, 0xAB) ∨ (x, opc) = (.bflyImm i, 0xB5) → Plain x opc i [ty i] (fun c l =>
    let q := l ^^^ (c.arg i 2 32 (first c i) % 32)
    [c.arg i 0 (tyBits (ty i)) (if (c.arg i 1 32 l).testBit l = true ∧ q ∈ parts c i then q else l)])) ∧
  Plain (.matchLanes i) 0xAC i [tI32] (fun c l =>
    let same (k : Nat) : Bool := c.arg i 0 (tyBits (ty i)) k == c.arg i 0 (tyBits (ty i)) l
    [if i.attr.low = 0 then bitsWhere c i same
     else if i.attr.low = 1 then (if ∀ k ∈ parts c i, same k = true then bitsWhere c i fun _ => true else 0)
     else (((parts c i).filter same).head?).getD 0])

/-- The lane exchanges of one value. R259, R263, R264, R273: ballots and their masks, votes and election among the
participating lanes, and the number of records that a record stream held at the end of the previous cycle. R262, R265 to R267:
a shuffle reads the lane its mode names, when that participates, and otherwise its own; a butterfly exchanges in the lanes its
mask names; match finds the lanes with equal keys. -/
def Obligations.BallotsVotesShufflesAndMatches : Prop := Claims.BallotsAndVotes ∧ Claims.ShufflesAndMatches

/-- R268: the reduction of the participating lanes' integers, delivered to every one of them, and the scan up to each lane,
or below it under .excl: sums clamp once at the end, and minima, maxima and bitwise operations follow the type. -/
def Obligations.IntegerReductionsAndScans : Prop := ∀ i : Ins,
  let w := tyBits (ty i)
  let v (c : Cx) (l : Nat) : Int :=
    if i.attr.sxBit then IntOps.sext w (c.arg i 0 w l) else (c.arg i 0 w l : Int) % 2 ^ w
  let most : Int := if i.attr.sxBit then 2 ^ (w - 1) - 1 else 2 ^ w - 1
  let least : Int := if i.attr.sxBit then -2 ^ (w - 1) else 0
  let bits (c : Cx) (ls : List Nat) (f : Nat → Nat → Nat) : Nat :=
    match ls with
    | [] => 0
    | l :: rest => (rest.foldl (fun x k => f x (c.arg i 0 w k)) (c.arg i 0 w l)) % 2 ^ w
  let value (c : Cx) (op : Nat) (ls : List Nat) : Nat :=
    if op = 0 then IntOps.fin i.attr.satBit i.attr.sxBit w ((ls.map (v c)).sum)
    else if op = 1 then ((match ls with
      | [] => most
      | l :: rest => rest.foldl (fun x k => min x (v c k)) (v c l)) % 2 ^ w).toNat
    else if op = 2 then ((match ls with
      | [] => least
      | l :: rest => rest.foldl (fun x k => max x (v c k)) (v c l)) % 2 ^ w).toNat
    else if op = 3 then bits c ls fun x y => x &&& y
    else if op = 4 then bits c ls fun x y => x ||| y
    else bits c ls fun x y => x ^^^ y
  Plain (.gred i) 0xAD i [ty i] (fun c _ => [value c i.attr.low (parts c i)]) ∧
  Plain (.gscan i) 0xAE i [ty i] (fun c l =>
    [value c (if i.attr.low % 4 = 3 then 5 else i.attr.low % 4)
      ((parts c i).filter fun k => decide (k < l) || (k == l && i.attr.low / 4 != 1))])

/-- R269: the float reductions combine by the tree of distances 1, 2, 4, 8 and 16, a present value standing for an absent
partner, without flushing and with .rs as .rn; the scans combine in lane order. Each completes unless an exception it
raises is enabled. -/
def Obligations.FloatReductionsAndScans : Prop := ∀ i : Ins,
  Lane (.gredFloat i) 0xB2 i [ty i] (fun c _ =>
    let f := fmtOf (ty i)
    let at_ (l : Nat) : Option Nat := if l ∈ parts c i then some (c.arg i 0 f.width l) else none
    let v := c.treeEnv i i.attr.low
    let r := [1, 2, 4, 8, 16].foldl (fun xs d => treeLevel i.attr.low f v d xs)
      ((List.range 32).map at_, if (parts c i).any fun l => (f.decode (c.arg i 0 f.width l)).isSnan then Fp.fInv else 0)
    { vals := [canonMinMax i.attr.low f (((r.1[0]?).getD none).getD 0)], flags := r.2 }) ∧
  Lane (.gscanFloat i) 0xB3 i [ty i] (fun c l =>
    let f := fmtOf (ty i)
    let op := i.attr.low % 4
    let r := scanFloat op f (c.treeEnv i op) (fun k => c.arg i 0 f.width k)
      (if op = 0 then 0 else f.infCode (op == 2)) none (parts c i)
    let x := match r.1.find? fun p => p.1 == l with
      | some p => if i.attr.low / 4 = 1 then p.2.1 else p.2.2
      | none => 0
    { vals := [canonMinMax op f x]
      flags := r.2 ||| (if (parts c i).any fun l => (f.decode (c.arg i 0 f.width l)).isSnan then Fp.fInv else 0) })

/-- R270 to R272: rs.push appends the records of its pushing lanes in lane order, or waits for room; a partial rs.pop takes what
there is, when no full pop waits; a full one takes one record for each lane once it is the first that waits and enough
stand there, and otherwise joins those that wait. -/
def Obligations.RecordStreams : Prop := ∀ (i : Ins) (s : State) (r : StreamRef) (t : Team) (st : Stream), Runs s r t st →
  let c := Cx.mk s r t st
  let k := i.attr.low % 4
  let x := (t.recs[k]?).getD {}
  let w := tyBits (ty i)
  let set (s : State) (y : RecordStream) : State := s.modTeam c.core fun t => { t with recs := setAt t.recs k y }
  let pushing := (parts c i).filter fun l => c.arg i 0 1 l == 1
  let n := (parts c i).length
  let take (m : Nat) : State :=
    let s := set s { recs := x.recs.drop m, waiting := x.waiting.filter fun j => j != r.idx }
    let s := if m = 0 then s else s.streamLink r 0x08 k 0 ((x.recs[m - 1]?).bind RsRecord.link) none
    s.modStream r ({ c with s := s }.written 0xB0 i [ty i, tI1] (c.lanes i) ((parts c i).zipIdx.map fun (p : Nat × Nat) =>
      (p.1, match (if p.2 < m then x.recs[p.2]? else none) with
        | some q => { vals := [q.bits.toNat % 2 ^ w, 1] }
        | none => { vals := [0, 0] })))
  (x.recs.length + pushing.length ≤ 1024 → exec (.rsPush i) s = .next ((set s { x with
    recs := x.recs ++ (pushing.map fun l => ⟨BitVec.ofNat 64 (c.arg i 1 w l), r.idx, some (s.streamRef r)⟩) }).modStream r Stream.retired)) ∧
  (1024 < x.recs.length + pushing.length → exec (.rsPush i) s =
    .next (s.modStream r fun st => st.blocked s.now (.rsPush k pushing.length))) ∧
  (i.attr.low / 4 = 1 → exec (.rsPop i) s = .next (take (if x.waiting = [] then min n x.recs.length else 0))) ∧
  (i.attr.low / 4 ≠ 1 → 0 < n → n ≤ x.recs.length → x.waiting = [] ∨ x.waiting.head? = some r.idx →
    exec (.rsPop i) s = .next (take n)) ∧
  (i.attr.low / 4 ≠ 1 → 0 < n → x.recs.length < n → r.idx ∉ x.waiting →
    exec (.rsPop i) s = .next ((set s { x with waiting := x.waiting ++ [r.idx] }).modStream r fun st =>
      st.blocked s.now (.rsPop k n)))

/-- R274, R275: a quiet group that is named, or the first, arrives at regroup and waits; once the generation it waited for is over
it receives in each lane the position that lane came from, or, with no lane left on its path, goes on with its next path. -/
def Obligations.RegroupArrivesAndReturns : Prop := ∀ (i : Ins) (s : State) (r : StreamRef) (t : Team) (st : Stream), Runs s r t st →
  let c := Cx.mk s r t st
  (st.mark = none → st.quiet = true → t.regroup.arrived = [] ∨ r.idx ∈ t.regroupMembers →
    let gen := t.regroup.gen
    let a : RegroupArrival :=
      { group := r.idx, lanes := c.lanes i, named := BitVec.ofNat 32 (c.arg i 1 32 c.lead), pos := ⟨st.func, st.off⟩
        keys := (List.range 32).map fun l => BitVec.ofNat 64 (c.arg i 0 32 l), compact := i.attr.low == 1 }
    exec (.regroup i) s = .next (((s.modStream r fun st =>
      { st.blocked s.now (.regroup gen) with mark := some (.regroup gen) }).modTeam c.core fun u =>
        { u with regroup := { u.regroup with
            arrived := u.regroup.arrived ++ [a], last := some (s.arrival r t.regroup.last) } }).regroupCheck c.core)) ∧
  (∀ gen, st.mark = some (.regroup gen) → gen ≠ t.regroup.gen →
    let s' := s.streamLink r 0x09 0 0 (st.prod.map Prod.fst) (st.prod.map Prod.snd)
    (st.active = 0 → exec (.regroup i) s = .next (s'.modStream r fun st => st.resume.branched)) ∧
    (st.active ≠ 0 → exec (.regroup i) s = .next (s'.modStream r ({ c with s := s' }.written 0xB1 i [tI32] (c.lanes i)
      ((parts c i).map fun l =>
        (l, { vals := [((((t.regroup.results.lookup r.idx).getD [])[l]?).getD 0).toNat] }))))))

/-! ### The control engine (spec/04_control_engine.md) -/
namespace Sys2Proof.Claims

/-- Results of a stream-wide instruction, in every active lane (R105), and the stream moves on. -/
def wide (c : Cx) (opc : Nat) (i : Ins) (tys vals : List Nat) (s : State) : State :=
  s.modStream c.r fun st =>
    (c.deliverAll opc 0 i st.active ((lanesOf st.active).map fun l => (l, { vals := vals })) st 0 tys).retired

/-- The stream moves on, and nothing else happens. -/
abbrev moveOn (s : State) (r : StreamRef) : State := s.modStream r Stream.retired

/-- The guard of a stream-wide instruction holds in the lowest active lane (R59). -/
abbrev performed (c : Cx) (i : Ins) : Prop := guardHolds c.st i.guard c.lead = true

/-- Nothing is due to a stream: no poisoned register and no deferred code. -/
def nothingDue (st : Stream) : Prop := st.poisoned = [] ∧ st.due = []

end Sys2Proof.Claims

/-- R59: a stream-wide instruction whose guard does not hold in the lowest active lane gives each active lane its fallbacks in
the portable form, changes nothing but its own stream, and the stream moves on. -/
def Obligations.GuardedOffInstructionsMoveOn : Prop := ∀ (i : Ins) (s : State) (r : StreamRef) (t : Team) (st : Stream),
  Runs s r t st → ¬ performed ⟨s, r, t, st⟩ i →
  ∀ (x : Instr) (opc : Nat) (tys : List Nat), (x, opc, tys) ∈ [(Instr.qpush i, 0xC2, []), (.qpop i, 0xC3, [ty i]), (.qtry i, 0xD0, [ty i, tI1]),
      (.qoffer i, 0xD1, [tI1]), (.tokPush i, 0xC4, []), (.tokPop i, 0xC5, []), (.tokCnt i, 0xD2, [tI32]), (.wait i, 0xC6, []),
      (.cntRd i, 0xD3, [tI32]), (.modeSet i, 0xC8, []), (.modeGet i, 0xC9, [tI32]), (.flagsClr i, 0xD5, []),
      (.trap i, 0xCC, []), (.trapValue i, 0xCC, []), (.brk i, 0xCD, []), (.yield i, 0xCE, []), (.sleep i, 0xCF, []),
      (.nop i, 0xD4, [])] →
    exec x s = .next (s.modStream r ((Cx.mk s r t st).written opc i tys 0 []))

/-- R107 to R109, R112, R399, R400: branches. A native branch names its next bundle. A conditional branch whose lanes agree
goes to its target; one whose lanes differ runs the path its hint names first, with the other path and the reconvergence entry
on the mask stack. In the portable form a branch, a call and a return pass their arguments to the block they go to. -/
def Sys2Proof.Claims.BranchesAndCalls : Prop := ∀ (i : Ins) (s : State) (r : StreamRef) (t : Team) (st : Stream), Runs s r t st →
  let c := Cx.mk s r t st
  let still : Stream := { st with wait := none, stage := [], mark := none, headAt := none, prod := none }
  let yes := maskOf fun l => st.active.getLsbD l && c.arg i 0 1 l == 1
  let no := st.active &&& ~~~yes
  let inv := i.attr.ctlByte.getLsbD 0
  let run := if inv then no else yes
  let other := st.active &&& ~~~run
  let rc := c.warg i 3 24
  exec (.blk i) s = .next (moveOn s r) ∧
  (st.native = true → exec (.br i) s = .next (s.modStream r fun _ => { still with jump := some (c.warg i 0 24) })) ∧
  (st.native = true → run ≠ 0 → other = 0 →
    exec (.brc i) s = .next (s.modStream r fun _ => { still with jump := some (c.warg i 1 24) })) ∧
  (st.native = true → run = 0 → other ≠ 0 →
    exec (.brc i) s = .next (s.modStream r fun _ => { still with jump := some (c.warg i 2 24) })) ∧
  (st.native = true → run ≠ 0 → other ≠ 0 → run &&& st.ended = 0 → rc ≠ 0xFFFFFF → c.warg i 1 24 ≠ rc → c.warg i 2 24 ≠ rc →
    (∀ e rest, st.stack = e :: rest → (e.recon && e.pc == rc) = false) →
    exec (.brc i) s = .next (s.modStream r fun _ => { still with
      active := run, jump := some (c.warg i 1 24)
      stack := ⟨other, c.warg i 2 24, false⟩ :: ⟨st.active, rc, true⟩ :: st.stack })) ∧
  (st.native = false → st.active ≠ 0 → ∀ x, x = Instr.br i ∨ x = .call i → exec x s = .next (s.modStream r fun st =>
    ({ c.passArgs ((st.succ[0]?).getD 0) (((i.succ[0]?).map Target.args).getD []) st.active st with
      blk := (st.succ[0]?).getD 0, item := 0 }).branched)) ∧
  (st.native = false → exec (.ret i) s = .next (s.modStream r fun st =>
    ({ c.passArgs ((st.succ[0]?).getD 0) (i.src.map Opnd.num) st.active st with
      blk := (st.succ[0]?).getD 0, item := 0 }).branched)) ∧
  (st.native = false → yes = st.active → st.active ≠ 0 → inv = false → exec (.brc i) s = .next (s.modStream r fun u =>
    ({ c.passArgs ((st.succ[1]?).getD 0) (((i.succ[1]?).map Target.args).getD []) 0
        (c.passArgs ((st.succ[0]?).getD 0) (((i.succ[0]?).map Target.args).getD []) yes u) with
      blk := (st.succ[0]?).getD 0, item := 0 }).branched)) ∧
  (st.native = false → exec (.brt i) s = .next (s.modStream r fun u =>
    let n := i.succ.length - 1
    let takes (k : Nat) : BitVec 32 := maskOf fun l => st.active.getLsbD l && Nat.min (c.arg i 0 32 l) n == k
    (((List.range (n + 1)).foldl (fun u k =>
        c.passArgs ((u.succ[k]?).getD 0) (((i.succ[k]?).map Target.args).getD []) (takes k) u) u).split
      ((c.unit[st.blk]?).bind UBlock.recon)
      ((List.range (n + 1)).map fun k => (takes k, (st.succ[k]?).getD 0))).branched))

/-- R110: end takes the active lanes out for good; with no path left on the mask stack the stream has ended, which may complete
the rendezvous and the regroup generation. -/
def Sys2Proof.Claims.EndOfAStream : Prop := ∀ (i : Ins) (s : State) (r : StreamRef) (t : Team) (st : Stream), Runs s r t st →
  nothingDue st → r.idx ≠ 32 → popLive (st.ended ||| st.active) st.stack = none →
    exec (.endStream i) s = .next (((s.modStream r fun st => { st with
      ended := st.ended ||| st.active, active := 0, stack := [], finished := true
      wait := none, stage := [], mark := none, headAt := none, prod := none }).modTeam (coreOf r) Team.rdvCheck).regroupCheck
        (coreOf r))

/-- Control flow and the end of a stream. R107 to R109, R112, R399, R400: branches. A native branch names its next bundle. A
conditional branch whose lanes agree goes to its target; one whose lanes differ runs the path its hint names first, with the
other path and the reconvergence entry on the mask stack. In the portable form a branch, a call and a return pass their
arguments to the block they go to. R110: end takes the active lanes out for good; with no path left on the mask stack the
stream has ended, which may complete the rendezvous and the regroup generation. -/
def Obligations.BranchesCallsAndEnds : Prop := Claims.BranchesAndCalls ∧ Claims.EndOfAStream

/-- R19 to R25, R120 to R122: a push appends the stream's words to its queue, or waits while it holds 16 entries; a pop takes
the oldest entry, each lane its own word; the offering and trying forms never wait; tokens count up to 8,
and a pop takes none of those pushed in its own cycle. -/
def Obligations.QueuesAndTokens : Prop := ∀ (i : Ins) (s : State) (r : StreamRef) (t : Team) (st : Stream), Runs s r t st →
  performed ⟨s, r, t, st⟩ i →
  let c := Cx.mk s r t st
  let k := (i.attr.ctlByte.extractLsb' 0 3).toNat
  let q := (t.queues[k]?).getD {}
  let cut (x : Nat) : Word := BitVec.ofNat 64 (if q.kind = 1 then x % 2 ^ 32 else x)
  let entry : List Word := if q.kind = 3 then [cut (c.warg i 0 (tyBits (ty i)))]
    else (List.range 32).map fun l => if st.active.getLsbD l then cut (c.arg i 0 (tyBits (ty i)) l) else 0
  let set (s : State) (es : List (List Word × Option Nat)) : State :=
    s.modTeam c.core fun t => { t with queues := setAt t.queues k { q with entries := es } }
  let full := set s (q.entries ++ [(entry, some (s.streamRef r))])
  let pop (opc : Nat) (tys more : List Nat) (ws : List Word) (ref : Option Nat) : State :=
    let s := (set s (q.entries.drop 1)).streamLink r 0x05 k 0 ref none
    s.modStream r ({ c with s := s }.written opc i tys st.active ((lanesOf st.active).map fun l =>
      (l, { vals := ((ws[if q.kind = 3 then 0 else l]?).getD 0).toNat % 2 ^ tyBits (ty i) :: more })))
  (q.kind ≠ 0 → q.prod = r.idx → q.entries.length < 16 →
    exec (.qpush i) s = .next (moveOn full r) ∧ exec (.qoffer i) s = .next (wide c 0xD1 i [tI1] [1] full)) ∧
  (q.kind ≠ 0 → q.prod = r.idx → 16 ≤ q.entries.length →
    exec (.qpush i) s = .next (s.modStream r fun st => st.blocked s.now (.push k)) ∧
    exec (.qoffer i) s = .next (wide c 0xD1 i [tI1] [0] s)) ∧
  (q.kind = 0 ∨ q.prod ≠ r.idx → ∀ x, x = Instr.qpush i ∨ x = .qoffer i →
    exec x s = .next (s.takeTrap r (st.trapAt r.idx 0x1A))) ∧
  (q.kind ≠ 0 → q.cons = r.idx → ∀ ws ref es, q.entries = (ws, ref) :: es →
    exec (.qpop i) s = .next (pop 0xC3 [ty i] [] ws ref) ∧
    exec (.qtry i) s = .next (pop 0xD0 [ty i, tI1] [1] ws ref)) ∧
  (q.kind ≠ 0 → q.cons = r.idx → q.entries = [] →
    exec (.qpop i) s = .next (s.modStream r fun st => st.blocked s.now (.pop k)) ∧
    exec (.qtry i) s = .next (wide c 0xD0 i [ty i, tI1] [0, 0] s)) ∧
  (q.kind = 0 ∨ q.cons ≠ r.idx → ∀ x, x = Instr.qpop i ∨ x = .qtry i →
    exec x s = .next (s.takeTrap r (st.trapAt r.idx 0x1A))) ∧
  (let f := (i.attr.ctlByte.extractLsb' 0 2).toNat
   let x := t.fifo f
   let put (x : TokenFifo) : State := s.modTeam c.core fun t => t.setFifo f x
   (x.count < 8 → exec (.tokPush i) s =
     .next (moveOn (put { count := x.count + 1, fresh := x.fresh + 1, links := x.links ++ [some (s.streamRef r)] }) r)) ∧
   (8 ≤ x.count → exec (.tokPush i) s = .next (s.modStream r fun st => st.blocked s.now (.tokPush f))) ∧
   (x.fresh < x.count → exec (.tokPop i) s = .next (moveOn
     ((put { x with count := x.count - 1, links := x.links.drop 1 }).streamLink r 0x06 f 0 ((x.links.head?).getD none) none) r)) ∧
   (x.count ≤ x.fresh → exec (.tokPop i) s = .next (s.modStream r fun st => st.blocked s.now (.tokPop f))) ∧
   exec (.tokCnt i) s = .next (wide c 0xD2 i [tI32] [t.shown.token f] s))

/-- R115 to R119: an arrival without a fence joins its barrier and waits; the last arrival advances the generation; a stream
whose generation is over passes. bar.arv gives the generation and does not wait; bar.wt waits for a generation to be over;
rdv and cbar, and bar without .nofence, first issue a fence over every class, and arrive once it is complete. -/
def Sys2Proof.Claims.BarriersAndRendezvous : Prop := ∀ (i : Ins) (s : State) (r : StreamRef) (t : Team) (st : Stream), Runs s r t st →
  let c := Cx.mk s r t st
  let k := (i.attr.ctlByte.extractLsb' 0 4).toNat
  let b := (t.bars[k]?).getD {}
  let plain := i.attr.ctlByte.getLsbD 4
  let fence (scope : Nat) : State :=
    let a : Acc := { id := s.nextId, ref := r, asid := t.asid, kind := .fence (BitVec.allOnes 16), scope := scope, acq := true
                     rel := true, lanes := (lanesOf st.active).map fun l => { lane := l, va := 0 }
                     pos := ⟨st.func, st.off⟩, link := some (s.streamRef r), born := s.now }
    { s with nextId := s.nextId + 1, flights := s.flights ++ [a] }.modStream r fun st =>
      { st.blocked s.now (.fence s.nextId) with stage := [s.nextId] }
  let settled := ∃ id rest, st.stage = id :: rest ∧ s.acc? id = none
  let passed (kind detail gen : Nat) (p : Option (Nat × Nat)) (acq : Option Nat) : State :=
    let s := s.streamLink r kind detail gen (p.map Prod.fst) (p.map Prod.snd)
    moveOn (match acq with
      | some scope => s.acquireAt c.core r.idx scope
      | none => s) r
  (st.mark = none → plain = true ∨ settled → exec (.bar i) s = .next ((s.modStream r fun st =>
    { st.blocked s.now (.bar k b.gen) with mark := some (.bar k b.gen) }).modTeam c.core fun t =>
      t.arrive k (c.warg i 0 32) (s.arrival r b.last))) ∧
  (st.mark = none → plain = false → st.stage = [] → exec (.bar i) s = .next (fence 0)) ∧
  (∀ k' gen, st.mark = some (.bar k' gen) → (t.bar k').gen ≠ gen →
    exec (.bar i) s = .next (passed 0x02 k' gen.toNat st.prod (if plain then none else some 0))) ∧
  (plain = true ∨ settled → exec (.barArv i) s =
    .next (wide c 0xD6 i [tI32] [b.gen.toNat] ((s.streamLink r 0x03 k 0 none none).modTeam c.core fun t =>
      t.arrive k (c.warg i 0 32) (s.arrival r b.last)))) ∧
  (b.gen ≠ BitVec.ofNat 32 (c.warg i 0 32) → ∀ p, st.prod = some p → exec (.barWt i) s =
    .next (passed 0x02 k (c.warg i 0 32 % 2 ^ 32) (some p) (if plain then none else some 0))) ∧
  (b.gen = BitVec.ofNat 32 (c.warg i 0 32) → exec (.barWt i) s =
    .next (s.modStream r fun st => st.blocked s.now (.bar k (BitVec.ofNat 32 (c.warg i 0 32))))) ∧
  (st.mark = none → nothingDue st → st.stage = [] → exec (.rdv i) s = .next (fence 0)) ∧
  (st.mark = none → nothingDue st → settled → st.cp = [] → st.mx = [] → exec (.rdv i) s = .next ((s.modStream r fun st =>
    { st.blocked s.now (.rdv t.rdv.gen) with mark := some (.rdv t.rdv.gen) }).modTeam c.core fun u =>
      { u with rdv := { u.rdv with arrived := u.rdv.arrived ++ [r.idx], last := some (s.arrival r t.rdv.last) } }.rdvCheck)) ∧
  (∀ gen, st.mark = some (.rdv gen) → t.rdv.gen ≠ gen → exec (.rdv i) s = .next (passed 0x01 0 gen.toNat st.prod (some 0))) ∧
  (st.mark = none → plain = false → st.stage = [] → exec (.cbar i) s = .next (fence 1)) ∧
  (∀ b' g x, st.mark = some (.cbar b' g) → s.cluster? t.cluster = some x → (x.bar b').gen ≠ g →
    exec (.cbar i) s = .next (passed 0x04 b' g.toNat st.prod (if plain then none else some 1))) ∧
  (∀ x, st.mark = none → plain = true ∨ settled → s.cluster? t.cluster = some x →
    let n := (i.attr.ctlByte.extractLsb' 0 2).toNat
    exec (.cbar i) s = .next (c.cbarArrive n (c.warg i 0 32) (s.modStream r fun st =>
      { st.blocked s.now (.cbar n (x.bar n).gen) with mark := some (.cbar n (x.bar n).gen) })))

/-- R115: an arrival at a barrier counts; the one that reaches the target, taken from the first arrival, completes the
generation: the count begins anew, the generation advances by one, and the streams that wait for it are handed its producer;
every other barrier keeps its state. -/
def Sys2Proof.Claims.LastArrivalAdvancesTheGeneration : Prop := ∀ (t : Team) (k n : Nat) (p : Nat × Nat) (b : Barrier), t.bars[k]? = some b →
  let target := if b.arrived = 0 then (if 1 ≤ n ∧ n ≤ 1 + t.groups.length then n else 1 + t.groups.length) else b.target
  (b.arrived + 1 = target → (t.arrive k n p).bars[k]? =
    some { gen := b.gen + 1, target := target, done := some p } ∧
    (∀ (g : Nat) (st : Stream), t.groups[g]? = some st → st.wait = some (.bar k b.gen) → ∃ u, (t.arrive k n p).groups[g]? = some u ∧ u.prod = some p)) ∧
  (b.arrived + 1 ≠ target → (t.arrive k n p).bars[k]? =
    some { b with target := target, arrived := b.arrived + 1, last := some p } ∧ (t.arrive k n p).groups = t.groups) ∧
  (∀ j, j ≠ k → (t.arrive k n p).bars[j]? = t.bars[j]?)

/-- Arrivals, waits and generations. R115 to R119: an arrival without a fence joins its barrier and waits; the last arrival
advances the generation; a stream whose generation is over passes. bar.arv gives the generation and does not wait; bar.wt
waits for a generation to be over; rdv and cbar, and bar without .nofence, first issue a fence over every class, and arrive
once it is complete. R115: an arrival at a barrier counts; the one that reaches the target, taken from the first arrival,
completes the generation: the count begins anew, the generation advances by one, and the streams that wait for it are handed
its producer; every other barrier keeps its state. -/
def Obligations.BarriersRendezvousAndGenerations : Prop := Claims.BarriersAndRendezvous ∧ Claims.LastArrivalAdvancesTheGeneration

/-- R27, R123 to R127, R132: wait goes on once its path's count has fallen to the threshold; the counts of the
previous cycle's end, the special registers and the mode register are read; mode.set changes the masked bits and keeps RM and NAN where the new value is
reserved; flags.clr clears the named flags; yield, sleep and nop. -/
def Sys2Proof.Claims.CountersModeAndSpecialRegisters : Prop := ∀ (i : Ins) (s : State) (r : StreamRef) (t : Team) (st : Stream),
  Runs s r t st →
  let c := Cx.mk s r t st
  let p := (i.attr.ctlByte.extractLsb' 0 3).toNat
  let n := c.warg i 0 32
  Plain (.sreg i) 0xC7 i [ty i] (fun c l => [c.special (c.arg i 0 7 l) l]) ∧
  (performed c i →
    (p ≠ 2 → nothingDue st → (st.path p).length ≤ n → exec (.wait i) s =
      .next (moveOn (s.streamLink r 0x07 p 0 (st.reached.lookup (p, n)) none) r)) ∧
    (p = 2 → nothingDue st → st.ackLost = false → (st.path 2).length ≤ n → exec (.wait i) s =
      .next (moveOn ((s.flushCore c.core).streamLink r 0x07 2 0 (st.reached.lookup (2, n)) none) r)) ∧
    (p ≠ 2 → nothingDue st → n < (st.path p).length → exec (.wait i) s =
      .next (s.modStream r fun st => st.blocked s.now (.counter p n))) ∧
    exec (.cntRd i) s = .next (wide c 0xD3 i [tI32] [t.shown.count r.idx p] s) ∧
    ((∀ x ∈ st.landings, x.flags = 0) →
      exec (.modeGet i) s = .next (wide c 0xC9 i [tI32] [st.mode.toNat] s) ∧
      exec (.flagsClr i) s = .next (s.modStream r fun st => { st with
        mode := st.mode &&& ~~~(((i.attr.ctlByte.extractLsb' 0 5).setWidth 32) <<< (16 : Nat)) }.retired) ∧
      (∃ m, exec (.modeSet i) s = .next (s.modStream r fun st => { st with mode := m }.retired) ∧
        let old := st.mode
        let v := BitVec.ofNat 32 (c.warg i 0 32)
        let k := BitVec.ofNat 32 (c.warg i 1 32)
        let new := (old &&& ~~~k) ||| (v &&& k)
        m.extractLsb' 0 3 = (if new.extractLsb' 0 3 = 0 ∨ new.extractLsb' 0 3 = 7 then old.extractLsb' 0 3 else new.extractLsb' 0 3) ∧
        m.extractLsb' 3 3 = new.extractLsb' 3 3 ∧
        m.extractLsb' 6 2 = (if new.extractLsb' 6 2 = 3 then old.extractLsb' 6 2 else new.extractLsb' 6 2) ∧
        m.extractLsb' 8 5 = new.extractLsb' 8 5 ∧ m.extractLsb' 13 3 = 0 ∧
        m.extractLsb' 16 5 = new.extractLsb' 16 5 ∧ m.extractLsb' 21 11 = 0)) ∧
    exec (.yield i) s = .next (s.modStream r fun st => { st with yielded := true }.retired) ∧
    exec (.sleep i) s = .next (s.modStream r fun st =>
      { st with sleep := if n = 0 then 0 else min n (2 ^ 20) + 2 }.retired)) ∧
  exec (.nop i) s = .next (s.modStream r (c.written 0xD4 i [] 0 []))

/-- R124, Table 2.13: the special registers. -/
def Sys2Proof.Claims.SpecialRegisters : Prop := ∀ (s : State) (r : StreamRef) (t : Team) (st : Stream) (l : Nat),
  let c := Cx.mk s r t st
  c.special 0 l = (if r.idx = 32 then 0 else l) ∧ c.special 1 l = r.idx ∧ c.special 2 l = t.groups.length ∧
  c.special 3 l = t.teamid ∧ (∀ k, s.cluster? t.cluster = some k → c.special 4 l = k.number) ∧
  (∀ j, j < 6 → ∀ x, t.idx[j]? = some x → c.special (5 + j) l = x.toNat) ∧
  c.special 11 l = r.die ∧ c.special 12 l = (s.die r.die).ident ∧ c.special 13 l = r.core ∧
  c.special 14 l = (s.die r.die).clock % 2 ^ 64 ∧ c.special 15 l = s.now ∧ c.special 16 l = st.mode.toNat ∧
  c.special 17 l = (st.mode.extractLsb' 16 5).toNat

/-- Counters, the mode register, and what the special registers read as. R27, R123 to R127, R132: wait goes on once its path's
count has fallen to the threshold; the counts of the previous cycle's end, the special registers and the mode register are
read; mode.set changes the masked bits and keeps RM and NAN where the new value is reserved; flags.clr clears the named flags;
yield, sleep and nop. R124, Table 2.13: the special registers. -/
def Obligations.ModeCountersAndSpecialRegisters : Prop := Claims.CountersModeAndSpecialRegisters ∧ Claims.SpecialRegisters

/-- R130, R131: trap holds its team trapped with TRAP_INSN and its code; brk with BREAKPOINT where kernel debug is unlocked for
the job, and otherwise it moves on. -/
def Obligations.TrapsAndBreakpoints : Prop := ∀ (i : Ins) (s : State) (r : StreamRef) (t : Team) (st : Stream), Runs s r t st →
  performed ⟨s, r, t, st⟩ i →
  let rec_ (code value : Nat) : TrapRecord :=
    { stream := r.idx, code := code, pos := ⟨st.func, st.off⟩, arg := i.attr.ctlByte.toNat, value := value
      bundle := if st.native then some (st.bundle, st.slot, st.ravel) else none }
  exec (.trap i) s = .next (s.takeTrap r (rec_ 0x18 0)) ∧
  exec (.trapValue i) s = .next (s.takeTrap r (rec_ 0x18 ((Cx.mk s r t st).warg i 0 32))) ∧
  (s.kdbgFor t.asid = true → exec (.brk i) s = .next (s.takeTrap r (rec_ 0x19 0))) ∧
  (s.kdbgFor t.asid = false → exec (.brk i) s = .next (s.modStream r ((Cx.mk s r t st).written 0xCD i [] 0 [])))

/-- R36, R131, R471: taking a trap outside the weighing of a bundle. The stream is held and its team is trapped with the
record and the codes still due in its streams; those stay as they are. With kernel debug for the job a team with TRAP_INSN,
BREAKPOINT or DEBUG_STOP stays held, and every other code ends the job, at once where the engines of its teams are at rest
(R330; log entry 113, DEDUCED). Resuming lifts the trap. -/
def Obligations.TakingATrap : Prop := ∀ (s : State) (r : StreamRef) (t : Team) (st : Stream) (rec_ : TrapRecord),
  s.team? (coreOf r) = some t → t.stream? r.idx = some st → st.issuing = false → t.capture = none →
  let held := { rec_ with due := rec_.due ++ t.stillDue }
  (∃ u, (s.markTrap r rec_).team? (coreOf r) = some u ∧ u.trapped = some held ∧
    u.stream? r.idx = some { st with wait := some .held } ∧
    (∀ j, j ≠ r.idx → u.stream? j = t.stream? j)) ∧
  (s.kdbgFor t.asid = true → holdsTeam rec_.code = true → s.takeTrap r rec_ = s.markTrap r rec_) ∧
  (s.kdbgFor t.asid = false ∨ holdsTeam rec_.code = false →
    s.takeTrap r rec_ = (s.markTrap r rec_).endJob t.asid rec_.code) ∧
  (∀ code, (∀ k ∈ s.cores, ∀ u, k.team = some u → u.asid = t.asid → u.atRest = true) →
    s.endJob t.asid code = s.finishJob t.asid code) ∧
  (t.trapped = some rec_ → rec_.stream = r.idx → ∃ u, (s.resumeTeam (coreOf r)).team? (coreOf r) = some u ∧
    u.trapped = none ∧ u.stream? r.idx = some { st with wait := none, stop := .running })

/-- R128, R129: phase is denied without EXCL or beyond the launch's phases, does nothing for the current phase, and otherwise
begins the change; launch traps when its record is not aligned, refuses a queue that is not the job's or is full, and
otherwise appends the record and gives its place in the ring. -/
def Obligations.PhasesAndLaunches : Prop := ∀ (i : Ins) (s : State) (r : StreamRef) (t : Team) (st : Stream), Runs s r t st →
  let c := Cx.mk s r t st
  let p := c.warg i 0 32
  (∀ l, s.launch? t.launch = some l →
    (l.record.flags / 4 % 2 = 0 ∨ l.record.phases ≤ p → exec (.phase i) s = .next (s.takeTrap r (st.trapAt r.idx 0x1B))) ∧
    (l.record.flags / 4 % 2 = 1 → p < l.record.phases → p = t.phase → t.change = none →
      exec (.phase i) s = .next (moveOn s r)) ∧
    (l.record.flags / 4 % 2 = 1 → p < l.record.phases → p ≠ t.phase → t.change = none → exec (.phase i) s =
      .next ((s.modTeam c.core fun t => { t with change := some (t.change.getD { target := p }) }).modStream r fun st =>
        st.blocked s.now .phase))) ∧
  (c.warg i 1 64 % 64 ≠ 0 → exec (.launch i) s = .next (s.takeTrap r { st.trapAt r.idx 0x24 with
    value := c.warg i 1 64, lanes := maskOfList [c.lead] })) ∧
  (c.warg i 1 64 % 64 = 0 → (∃ id rest, st.stage = id :: rest ∧ s.acc? id = none) → ∀ q, s.walker.queues[p]? = some q →
    (q.en = false ∨ q.asid.toNat ≠ t.asid → exec (.launch i) s = .next (wide c 0xCB i [tI32] [0xFFFFFFFF] s)) ∧
    (q.en = true → q.asid.toNat = t.asid → q.size ≤ (q.tail - q.head).toNat →
      exec (.launch i) s = .next (wide c 0xCB i [tI32] [0xFFFFFFFE] s)) ∧
    (q.en = true → q.asid.toNat = t.asid → (q.tail - q.head).toNat < q.size →
      ∀ s' bytes, (∀ go, c.readRecord true 256 64 (c.warg i 1 64) go = go s' bytes) → exec (.launch i) s =
        .next (wide c 0xCB i [tI32] [q.tail.toNat % q.size] (s'.appendRecord p q bytes))))

/-! ### The matrix engine (spec/11_matrix_engine.md), the copy engine (spec/10_copy_engine.md), observation and sails -/
namespace Sys2Proof.Claims

/-- The release an engine command carries: a fence over every class and lane that releases the stream's earlier accesses
(R291, R325), and its number. -/
def released (c : Cx) (scope : Nat) : State :=
  let a : Acc := { id := c.s.nextId, ref := c.r, asid := c.t.asid, kind := .fence (BitVec.allOnes 16), scope := scope, rel := true
                   lanes := (List.range 32).map fun l => { lane := l, va := 0 }, pos := ⟨c.st.func, c.st.off⟩
                   link := some (c.s.streamRef c.r), born := c.s.now }
  { c.s with nextId := c.s.nextId + 1, flights := c.s.flights ++ [a] }

/-- A matrix command joins MXQ with its release, in the open region and renamed for it, and MX rises (R310, R321, R325). -/
def enqueued (c : Cx) (op : MxOp) (push pop : Bool) : State :=
  let cmd : MxCmd :=
    { id := c.s.nextId + 1, op := op, push := push, pop := pop, region := c.t.matrix.region.map SpecRegion.num
      ren := (c.t.matrix.region.map SpecRegion.pairs).getD [], pos := ⟨c.st.func, c.st.off⟩, release := some c.s.nextId }
  ({ released c 0 with nextId := c.s.nextId + 2 }.modTeam c.core fun t =>
    { t with matrix := { t.matrix with queue := t.matrix.queue ++ [cmd] } }).modStream c.r fun st => st.raise 5 cmd.id

/-- The matrix commands without a result: the tiles they name, their push and pop bits, and what they queue. -/
noncomputable def matrixCommands (c : Cx) (i : Ins) : List (Instr × List Nat × Bool × Bool × MxOp) :=
  let a := i.attr.ctlByte
  let w (k : Nat) : Nat := c.warg i k 32
  let sw (k : Nat) : Int := IntOps.sext 32 (w k)
  let push := a.getLsbD 0
  let pop := a.getLsbD 1
  let f := (a.extractLsb' 2 3).toNat
  let rm := if f = 0 then 1 else f
  [(.mxNest i, [], false, false, .nest (a.extractLsb' 0 3).toNat
      { ext := w 0, da := sw 1, db := sw 2, dc := sw 3, ts := sw 4, first := a.getLsbD 3, last := a.getLsbD 4 }),
   (.mxGo i, [w 0 % 16], push, pop, .go (BitVec.ofNat 32 (w 0)) rm (a.getLsbD 5)),
   (.mxZero i, [w 0], push, pop, .zero (w 0)),
   (.mxLoad i, [w 0], push, pop, .load (w 0) (w 1)),
   (.mxStore i, [w 0], push, pop, .store (w 0) (w 1) rm (a.getLsbD 5)),
   (.mxMma i, [w 0 % 16], push, pop, .mma (BitVec.ofNat 32 (w 0))),
   (.mxConf i, [], false, false, .fwb (BitVec.ofNat 32 (w 0))),
   (.mxSclay i, [], false, false, .sclay (w 0) (BitVec.ofNat 32 (w 1))),
   (.mxTcopy i, [w 0, w 1], push, pop, .tcopy (w 0) (w 1)),
   (.mxTadd i, [w 0, w 1], push, pop, .tadd (w 0) (w 1))]

/-- The copy commands: their queue, the arguments of destination, source and slot, whether those are global, and what they
queue. -/
noncomputable def copyCommands (c : Cx) (i : Ins) : List (Instr × Nat × Nat × Bool × Bool × CopyOp) :=
  let slot := c.warg i 3 32
  let key := BitVec.ofNat 64 (c.warg i 0 (if c.isGlobal i 0 then 64 else 32))
  let x := (c.t.copy.residuals[slot]?).getD {}
  [(.cpLd i, 0, 2, false, c.isGlobal i 1, .load), (.cpSt i, 1, 2, true, false, .store), (.cpGg i, 0, 2, true, true, .gg),
   (.cpRed i, 0, 2, c.isGlobal i 0, false, .red slot (x.valid && x.key == key)),
   (.cpFill i, 0, 2, c.isGlobal i 0, true, .fill (BitVec.ofNat 64 (c.warg i 1 64))),
   (.cpBcast i, 0, 2, false, c.isGlobal i 1, .bcast),
   (.cpGat i, 0, 3, false, true, .gather (BitVec.ofNat 64 (c.warg i 2 32))),
   (.cpSct i, 1, 3, true, false, .scatter (BitVec.ofNat 64 (c.warg i 2 32)))]

end Sys2Proof.Claims

/-- R302, R310, R315 to R325, R329: a matrix command whose tiles exist joins MXQ with its release, or waits for an entry; a tile
above 11 traps. mx.lay queues the layout its record holds and gives its reason code; mx.spec opens a region, mx.commit closes
it, mx.drop discards it; mx.fw pushes a format word; mx.stat reads the status, or the conflict counter, of the previous cycle's end, and a clear keeps
what this cycle has set. -/
def Obligations.MatrixInstructions : Prop := ∀ (i : Ins) (s : State) (r : StreamRef) (t : Team) (st : Stream), Runs s r t st →
  performed ⟨s, r, t, st⟩ i →
  let c := Cx.mk s r t st
  let room := st.hasRoom 5 = true ∧ t.matrix.queue.length < 32
  let tag := (i.attr.ctlByte.extractLsb' 0 3).toNat
  let fail (m : MatrixEngine) : MatrixEngine := { m with err := true, errc := if m.errc = 0 then 8 else m.errc }
  (∀ (x : Instr) (tiles : List Nat) (push pop : Bool) (op : MxOp), (x, tiles, push, pop, op) ∈ matrixCommands c i →
    ((∀ k ∈ tiles, k ≤ 11) → room → exec x s = .next (moveOn (enqueued c op push pop) r)) ∧
    ((∃ k ∈ tiles, 11 < k) → exec x s = .next (s.takeTrap r (st.trapAt r.idx 0x41))) ∧
    ((∀ k ∈ tiles, k ≤ 11) → st.hasRoom 5 = true → 32 ≤ t.matrix.queue.length →
      exec x s = .next (s.modStream r fun st => st.blocked s.now (.engineRoom 2)))) ∧
  (room → ∀ s' bytes, (∀ go, c.readRecord (c.isGlobal i 1) 32 32 (c.warg i 1 (if c.isGlobal i 1 then 64 else 32)) go = go s' bytes) →
    let why := layoutReason (c.warg i 0 32) bytes
    exec (.mxLay i) s = .next (wide c 0xDA i [tI32] [why]
      (enqueued { c with s := s' } (.lay (c.warg i 0 32) (if why = 0 then some (layoutOf bytes) else none)) false false))) ∧
  (let ren := tilesOf (c.warg i 0 32)
   let don := tilesOf (c.warg i 1 32)
   let g : SpecRegion := { num := t.matrix.nextRegion, tag := tag, pairs := ren.zip don }
   let u : Team := { t with matrix := { t.matrix with region := some g, nextRegion := g.num + 1 } }
   (∀ k ∈ ren ++ don, k ≤ 11) →
    (t.matrix.region = none → ren.length = don.length → (∀ k ∈ ren, k ∉ don) → room → exec (.mxSpec i) s =
      .next (moveOn (enqueued ⟨s.modTeam c.core fun t => { t with matrix := u.matrix }, r, u, st⟩ (.spec tag g.pairs) false false) r)) ∧
    (t.matrix.region.isSome = true ∨ ren.length ≠ don.length ∨ (∃ k ∈ ren, k ∈ don) →
      exec (.mxSpec i) s = .next (s.takeTrap r (st.trapAt r.idx 0x42)))) ∧
  (∀ g, t.matrix.region = some g → g.tag = tag →
    (room → exec (.mxCommit i) s = .next (moveOn (enqueued ⟨s.commitRegion c.core g.num, r,
      { t with matrix := { t.matrix with region := none } }, st⟩ (.commit g.pairs) false false) r)) ∧
    exec (.mxDrop i) s = .next (moveOn (s.dropRegion c.core) r)) ∧
  ((∀ g, t.matrix.region = some g → g.tag ≠ tag) → ∀ x, x = Instr.mxCommit i ∨ x = .mxDrop i →
    exec x s = .next (moveOn (s.modTeam c.core fun t => { t with matrix := fail t.matrix }) r)) ∧
  (t.matrix.fwq.length < 16 → exec (.mxFw i) s = .next (moveOn (s.modTeam c.core fun t =>
    { t with matrix := { t.matrix with fwq := t.matrix.fwq ++ [BitVec.ofNat 32 (c.warg i 0 32)] } }) r)) ∧
  (16 ≤ t.matrix.fwq.length → exec (.mxFw i) s = .next (s.modStream r fun st => st.blocked s.now (.engineRoom 3))) ∧
  (i.attr.ctlByte.getLsbD 0 = false → exec (.mxStat i) s = .next (wide c 0xE7 i [tI32] [t.matrix.stat]
    (if i.attr.ctlByte.getLsbD 1 then s.modTeam c.core fun t =>
      { t with matrix := { t.matrix with stat := t.matrix.stat % 2 ^ 17 } } else s))) ∧
  (i.attr.ctlByte.getLsbD 0 = true → exec (.mxStat i) s = .next (wide c 0xE7 i [tI32] [t.matrix.cflStat]
    (if i.attr.ctlByte.getLsbD 1 then s.modTeam c.core fun t =>
      { t with matrix := { t.matrix with conflicts := 0, cflStat := 0 } } else s)))

/-- R24, R278 to R291, R297: cp.desc installs the descriptor its record holds, or none, and gives its reason code; a copy
command whose queue has room joins it with the descriptor of its slot, its addresses and its release, and CP rises; cp.fence
enters both queues; cp.res sets a residual slot's base; cp.stat reads the status of the previous cycle's end, and a clear keeps what this cycle has
set. -/
def Obligations.CopyInstructions : Prop := ∀ (i : Ins) (s : State) (r : StreamRef) (t : Team) (st : Stream), Runs s r t st →
  performed ⟨s, r, t, st⟩ i →
  let c := Cx.mk s r t st
  let a := i.attr.ctlByte
  (t.copy.names (c.warg i 0 32) = false → ∀ s' bytes,
    (∀ go, c.readRecord (c.isGlobal i 1) 128 128 (c.warg i 1 (if c.isGlobal i 1 then 64 else 32)) go = go s' bytes) →
    let why := descriptorReason (c.warg i 0 32) bytes
    exec (.cpDesc i) s = .next (wide c 0xE8 i [tI32] [why] (s'.modTeam c.core fun t =>
      { t with copy := { t.copy with
        slots := setAt t.copy.slots (c.warg i 0 32) (if why = 0 then some (descriptorOf bytes) else none) } }))) ∧
  (∀ (x : Instr) (q slotArg : Nat) (dg sg : Bool) (op : CopyOp), (x, q, slotArg, dg, sg, op) ∈ copyCommands c i →
    nothingDue st → st.hasRoom 4 = true → (t.copy.queue q).cmds.length < 64 → a.getLsbD 7 = false →
    let scope := (a.extractLsb' 2 3).toNat
    let slot := c.warg i slotArg 32
    let cmd : CopyCmd :=
      { id := s.nextId + 1, op := op, stream := r.idx, pos := ⟨st.func, st.off⟩, slot := slot
        desc := ((t.copy.slots[slot]?).getD none).filter fun d => d.fits op
        dst := BitVec.ofNat 64 (c.warg i 0 (if dg then 64 else 32)), src := BitVec.ofNat 64 (c.warg i 1 (if sg then 64 else 32))
        dstG := dg, srcG := sg, push := a.getLsbD 0, pop := a.getLsbD 1, scope := scope, ef := a.getLsbD 6
        spec := if a.getLsbD 5 && r.idx == 32 then t.matrix.region.map SpecRegion.num else none
        release := some s.nextId }
    let s := { released c scope with nextId := s.nextId + 2 }.modQueue c.core q fun x => { x with cmds := x.cmds ++ [cmd] }
    let s := match op with
      | .red k _ => if k < 8 then s.modTeam c.core fun t => { t with copy := { t.copy with
          residuals := modAt t.copy.residuals k fun x => { x with key := cmd.dst, valid := true } } } else s
      | _ => s
    exec x c.s = .next (s.modStream r fun st => (st.raise 4 cmd.id).retired)) ∧
  (nothingDue st → t.copy.ldq.cmds.length < 64 → t.copy.stq.cmds.length < 64 →
    let entry (id : Nat) : CopyCmd :=
      { id := id, op := .fence t.copy.fences, stream := r.idx, pos := ⟨st.func, st.off⟩, desc := none, slot := 0, dst := 0
        src := 0, dstG := false, srcG := false, push := false, pop := false, scope := 0, ef := false, spec := none
        release := none }
    exec (.cpFence i) s = .next (moveOn ({ s with nextId := s.nextId + 2 }.modTeam c.core fun u =>
      { u with copy := { u.copy with
        fences := t.copy.fences + 1
        ldq := { u.copy.ldq with cmds := u.copy.ldq.cmds ++ [entry s.nextId] }
        stq := { u.copy.stq with cmds := u.copy.stq.cmds ++ [entry (s.nextId + 1)] } } }) r)) ∧
  exec (.cpRes i) s = .next (moveOn (s.modTeam c.core fun t => { t with copy := { t.copy with
    residuals := modAt t.copy.residuals (c.warg i 0 32) fun x =>
      { x with base := c.warg i 1 32 % 2 ^ 24, valid := false } } }) r) ∧
  exec (.cpStat i) s = .next (wide c 0xF3 i [tI64] [t.copy.stat] (if a.getLsbD 0 then s.modTeam c.core fun t =>
    { t with copy := { t.copy with stat := t.copy.stat % 2 ^ 32 } } else s))

/-- R357 to R359, R452, R453, R465, R469: the sail instructions give the status of the change they ask for, or trap without the
privilege; a .wait form that is refused records its link too (the model's reading, log entry 100); ch.mark and ch.step record a
link; tr.start opens the team's window, tr.stop closes it, tr.emit records in it;
sail.query and ctr.rd read the previous cycle's end. -/
def Obligations.ObservationAndSailInstructions : Prop := ∀ (i : Ins) (s : State) (r : StreamRef) (t : Team) (st : Stream),
  Runs s r t st → performed ⟨s, r, t, st⟩ i →
  let c := Cx.mk s r t st
  let w (k : Nat) : Nat := c.warg i k 32
  let key := c.sailKey (w 0)
  let waitBit := i.attr.ctlByte.getLsbD 0
  let rec_ (type : Nat) (payload : List Byte) : TraceRec :=
    { type := type, core := c.core, stream := r.idx, asid := t.asid, pos := ⟨st.func, st.off⟩, payload := payload }
  let privileged := ∃ p ∈ s.sailRegs.pasid, p.2 = true ∧ p.1.toNat = t.asid
  (privileged → ∀ s' bytes,
    (∀ go, c.readRecord (c.isGlobal i 0) 64 64 (c.warg i 0 (if c.isGlobal i 0 then 64 else 32)) go = go s' bytes) →
    exec (.sailDef i) s = .next (wide c 0xFA i [tI32] [(s'.sailDefine bytes).1] (s'.sailDefine bytes).2)) ∧
  (∀ (x : Instr) (opc die : Nat) (change : Nat × State),
      (x, opc, die, change) = (.sailReef i, 0xFB, w 1, s.sailReef key (w 0) (w 1) (w 2) c.core) ∨
      (x, opc, die, change) = (.sailShake i, 0xFC, w 1, s.sailShake key (w 0) (w 1) (w 2) (w 3) c.core) ∨
      (x, opc, die, change) = (.sailDrop i, 0xFD, r.die, s.sailDrop key (w 0)) →
    st.stage = [] → privileged →
    (waitBit = false → exec x s = .next (wide c opc i [tI32] [change.1] change.2)) ∧
    (waitBit = true → change.1 ≠ 0 → exec x s = .next (wide c opc i [tI32] [change.1]
      (change.2.streamLink r 0x0B (opc % 16) 0 (some ((st.prod.map Prod.fst).getD (change.2.terminalRef die 255 6))) none))) ∧
    (waitBit = true → change.1 = 0 → exec x s = .next (change.2.modStream r fun st =>
      { st.blocked s.now (.sail key.num) with stage := [change.2.sailRegs.changes] }))) ∧
  (¬ privileged → st.stage = [] → exec (.sailDef i) s = .next (s.takeTrap r (st.trapAt r.idx 0x32)) ∧
    exec (.sailDrop i) s = .next (s.takeTrap r (st.trapAt r.idx 0x32)) ∧
    (∀ id, key = .sys id → exec (.sailReef i) s = .next (s.takeTrap r (st.trapAt r.idx 0x32)) ∧
      exec (.sailShake i) s = .next (s.takeTrap r (st.trapAt r.idx 0x32)))) ∧
  exec (.sailQuery i) s = .next (wide c 0xFE i [tI32] [s.sailShown key (w 1)] s) ∧
  (st.stage = [] → st.st = [] →
    ((s.sailWriteBack key c.core waitBit).2 ≠ [] → exec (.sailWb i) s =
      .next ((s.sailWriteBack key c.core waitBit).1.modStream r fun st =>
        { st.blocked s.now (.sail key.num) with stage := (s.sailWriteBack key c.core waitBit).2 })) ∧
    ((s.sailWriteBack key c.core waitBit).2 = [] → ∀ p, st.prod = some p → exec (.sailWb i) s =
      .next (wide c 0xFF i [] []
        ((s.sailWriteBack key c.core waitBit).1.streamLink r 0x0B 15 0 (some p.1) none)))) ∧
  exec (.chMark i) s = .next (moveOn (s.streamLink r 0x0E 0 (w 0) none none) r) ∧
  (let s' := s.streamLink r 0x0F 0 (w 0) none none
   let ds := st.destinations i [tI32]
   let k : Walk := { stream := r.idx, pos := ⟨st.func, st.off⟩, id := BitVec.ofNat 32 (w 0), seq := (s.core c.core).nextLink
                     start := st.stepStart.getD 0, stop := s'.now, dsts := ds, lanes := st.active }
   exec (.chStep i) s = .next ((s'.modCore c.core fun x => { x with walks := x.walks ++ [k] }).modStream r fun st =>
     { st with stepStart := some s'.now, pending := st.pending ++ pendingOf ds }.retired)) ∧
  (∀ va size b, s.traceBuf t.asid = some (va, size, b) → s.bufferPinned c.core t.asid va size = true → t.capture = none →
    exec (.trStart i) s = .next (moveOn ((s.modTeam c.core fun t => { t with capture := some {} }).traceWrite
      (rec_ 2 (toBytes 4 (w 0)))) r)) ∧
  (∀ k, t.capture = some k → exec (.trStop i) s = .next (moveOn ((s.traceWrite (rec_ 3 (toBytes 8 k.cycles ++ toBytes 8 k.bundles
    ++ toBytes 8 k.stalls ++ toBytes 4 k.preempts ++ toBytes 4 (w 0)))).modTeam c.core fun t => { t with capture := none }) r)) ∧
  (t.capture = none → ∀ x, x = Instr.trStop i ∨ x = .trEmit i → exec x s = .next (moveOn s r)) ∧
  (t.capture.isSome = true → exec (.trEmit i) s =
    .next (moveOn (s.traceWrite (rec_ 4 (toBytes 4 (w 0) ++ [0, 0, 0, 0] ++ toBytes 8 (c.warg i 1 64)))) r)) ∧
  exec (.ctrRd i) s = .next (wide c 0xF9 i [tI64] [
    if w 0 < 512 then ((((s.trace.seen[r.die]?).getD [])[s.partOf t.launch]?).getD {}).word (w 0)
    else if w 0 < 768 then ((s.core c.core).seenMatrix[w 0 - 512]?).getD 0 else 0] s)

/-- R25, R128, R253, R292, R294, R300, R310 to R315, R330: a finished command leaves its queue with its token, once the FIFO has room; the head of
MXQ executes or starts once its release is complete; FWQ_EMPTY stops the engine; a command in progress does its next step or its
effect, and stops before the next step while its team is saved, trapped or at the end of its job; a copy command's next chunk
starts once it clears its checks; a chunk whose bytes were acknowledged lands; one that its place has applied already is not
applied again, and its acknowledgement may be lost beyond a device link. -/
def Obligations.EngineSteps : Prop := ∀ (s : State) (c : CoreRef) (t : Team),
  (s.team? c = some t → ∀ (k : MxCmd) (rest : List MxCmd), t.matrix.queue = k :: rest → k.finished = true →
    (k.push = true → k.dead = false → t.cs.count < 8) →
    let ref := if k.dead then s.terminalRef c.die c.core 3 else s.queueRef c 3 k.link
    exec (.heldCompletionRelease c 2) s = .next (((s.modTeam c fun t => { t with
        matrix := { t.matrix with queue := rest }, cs := if k.push && !k.dead then t.cs.push (some ref) else t.cs }).modStream
      ⟨c.die, c.core, 32⟩ fun st => st.lower 5 k.id ref).settleMatrix c rest.length)) ∧
  (s.team? c = some t → ∀ (q : Nat) (k : CopyCmd) (rest : List CopyCmd), q < 2 → (t.copy.queue q).cmds = k :: rest →
    (∀ n, k.op ≠ .fence n) → k.allStarted = true → k.flying = [] →
    (∀ f, (t.copy.queue q).halted = some f → f.cmd ≠ k.id) →
    let f := if q = 0 then 0 else 2
    (k.push = true → k.dead = false → (t.fifo f).count < 8) →
    let ref := s.queueRef c (q + 1) k.link
    let u := if k.push && !k.dead then s.modTeam c fun t => t.setFifo f ((t.fifo f).push (some ref)) else s
    exec (.heldCompletionRelease c q) s = .next (((u.modQueue c q fun x => { x with cmds := rest }).modStream
        ⟨c.die, c.core, k.stream⟩ fun st => st.lower 4 k.id ref).completeQueue c q
      (t.copy.ldq.cmds.length + t.copy.stq.cmds.length - 1))) ∧
  (s.team? c = some t → t.matrix.stopped = false → s.mxHeld t = false → t.change = none → ∀ (k : MxCmd),
    (t.matrix.queue.find? fun k => !k.started) = some k →
    let k' : MxCmd := { k with headAt := some (k.headAt.getD s.now) }
    let s' := s.setMx c k'
    (k.op.isTile = true → t.matrix.fwq = [] → exec (.mxqHeadStart c) s = .next (s'.fwqEmpty c k')) ∧
    ((k.op.isTile = true → t.matrix.fwq ≠ []) → ∀ id, k.release = some id → (s.acc? id).isSome = true →
      exec (.mxqHeadStart c) s = .next s') ∧
    ((∀ id, k.release = some id → s.acc? id = none) → k.op.isSetup = true → exec (.mxqHeadStart c) s = .next (((s'.modTeam c fun t =>
        { t with matrix := t.matrix.setup k.op }).setMx c { k' with started := true, finished := true }).settleMatrix c
      t.matrix.queue.length)) ∧
    ((k.op.isTile = true → t.matrix.fwq ≠ []) → (∀ id, k.release = some id → s.acc? id = none) → k.op.isSetup = false →
      (∀ o ∈ t.matrix.queue, o.started = true → o.finished = true) → k'.regionWaits t.matrix.shadow = false →
      (k.pop = true → t.lc.ready = true) → exec (.mxqHeadStart c) s = .next (s'.startMatrix c t k'))) ∧
  (s.team? c = some t → ∀ (k : MxCmd) (l : MxLatch), (t.matrix.queue.find? fun k => k.started && !k.finished) = some k →
    t.matrix.latch = some l → t.matrix.busy = 0 → k.failed = false → k.paused = false →
    let n := t.matrix.queue.length
    let u := s.runStep c t.matrix k l
    let cycles := cyclesFor (u.die c.die).isB k.op l k.word (k.index + 1)
    (k.op.steps l = 0 → exec (.mxCommandComplete c) s =
      .next (((s.runPlain c t.matrix k l).setMx c { k with finished := true }).settleMatrix c n)) ∧
    (k.index + 1 < k.op.steps l → k.dead = false → u.mxHeld t = false → exec (.mxCommandComplete c) s =
      .next (((u.modTeam c fun t => { t with matrix := { t.matrix with busy := cycles } }).setMx c
        { k with index := k.index + 1, paused := false }).settleMatrix c n)) ∧
    (k.index + 1 < k.op.steps l → k.dead = false → u.mxHeld t = true → exec (.mxCommandComplete c) s =
      .next ((u.setMx c { k with index := k.index + 1, paused := true }).settleMatrix c n)) ∧
    (k.index < k.op.steps l → k.op.steps l ≤ k.index + 1 ∨ k.dead = true → exec (.mxCommandComplete c) s =
      .next ((u.setMx c { k with index := k.index + 1, finished := true }).settleMatrix c n)) ∧
    (k.op.steps l ≠ 0 → k.op.steps l ≤ k.index → exec (.mxCommandComplete c) s =
      .next ((s.setMx c { k with finished := true }).settleMatrix c n))) ∧
  (∀ (q : Nat) (k : CopyCmd) (d : Descriptor), q < 2 → (s.settleCopies c q).team? c = some t → t.saving = false → t.trapped = none →
    t.change = none → (∀ l, (s.settleCopies c q).launch? t.launch = some l → l.status = none) → (t.copy.queue q).halted = none →
    ((t.copy.queue q).cmds.map fun (k : CopyCmd) => k.flying.length).foldl (fun a b => a + b) 0 < 16 →
    ((t.copy.queue q).cmds.find? fun k => !k.allStarted) = some k → (∀ n, k.op ≠ .fence n) → k.started = true →
    k.desc = some d →
    let k : CopyCmd := { k with headAt := some (k.headAt.getD (s.settleCopies c q).now) }
    let s' := (s.settleCopies c q).setCmd c q k
    let idx := if k.col = 0 then s'.rowIndex c t k d k.row else k.lastIdx
    let ch : Chunk := { num := k.next, row := k.row, first := k.col, count := k.chunkCount d k.row k.col idx, idx := idx
                        rng := (t.copy.queue q).rng }
    let older := (t.copy.queue q).cmds.takeWhile fun o => o.id != k.id
    let r := s'.checkChunk c t k d ch
    let past := d.e 0 ≤ k.col + ch.count
    (s'.mustWait c t older (s'.chunkSpans c t k d ch.row ch.first ch.count idx) = true →
      exec (.chunkStart c q) s = .next s') ∧
    (s'.mustWait c t older (s'.chunkSpans c t k d ch.row ch.first ch.count idx) = false →
      r.bad = [] → r.missed = [] → r.moving = false → exec (.chunkStart c q) s = .next ((r.s.setCmd c q
        { k with flying := k.flying ++ [{ ch with pages := r.pages, tag := (t.copy.queue q).tag }], next := k.next + 1, row := if past then k.row + 1 else k.row
                 col := if past then 0 else k.col + ch.count, lastIdx := if idx.isSome then idx else k.lastIdx }).modQueue c q
        fun x => { x with rng := BitVec.ofNat 32 (rngAfter (k.rngSteps d ch) x.rng.toNat)
                          tag := if k.op.isRed then x.tag + 1 else x.tag }))) ∧
  (s.team? c = some t → ∀ (n m q : Nat) (k : CopyCmd) (ch : Chunk) (d : Descriptor),
    q = (if t.copy.ldq.cmds.any fun k => k.id == n then 0 else 1) →
    ((t.copy.queue q).cmds.find? fun k => k.id == n) = some k → k.chunk? m = some ch → k.desc = some d →
    let h : Haul := ⟨c, t, k, d, ch⟩
    let r := s.haulRequest h q
    (ch.moved = true → (∀ a ∈ s.flights, a.id ∉ ch.acks) → exec (.chunkLand c n m) s = .next (s.landed h q k)) ∧
    (ch.moved = false → k.orderOk d ch = true → (∀ at_, ch.lostAt = some at_ → 1000 * s.fabricUs ≤ s.since at_) →
      let lose := s.replyTo n m == .lost && k.op.isRed && r.2.loc == 3
      ((s.storedResult r.1 r.2).isSome = true →
        exec (.chunkLand c n m) s = .next (if lose then s.loseAck h q else s.landed h q k)) ∧
      ((s.storedResult r.1 r.2) = none → ∀ s' scales, s.haul h = .ok (s', scales) →
        let k' := h.keep scales k
        let acks := (s'.flights.filter fun a => a.wb && decide (s.nextId ≤ a.id)).map Acc.id
        exec (.chunkLand c n m) s = .next (
          if lose then (s'.storeResult r.1 r.2 (s'.placeUnit r.1 r.2) []).loseAck { h with k := k' } q
          else if acks = [] then s'.landed h q k'
          else s'.setCmd c q (k'.putChunk { ch with moved := true, acks := acks })))))

/-! ### The launch walker and resident teams (spec/03_launch_walker.md) -/

/-- R76, R77, R80, R81, R91, R92: the walker's registers and the copying of records, on a module whose bring-up is over. A doorbell
moves the tail, or is refused when it covers more than the ring; a queue's configuration is written while it is disabled;
writing 1 clears a status bit; a record that reads clean is admitted, rejected with its reason, or stops its queue when it
cannot be read; a counter is written or signalled. -/
def Obligations.QueuesRecordsAndCounters : Prop := ∀ (s : State), s.board.ready = true →
  (∀ q tail x, s.walker.queues[q]? = some x → exec (.lwQdb q tail) s = .next { s with walker := { s.walker with
    queues := setAt s.walker.queues q
      (if (tail - x.head).toNat ≤ x.size then { x with tail := tail } else { x with overrun := true }) } }) ∧
  (∀ q w x, s.walker.queues[q]? = some x → exec (.lwQcfg q w) s = .next { s with walker := { s.walker with
    queues := setAt s.walker.queues q
      (if x.en then { x with en := w.getLsbD 0 }
       else { x with en := w.getLsbD 0, log2n := w.extractLsb' 1 4, fn := w.extractLsb' 8 4, asid := w.extractLsb' 16 16
                     head := if w.getLsbD 0 then 0 else x.head, tail := if w.getLsbD 0 then 0 else x.tail }) } }) ∧
  (∀ q w x, s.walker.queues[q]? = some x → exec (.lwQstat q w) s = .next { s with walker := { s.walker with
    queues := setAt s.walker.queues q
      { x with overrun := x.overrun && !w.getLsbD 0, ringFault := x.ringFault && !w.getLsbD 1 } } }) ∧
  (∀ q, (s.queue q).en = true → (s.queue q).ringFault = false → (s.queue q).head ≠ (s.queue q).tail → s.heldOf q < 8 →
    let x := s.queue q
    let record := s.ringRecord x.asid.toNat (x.base.toNat + 256 * (x.head.toNat % x.size))
    (∀ s', record = (s', none) → exec (.launchRecordCopy q) s = .next (s'.modLq q fun x => { x with ringFault := true })) ∧
    (∀ s' bs, record = (s', some bs) →
      let t := s'.modLq q fun x => { x with head := x.head + 1 }
      let l : Launch := { key := s'.walker.nextKey, queue := q, record := launchRecOf bs, asid := x.asid.toNat, copyTime := s'.now
                          cursor := 5, budget := (launchRecOf bs).budgetInUse.getD 8 }
      (t.board.thermOff = true → exec (.launchRecordCopy q) s = .next (t.reportLaunch l 0x55 0)) ∧
      (t.board.thermOff = false → rejection bs (launchRecOf bs) = none → exec (.launchRecordCopy q) s = .next { t with walker := { t.walker with
        nextKey := t.walker.nextKey + 1, launches := t.walker.launches ++ [l] } }) ∧
      (t.board.thermOff = false → ∀ why, rejection bs (launchRecOf bs) = some why → exec (.launchRecordCopy q) s =
        .next (((t.modLq q fun x => { x with lastReason := BitVec.ofNat 8 why }).walkerEvent q 0x10).reportLaunch l 0x10 why)))) ∧
  (∀ k w, k < 4096 → exec (.lwCcCount k (.write w)) s = .next (s.setCounter { s.counter k with
    count := w.extractLsb' 0 31, err := (s.counter k).err && !w.getLsbD 31 }).settleDeps) ∧
  (∀ k err, k < 4096 → exec (.lwCcCount k (.signal err)) s = .next (s.setCounter { s.counter k with
    count := if (s.counter k).count = BitVec.allOnes 31 then BitVec.allOnes 31 else (s.counter k).count + 1
    err := (s.counter k).err || err }).settleDeps)

/-- R87 to R90, R94 to R103: a launch's next cluster is placed, or a saved one resumed, when it is the first that can be; a team
that has ended and drained retires, and its core is free; pre-emption begins on request or after a wait, and saves a quiet
team; a cluster sail whose id is taken ends the job, with the cause in its trace record as in log entry 110 (the model's choice). -/
def Sys2Proof.Claims.PlacementRetirementAndPreemption : Prop := ∀ (s : State),
  (∀ n l t, s.settleDeps.serveFirst = some (l, t) → l.key = n → s.settleDeps.savedOf l.key = none →
    (s.settleDeps.sailClash l = false → exec (.clusterPlacement n) s = .next t) ∧
    (s.settleDeps.sailClash l = true → exec (.clusterPlacement n) s = .next (s.settleDeps.jobFault l.asid 0x31 [4]))) ∧
  (∀ n l t k, s.serveFirst = some (l, t) → s.savedOf l.key = some k → k.key = n →
    (s.sailClash l = false → exec (.clusterResume n) s = .next t) ∧
    (s.sailClash l = true → exec (.clusterResume n) s = .next (s.jobFault l.asid 0x31 [4]))) ∧
  (∀ c t k, s.team? c = some t → s.cluster? t.cluster = some k → t.drained = true → t.trapped = none →
    (∀ l, s.launch? k.launch = some l → l.status = none) →
    let s' := if k.live = [t.teamid] then (s.flushCore c).clusterFlush k.key c else s.flushCore c
    s'.writingBackFrom k.cores = false → exec (.teamRetire c) s = .next ((s'.freeCore c).memberLeft k t.teamid)) ∧
  (∀ w, s.board.ready = true → w.getLsbD 31 = true → exec (.lwPreempt w) s = .next (s.takeMany
    (fun l _ => l.queue == (w.extractLsb' 0 6).toNat) (w.extractLsb' 8 8).toNat (w.extractLsb' 8 8).toNat)) ∧
  (∀ n l p, s.launch? n = some l → s.eligible l = true →
    (∃ at_, l.waitFrom = some at_ ∧ 1000000 ≤ s.since at_) →
    (∀ k ∈ s.walker.clusters, k.preempting = false) → s.serve l = none →
    let test (m : Launch) (k : Cluster) : Bool :=
      decide (m.record.priority < l.record.priority) && k.cores.any fun c => l.record.dies.contains c.die
    s.lowestPriority test = some p → exec (.preemptWaitTimeout n) s =
      .next (s.takeOne (some l.key) s.walker.clusters.length fun m k => m.record.priority == p && test m k).1) ∧
  (∀ c t k l, s.team? c = some t → s.cluster? t.cluster = some k → s.launch? t.launch = some l → k.preempting = true →
    t.drained = false → (∀ g ∈ s.takenWith l k, ∀ x ∈ s.teamsOf g, s.quiet x.1 x.2 l.record.cls = true) → s.noFarMessage k.key = true →
    let s' := ((s.teamsOf k).foldl (fun s x => s.flushCore x.1) s).clusterFlush k.key c
    s'.writingBackFrom k.cores = false → exec (.preemptSave c) s = .next ((s'.saveTeam l k c t).clusterOff k.key))

/-- R30, R128, R132: a team all of whose streams have been blocked for 2^28 cycles raises TEAM_STALL, once; a sleep ends; a
change of phase drains L1, moves the boundary, and after its cycles the new phase is current. -/
def Sys2Proof.Claims.StallsSleepsAndPhaseDrains : Prop := ∀ (s : State) (c : CoreRef) (t : Team), s.team? c = some t →
  (t.stallRaised = false → t.allBlocked = true → 2 ^ 28 ≤ t.still → exec (.teamStall c) s =
    .next ((s.teamEvent c 63 0x14 ⟨0, 0⟩).modTeam c fun t => { t with stallRaised := true })) ∧
  (∀ k st, t.stream? k = some st → st.sleep = 1 → exec (.sleepExpire ⟨c.die, c.core, k⟩) s =
    .next (s.modStream ⟨c.die, c.core, k⟩ fun st => { st with sleep := 0 })) ∧
  (∀ p l, t.change = some ⟨p, none⟩ → s.launch? t.launch = some l → t.phaseQuiet = true →
    let w := ((s.onward.filter fun o => o.core == c).map fun o => o.lane.pa / 128).eraseDups.length
    let s' := (s.flushCore c).teamTally c 23 w
    let old := (s'.core c).split
    let new := phaseSplit l.record p old
    let s'' := if old.locBytes < new.locBytes then
        s'.clearRange (s'.flatLocal c old.locBytes) (new.locBytes - old.locBytes) else s'
    exec (.phaseDrain c) s = .next ((s''.modCore c fun k => { k with split := new, l1 := [] }).modTeam c fun t =>
      { t with change := some ⟨p, some (64 + (w + 7) / 8)⟩ })) ∧
  (∀ p, t.change = some ⟨p, some 0⟩ → exec (.phaseDrainEnd c) s =
    .next (s.modTeam c fun t => { t with phase := p, change := none }))

/-- Placement, retirement, pre-emption, stalls, sleeps and phases. R87 to R90, R94 to R103: a launch's next cluster is placed,
or a saved one resumed, when it is the first that can be; a team that has ended and drained retires, and its core is free;
pre-emption begins on request or after a wait, and saves a quiet team; a cluster sail whose id is taken ends the job, with the
cause in its trace record as in log entry 110 (the model's choice). R30, R128, R132: a team all of whose streams have been
blocked for 2^28 cycles raises TEAM_STALL, once; a sleep ends; a change of phase drains L1, moves the boundary, and after its
cycles the new phase is current. -/
def Obligations.ClustersAreServedStallAndDrain : Prop := Claims.PlacementRetirementAndPreemption ∧ Claims.StallsSleepsAndPhaseDrains

/-! ### The fabric (spec/14_fabric_engine.md) -/

/-- R12, R253, R370 to R376, R378, R381, R382: the oldest message of a channel that crosses a bridge arrives at the next die of
its route, and is dropped when its sender's incarnation is stale; each message of a replicated sail then does what its rule says at the die it reached; a round whose acknowledgements are
lost commits and invalidates; a request without answer is sent again, and after eight times its job ends; the time
counts from when the request left (the model's reading, log entry 90). -/
def Obligations.FabricMessages : Prop := ∀ (s : State) (src dst : Nat),
  let takes (chan : Nat) (b : Body) : Prop := ∃ m, s.headMsg chan src dst = some m ∧ m.body = b
  (∀ chan m, let crosses (m : Msg) : Bool := m.chan == chan && m.at_ == src && !m.arrived && nextHop m.at_ m.dst == dst
    s.fabric.msgs.find? crosses = some m →
    let after (f : Msg → List Msg) : State := { s with fabric := { s.fabric with
      msgs := replaceFirst crosses f s.fabric.msgs } }
    (m.inc = s.incOf m.src → exec (.bridgeFlitReceive src dst chan true) s =
      .next (after fun m => [{ m with at_ := dst }])) ∧
    (m.inc ≠ s.incOf m.src → exec (.bridgeFlitReceive src dst chan true) s = .next ((after fun _ => []).partEvent 0 0x54)) ∧
    exec (.bridgeFlitReceive src dst chan false) s = .next s) ∧
  (∀ id line, takes 0 (.fetch id line) → s.lineSwept id dst line = true → exec (.fetch src dst) s = .next s) ∧
  (∀ id line, takes 0 (.fetch id line) → s.lineSwept id dst line = false → let s' := s.takeHead 0 src dst
    (s'.roundOpen id line = true → exec (.fetch src dst) s = .next (s'.modSail (.sys id) fun x =>
      { x with rounds := x.rounds.map fun r => if r.line = line then { r with fetches := r.fetches ++ [src] } else r })) ∧
    (∀ x, s'.roundOpen id line = false → s'.sail? (.sys id) = some x →
      let flat := line * x.lineBytes
      let q := s'.homeRead { core := ⟨dst, 255⟩, sail := id, loc := locOf flat, home := dst } flat x.lineBytes
      exec (.fetch src dst) s = .next ((q.1.modSail (.sys id) fun x =>
        { x with sharers := setSharers line (countOf line x.sharers ||| 2 ^ src) x.sharers }).send 3 dst src
          (.fetchResponse id line q.2) (q.1.lineRef (.sys id) dst flat)))) ∧
  (∀ id line data m, s.headMsg 3 src dst = some m → m.body = .fetchResponse id line data → exec (.fetchResponse src dst) s =
    .next ((s.takeHead 3 src dst).modReplica id dst fun x p =>
      let pl := placeOf x p (line * x.lineBytes)
      let room := match p.find? line, p.victim x pl with
        | none, some v => p.drop v.line
        | _, _ => p
      room.putFirst { entry := pl.1, set := pl.2, line := line, valid := 2 ^ x.lineBytes - 1, data := data
                      hidden := (p.find? line).bind SailLine.hidden, ref := m.ref })) ∧
  (∀ id line round off bytes, takes 0 (.hold id line round off bytes) → let s' := s.takeHead 0 src dst
    (s'.roundLives id round = true → exec (.hold src dst) s = .next ((s'.modReplica id dst fun x p =>
      let pl := placeOf x p (line * x.lineBytes)
      let l : SailLine := (p.find? line).getD
        { entry := pl.1, set := pl.2, line := line, valid := 0, data := List.replicate x.lineBytes 0 }
      p.putFirst { l with hidden := some (bytes.zipIdx.map fun b => (off + b.2, b.1)) }).send 2 dst src (.holdAck id line round))) ∧
    (s'.roundLives id round = false → exec (.hold src dst) s = .next (s'.send 2 dst src (.holdAck id line round)))) ∧
  (∀ id line round x r, takes 2 (.holdAck id line round) → let s' := s.takeHead 2 src dst
    s'.sail? (.sys id) = some x → (x.rounds.find? fun r => r.id == round) = some r →
    let r' := { r with waiting := r.waiting.filter fun d => d != src }
    (r'.waiting ≠ [] → exec (.holdAck src dst) s = .next (s'.modSail (.sys id) fun x =>
      { x with rounds := x.rounds.map fun q => if q.id = round then r' else q })) ∧
    (r'.waiting = [] → exec (.holdAck src dst) s =
      .next ((s'.modAcc r.acc fun a => { a with acker := some src }).endRound x r' false))) ∧
  (∀ id line round off bytes m, s.headMsg 3 src dst = some m → m.body = .openLine id line round off bytes →
    let serve (l : SailLine) : Option SailLine :=
      if l.line ≠ line then some l
      else if l.valid = 0 then none
      else some { l with data := patch l.data off bytes, hidden := none, ref := m.ref.orElse fun _ => l.ref }
    exec (.openMsg src dst) s =
      .next ((s.takeHead 3 src dst).modReplica id dst fun _ p => { p with lines := p.lines.filterMap serve })) ∧
  (∀ id line, takes 3 (.invalidate id line) → exec (.invalidate src dst) s =
    .next ((s.takeHead 3 src dst).modReplica id dst fun _ p => p.drop line)) ∧
  (∀ id line off bytes m, s.headMsg 3 src dst = some m → m.body = .efUpdate id line off bytes →
    let serve (l : SailLine) : SailLine :=
      if l.line = line ∧ l.valid ≠ 0 then { l with data := patch l.data off bytes, ref := m.ref.orElse fun _ => l.ref } else l
    exec (.efUpdate src dst) s = .next ((s.takeHead 3 src dst).modReplica id dst fun _ p => { p with lines := p.lines.map serve })) ∧
  (∀ id, takes 0 (.syncRequest id) → exec (.syncRequest src dst) s =
    .next ((s.takeHead 0 src dst).send 3 dst src (.syncMarker id))) ∧
  (∀ id, takes 3 (.syncMarker id) → exec (.syncMarker src dst) s =
    .next ((s.takeHead 3 src dst).modAcc id fun a => { a with markers := a.markers.filter fun d => d != src })) ∧
  (∀ k b gen, s.farArrival k b dst = some (src, gen) → exec (.cbarFarMessage k b dst) s =
    .next (((s.takeHead 2 src dst).modCluster k fun q => { q with bars := modAt q.bars b fun x =>
      if x.gen = gen then { x with heard := x.heard ++ [dst] } else x }).cbarCheck k b)) ∧
  (∀ n x r, (s.sails.find? fun x => x.rounds.any fun r => r.id == n) = some x → (x.rounds.find? fun r => r.id == n) = some r →
    1000 * Nat.max 10 s.fabric.timeout.toNat ≤ s.since r.start → exec (.holdTimeout n) s = .next (s.endRound x r true)) ∧
  (∀ n a, s.acc? n = some a → a.markers = [] → s.requestLeft a = false →
    exec (.fabricTimeout n) s = .next (s.modAcc n fun a => { a with born := s.now, resends := 0 })) ∧
  (∀ n a, s.acc? n = some a → a.markers ≠ [] ∨ (s.requestLeft a = true ∧ ∃ l ∈ a.lanes, a.crosses l = true) →
    1000 * Nat.max 10 s.fabric.timeout.toNat * (a.resends + 1) ≤ s.since a.born →
    (8 ≤ a.resends → exec (.fabricTimeout n) s = .next (s.jobFault a.asid 0x52)) ∧
    (a.resends < 8 → exec (.fabricTimeout n) s = .next (((a.markers.foldl (fun s d => s.send 0 a.ref.die d (.syncRequest n)) s).modAcc
      n fun a => { a with resends := a.resends + 1 }).sendLanes a (a.lanes.filter fun l => l.stage == .applied || l.stage == .lost))))

/-- R252, R348, R373, R383 to R388, R390: a flit in order is delivered, forwarded or dropped as stale, and acknowledges; a bad one asks for
replay, and so does a timeout; training brings a port up, and a port that goes down ends the jobs routed through it; a peer's
request is served when the access list allows it, its atomic once for its requester and tag, with the poison of what it read; an invalidation waits for the accesses it concerns; a die's reset ends the
jobs on it and drops their batches. -/
def Obligations.LinksPeersAndDieResets : Prop := ∀ (s : State) (n : Nat),
  let p := s.port n
  (∀ f : Flit, p.up = true → exec (.flitReceive n false f) s = .next (s.modPort n fun p => { p with nakDue := true })) ∧
  (∀ f : Flit, p.up = true → f.seq = p.expect →
    let a := s.modPort n fun p => p.acked f.ackSeq s.now
    let s' := (if f.nak && (a.port n).replayBuf != [] then a.resendFlits n else a).modPort n fun p =>
      { p with expect := p.expect + 1 }
    (f.inc ≠ p.nbrInc → exec (.flitReceive n true f) s = .next (s'.partEvent 0 0x54)) ∧
    (f.inc = p.nbrInc → f.dst = s.fabric.devid → exec (.flitReceive n true f) s = .next s') ∧
    (∀ b, f.inc = p.nbrInc → f.dst ≠ s.fabric.devid → s'.routePort f.dst.toNat = some b → (s'.port b).full = false →
      exec (.flitReceive n true f) s = .next (s'.sendFlit b { f with cls := f.cls || p.dateline }))) ∧
  (p.up = true → p.replayBuf ≠ [] → 2000 ≤ s.since p.since → exec (.replayTimeout n) s = .next ((s.modPort n fun p =>
    { p with replays := satAdd32 p.replays p.replayBuf.length, since := s.now, stuck := p.stuck + 1
             retraining := p.retraining || decide (8 ≤ p.stuck + 1) }).partEvent 0 0x51)) ∧
  (∀ nbr inc, n < 12 → p.en = true → exec (.portTraining n nbr inc) s = .next (s.modPort n fun p =>
    { (if p.up then p else { p with sendSeq := 0, ackSeq := 0, replayBuf := [], expect := 0 }) with
      up := true, nbr := nbr, nbrInc := inc, retraining := false, stuck := 0, since := s.now })) ∧
  (p.up = true → exec (.portDown n) s = .next ((s.routedJobs n).foldl
    (fun s a => s.jobFault a 0x52) (s.modPort n fun p =>
      { p with up := false, down := true, replayBuf := [], retraining := false, nakDue := false, stuck := 0 }))) ∧
  (∀ dev addr (op : PeerOp), (s.peerAllows dev.toNat op = false → exec (.peerRequest dev addr op) s = .next s) ∧
    (s.peerAllows dev.toNat op = true →
      (∀ bytes bad, op = .write bytes bad → exec (.peerRequest dev addr op) s = .next (s.peerWrite addr.toNat bytes bad)) ∧
      (∀ size, op = .read size → exec (.peerRequest dev addr op) s =
        .next ((piecesOf (size / 64 + 2) addr.toNat (List.replicate size 0)).foldl
          (fun s p => (s.homeRead (s.peerRoute (s.peerFlat p.1)) (s.peerFlat p.1) p.2.length).1.tally 0 56 (payloadBlocks p.1 p.2.length)) s)) ∧
      (∀ inc ref floor, op = .notice inc ref floor → exec (.peerRequest dev addr op) s = .next { s with
        results := s.results.filter fun e =>
          !(e.dev == dev.toNat && e.ref == ref && e.inc == inc && floorBeyond floor e.tag) }) ∧
      (∀ opc ty sel sx args inc ref lane tag floor, op = .atomic opc ty sel sx args inc ref lane tag floor →
        let flat := s.peerFlat addr.toNat
        let r := s.peerRoute flat
        let size := if opc = 0xA1 then 16 else tyBytes ty
        let place := (3, s.bankOf (.sys r.sail) r.home flat, 64)
        let who := (dev.toNat, ref, inc, lane)
        let s' := s.freeBelow place who floor
        ((s'.resultFor who tag).isSome = true → exec (.peerRequest dev addr op) s = .next s') ∧
        (s'.resultFor who tag = none → s'.storeHasRoom place = true → s'.lineBusy r flat = false →
          let q := s'.homeRead r flat size
          ∀ v, atomicNew opc sel ty sx (ofBytes q.2) args = some v → s'.isReplicated r.sail = false →
            q.1.isReplicated r.sail = false → exec (.peerRequest dev addr op) s =
              .next ((q.1.homeWrite r flat (toBytes size v) (s'.anyPoison flat size)).keepResult place flat who tag q.2))))) ∧
  (∀ addr size, let inRange (p : Nat × Nat) : Bool := decide (4096 * p.1 < addr + size) && decide (addr < 4096 * p.1 + 4096)
    (∀ a ∈ s.flights, ∀ l ∈ a.lanes, ∀ p ∈ s.fabric.atsCache, inRange p = true → a.isLocal = false → l.loc = 2 →
      l.pending = true → flatHost (4096 * p.2) / 4096 ≠ l.pa / 4096) →
    exec (.atsInvalidation addr size) s = .next { s with fabric := { s.fabric with
      atsCache := s.fabric.atsCache.filter fun p => !inRange p, atsGen := s.fabric.atsGen + 1 } }) ∧
  (∀ w : BitVec 32, s.board.ready = true → w.getLsbD 31 = true → w.toNat % 8 < 6 → s.fabric.resetBusy = false →
    let d := w.toNat % 8
    let hit := s.jobs.filter fun a => s.jobOn d a
    let lost := (hit.foldl (fun s a => s.lossOn d a) s).modDie d fun x => { x with inc := x.inc + 1 }
    let ended := hit.foldl (fun s a => (s.jobFault a 0x53).finishJob a 0x53) lost
    let kept := ended.pages.batches.filter fun b => !b.faults.all fun f => hit.contains f.asid
    let s' := (({ ended with pages := { ended.pages with batches := kept } } : State).clearDie d).ackFor d
    exec (.fbDiereset w) s = .next { s' with fabric := { s'.fabric with resetBusy := true, resetDie := BitVec.ofNat 3 d } }) ∧
  exec .dieResetEnd s = .next { s with fabric := { s.fabric with resetBusy := false } }

/-! ### The page engine (spec/12_page_engine.md) -/
namespace Sys2Proof.Claims

/-- Every access of a number, of the resident teams and of those that are saved, is told whether a block was left unmapped. -/
def toldAccess (s : State) (id block : Nat) (left : Bool) : State :=
  (s.modAcc id fun a => a.told block left).modSaved fun _ x =>
    { x with accs := x.accs.map fun a => if a.id = id then a.told block left else a }

/-- A page command's leaf changed by its operation: unmapped (2), pinned (3) or unpinned (4). -/
def changed (want e : Nat) : Nat :=
  match want with
  | 2 => e - e % 2
  | 3 => if leafPin e then e else e + 32
  | 4 => if leafPin e then e - 32 else e
  | _ => e

/-- The rows of PG_CMD but the migration, and their operations. -/
noncomputable def pageRows (rec : BitVec 64) : List (Instr × Nat) :=
  [(.pgCmdShootdown rec, 0), (.pgCmdUnmap rec, 2), (.pgCmdPin rec, 3), (.pgCmdUnpin rec, 4)]

end Sys2Proof.Claims

/-- R340, R342, R343: BATCH_CLOSE completes in every state: the open batch of the die closes once it holds 64 faults or 4 µs have
passed since its first, and nothing else changes. BATCH_WRITE completes when the die has a closed batch and the ring room for its
ranges: each is written as a record, the tail moves on, and the batch is outstanding. PG_RESOLVE of an outstanding batch resolves
it with the statuses that firmware wrote; of another it changes nothing. BATCH_TIMEOUT resolves a batch with status 2, 500 ms after
it was written. A resolution tells each requester: a group replays the lanes that were parked once none of them waits any more (log
entry 79, the model's reading), or takes ACCESS_VIOLATION with cause 1 at its parked instruction, status 3 ends the job besides, and
the knitter goes on. -/
def Obligations.PageBatches : Prop := ∀ (s : State) (d : Nat),
  (let close (b : Batch) : Batch :=
      if b.die = d ∧ b.closed = false ∧ b.written = false ∧ (64 ≤ b.faults.length ∨ 4000 ≤ s.since b.start) then
        { b with closed := true } else b
   exec (.batchClose d) s = .next { s with pages := { s.pages with batches := s.pages.batches.map close } }) ∧
  (∀ b, (s.pages.batches.find? fun b => b.die == d && b.closed && !b.written) = some b →
    let p := s.pages
    let w := b.fused.zipIdx.foldl (fun s r => s.writeBytes (p.ringAt (p.tail.toNat + r.2)) (rangeBytes b r.1)) s
    let b' : Batch := { b with written := true, start := w.now, ring := p.tail.toNat
                               ranges := b.fused.map fun r => (r.first, r.blocks, r.asid) }
    entryV p.fqBase.toNat = true → (p.tail - p.head).toNat + b.fused.length ≤ p.ringSize → exec (.batchWrite d) s =
      .next { w with pages := { w.pages with
        tail := p.tail + BitVec.ofNat 32 b.fused.length
        batches := w.pages.batches.map fun c => if c.die = b.die ∧ c.number = b.number then b' else c } }) ∧
  (∀ (w : BitVec 32), s.board.ready = true →
    let named := s.pages.batches.find? fun b => b.die == (w.extractLsb' 16 3).toNat && b.number == w.extractLsb' 0 16 && b.written
    (∀ b, named = some b →
      exec (.pgResolve w) s = .next (s.resolve b fun i => (s.byteAt (s.pages.ringAt (b.ring + i) + 28)).toNat)) ∧
    (named = none → exec (.pgResolve w) s = .next s)) ∧
  (∀ n b, (s.pages.batches.find? fun b => b.die == d && b.number.toNat == n && b.written) = some b →
    500000000 ≤ s.since b.start → exec (.batchTimeout d n) s = .next (s.resolve b fun _ => 2)) ∧
  (∀ (f : PageFault) id, f.who = .stream id →
    (∀ n, n ≤ 1 → s.answer n f = (toldAccess s id f.block false).replay id) ∧
    s.answer 2 f = (toldAccess s id f.block true).replay id ∧
    s.answer 3 f = (toldAccess (s.jobFault f.asid 0x26) id f.block false).replay id) ∧
  (∀ id a, s.acc? id = some a → (∀ l ∈ a.lanes, l.stage ≠ .parked) → (∀ t, s.team? (coreOf a.ref) = some t → t.trapped = none) →
    (∀ l ls, (a.lanes.filter fun l => l.stage == .denied) = l :: ls → s.replay id = s.takeTrap a.ref
      { stream := a.ref.idx, code := 0x21, pos := a.pos, arg := 1, value := l.va
        lanes := maskOfList ((l :: ls).map AccLane.lane) }) ∧
    (∀ l ls, (∀ l ∈ a.lanes, l.stage ≠ .denied) → (a.lanes.filter fun l => l.stage == .mapped) = l :: ls →
      s.replay id = (s.sendLanes a (l :: ls)).unpark id)) ∧
  (∀ (f : PageFault) die row n, n ≤ 2 → f.who = .knit die row → s.answer n f = s.modDie die fun d => { d with
    jobs := d.jobs.map fun j => if j.1 = row && j.2.waiting then
      (row, { j.2 with waiting := false, denied := if n = 2 then some (f.block * 65536) else j.2.denied }) else j })

/-- R344 to R346: PG_CMD on a module that is ready, with no command running, completes for every record. A shootdown, unmap, pin
or unpin whose record is in order changes the leaves of its range, shoots the range down and goes on until SHOOTDOWN_COMPLETE, once
every access accepted under the old entries is done, gives it status 0; a migration sets MOV in its first leaf, and MIGRATION_COPY
copies each page when it is drained, gives its leaf the new place, and goes on with the next or ends with status 0. A pinned page
under a migration or unmap gives status 1, a hole in the range of any but a shootdown 2. A record that the model takes for
malformed, or a new leaf that would be, gives 3: log entry 79 (the model's choice). A write while a command runs is ignored. -/
def Obligations.PageCommands : Prop := ∀ (s : State) (rec : BitVec 64),
  let r := s.pageRecord rec
  let stop := r.va + 65536 * r.pages
  let ls := s.leavesIn r.asid stop r.pages r.va
  let leaves := ls.filterMap id
  let pinned : Prop := ∃ f ∈ leaves, leafPin f.1.entry = true
  let k (want : Nat) : PageCmd := { op := want, asid := r.asid, va := r.va, pages := r.pages, target := r.target
                                    recAddr := rec.toNat, todo := leaves.map fun f => (f.1.base, f.2) }
  let levelOf (bytes : Nat) : Nat := if bytes = 65536 then 3 else if bytes = 2 ^ 21 then 2 else if bytes = 2 ^ 30 then 1 else 0
  let movable : Prop := ∀ f ∈ leaves, s.badLeaf (levelOf f.1.bytes) (movedLeaf f.1.entry r.target f.1.bytes (f.1.base - r.va)) = false
  (s.board.ready = true → s.pages.cmd = none →
    (∀ x want, (x, want) ∈ pageRows rec → r.op = want →
      (r.ok = false → exec x s = .next (s.pageDone rec 3)) ∧
      (r.ok = true → want = 2 → pinned → exec x s = .next (s.pageDone rec 1)) ∧
      (r.ok = true → want ≠ 0 → (want = 2 → ¬ pinned) → none ∈ ls → exec x s = .next (s.pageDone rec 2)) ∧
      (r.ok = true → (want ≠ 0 → none ∉ ls) → (want = 2 → ¬ pinned) →
        let s' := (if want = 0 then s else leaves.foldl (fun s f => s.writeEntry f.2 (changed want f.1.entry)) s).shoot r.asid r.va stop
        exec x s = .next { s' with pages := { s'.pages with
          cmd := some { k want with waitFor := s'.accepted r.asid r.va stop, chunks := s'.chunksOf r.asid } } })) ∧
    (r.op = 1 →
      (r.ok = false → exec (.pgCmdMigrate rec) s = .next (s.pageDone rec 3)) ∧
      (r.ok = true → pinned → exec (.pgCmdMigrate rec) s = .next (s.pageDone rec 1)) ∧
      (r.ok = true → ¬ pinned → none ∈ ls → exec (.pgCmdMigrate rec) s = .next (s.pageDone rec 2)) ∧
      (r.ok = true → ¬ pinned → none ∉ ls → ¬ movable → exec (.pgCmdMigrate rec) s = .next (s.pageDone rec 3)) ∧
      (r.ok = true → ¬ pinned → none ∉ ls → movable → leaves ≠ [] → exec (.pgCmdMigrate rec) s = .next (s.beginMove (k 1))) ∧
      (r.ok = true → ¬ pinned → none ∉ ls → movable → leaves = [] → exec (.pgCmdMigrate rec) s = .next (s.pageDone rec 0))) ∧
    (∀ x, (∃ want, (x, want) ∈ pageRows rec) ∨ x = .pgCmdMigrate rec → 4 < r.op → exec x s = .next (s.pageDone rec 3))) ∧
  (∀ x, s.pages.cmd.isSome = true → (∃ want, (x, want) ∈ pageRows rec) ∨ x = .pgCmdMigrate rec → exec x s = .next s) ∧
  (∀ k, s.pages.cmd = some k → k.op ≠ 1 → s.drained k k.va (k.va + 65536 * k.pages) = true →
    exec .shootdownComplete s = .next (s.pageDone (BitVec.ofNat 64 k.recAddr) 0)) ∧
  (∀ k va a rest f w, s.pages.cmd = some k → k.op = 1 → k.todo = (va, a) :: rest → s.walk 7 k.asid va = (.leaf f a, w) →
    s.drained k va (va + f.bytes) = true →
    let e := s.natAt a 8
    let d := s.drainPage (leafFlat e) f.bytes
    d.pageBusy (leafFlat e) f.bytes = false →
    let new := movedLeaf e k.target f.bytes (va - k.va)
    let c := ((d.evictPage (leafSail e) (leafFlat e) f.bytes).copyRange (leafFlat e) (leafFlat new) f.bytes).moveResults
      { f with entry := e } { f with entry := new }
    let s' := (c.writeEntry a new).shoot k.asid va (va + f.bytes)
    exec .migrationCopy s = .next (if rest = [] then s'.pageDone (BitVec.ofNat 64 k.recAddr) 0
      else { s' with pages := { s'.pages with cmd := some { k with todo := rest } } }.beginMove { k with todo := rest }))

/-! ### Sails (spec/13_sail_engine.md), translation (spec/16_knitter.md), chains and observation (spec/17_chain_recorder.md,
spec/18_trace_sampling_debug.md) -/

/-- R360 to R363, R368: a panel's sweep writes its displaced lines onward, takes 512 cycles and 4 for each dirty line, drops the lines once
their bytes have performed, and is followed by the next panel's; after the last panel the new list is in force; a part that drains writes its lines back and is gone once its accesses and
those bytes are done; the commands of SL_CMD act as the instructions do and leave
their status; a resail moves its pages. That the displaced lines leave the panel, and are filled again at their new places by the
next access, is log entry 77 (DEDUCED). -/
def Obligations.SailCommandsAndSweeps : Prop := ∀ (s : State),
  (∀ n d x p, s.sail? (sailKeyOf n) = some x → x.part? d = some p → p.phase = .shaking ∨ p.phase = .reefing →
    let k := sailKeyOf n
    let e := s.cleanLines k d (s.sailCore k) (displacedIn x)
    let e' := e.dropLines k d (displacedIn x)
    (p.sweepLeft ≠ 0 → exec (.sweepPanel n d) s = .next s) ∧
    (p.sweepLeft = 0 → e.linesLeaving k d (displacedIn x) = true → exec (.sweepPanel n d) s = .next e) ∧
    (p.sweepLeft = 0 → e.linesLeaving k d (displacedIn x) = false → p.swept + 1 < p.panels.length →
      let f := e'.modSail k fun x => x.modPart d fun p => { p with swept := p.swept + 1, sweeping := false }
      exec (.sweepPanel n d) s = .next (f.beginSweep k d (f.sailCore k))) ∧
    (p.sweepLeft = 0 → e.linesLeaving k d (displacedIn x) = false → p.panels.length ≤ p.swept + 1 → exec (.sweepPanel n d) s =
      .next (((e'.noteSail k).modSail k fun x => x.modPart d fun p =>
        { p with phase := .steady, panels := p.next, next := [], swept := 0, sweeping := false }).sailEnded k d)) ∧
    (∀ out, p.lines.filter (displacedIn x p) = out → s.beginSweep k d (s.sailCore k) =
      ((s.cleanLines k d (s.sailCore k) (displacedIn x)).sailTally k 37 out.length).modSail k fun x => x.modPart d fun p =>
        { p with sweeping := true, sweepLeft := 512 + 4 * (out.filter fun l => l.dirty != 0).length }) ∧
    (∀ l : SailLine, displacedIn x p l = (l.entry == p.swept &&
      l.line % (2 ^ 64 / x.lineBytes) / x.setsPerPanel % Nat.max 1 p.next.length != l.entry))) ∧
  (∀ n d x p, s.sail? (sailKeyOf n) = some x → x.part? d = some p → p.phase = .draining →
    let k := sailKeyOf n
    (∀ a ∈ s.flights, ∀ l ∈ a.lanes, s.acceptedAt k d a l = false) →
    let e := s.cleanLines k d (s.sailCore k) fun _ _ => true
    (e.linesLeaving k d (fun _ _ => true) = true → exec (.drainComplete n d) s = .next e) ∧
    (e.linesLeaving k d (fun _ _ => true) = false →
      let e' := ((e.noteSail k).dropLines k d fun _ _ => true).modSail k fun x =>
        { x with parts := x.parts.filter fun q => q.die != x.partDie d }
      exec (.drainComplete n d) s = .next ({ e' with sails := e'.sails.filter fun x => x.parts != [] }.sailEnded k d))) ∧
  (∀ rec : BitVec 64, s.board.ready = true → s.sailRegs.busy = false →
    let b (k n : Nat) : Nat := s.natAt (flatHost (rec.toNat + k)) n
    let ends (r : Nat × State) : Out := .next (r.2.sailCmdDone rec r.1)
    (b 0 2 = 1 → exec (.slCmdDefine rec) s = ends (s.sailDefine (s.bytesAt (flatHost (b 8 8)) 64))) ∧
    (b 0 2 = 2 → exec (.slCmdDrop rec) s = ends (s.sailDrop (.sys (b 16 1)) (b 16 1))) ∧
    (b 0 2 = 3 → exec (.slCmdReef rec) s = ends (s.sailReef (.sys (b 16 1)) (b 16 1) (b 17 1) (b 4 4) hubCore)) ∧
    (b 0 2 = 4 → exec (.slCmdShake rec) s = ends (s.sailShake (.sys (b 16 1)) (b 16 1) (b 17 1) (b 4 4) (b 18 1) hubCore)) ∧
    (∀ x, b 0 2 = 0 → s.sail? (.sys (b 16 1)) = some x →
      let leaves := (s.leavesIn (b 2 2) (b 8 8 + 65536 * b 4 4) (b 4 4) (b 8 8)).filterMap fun x => x
      let r : Resail := { asid := b 2 2, sail := b 16 1, recAddr := rec.toNat, todo := leaves.map fun f => (f.1.base, f.2) }
      ((∀ f ∈ leaves, s.sailServes (b 16 1) (x.homeOf (entryLoc f.1.entry) (entryDie f.1.entry)) = true) →
        exec (.slCmdResail rec) s =
          .next { s with sailRegs := { s.sailRegs with resail := some r, busy := true } }.resailGo) ∧
      ((∃ f ∈ leaves, s.sailServes (b 16 1) (x.homeOf (entryLoc f.1.entry) (entryDie f.1.entry)) = false) →
        exec (.slCmdResail rec) s = .next (s.sailCmdDone rec 3))) ∧
    (4 < b 0 2 → ∀ x, x ∈ [Instr.slCmdResail rec, .slCmdDefine rec, .slCmdDrop rec, .slCmdReef rec, .slCmdShake rec] →
      exec x s = .next (s.sailCmdDone rec 5)))

/-- R46, R55, R56, R409, R418 to R422, R441, R453 to R455, R461, R466, R468, R471: the knitter's request gives a translation, a
refusal that ends the jobs that wait, or a wait for a page; a finished translation enters the store; a flush evicts; a stream asked
to stop stops once its accesses are done; a walk ends with its report; a sample is written; the multiplexer, kernel debug and the
timebase take their writes. That a walk reads the chain a link a turn is log entry 31 (DEDUCED). -/
def Obligations.KnitterAndObservationSteps : Prop := ∀ (s : State),
  (∀ d row job, (s.die d).knitting row = some job → job.waiting = false → job.result = none →
    (∀ t n, s.translated d job = .ok (t, n) → exec (.translation d row) s =
      .next (s.modJob d row fun j => { j with result := some t, left := 200 + n })) ∧
    (∀ c f o, s.translated d job = .error (.refuse c f o) → exec (.translation d row) s =
      .next (s.refuseUnit d row job (c, f, o))) ∧
    (∀ f o ins byte, s.translated d job = .error (.fetch f o ins byte) → exec (.translation d row) s =
      .next (s.fetchFault d row job ⟨f, o⟩ ins byte)) ∧
    (∀ va, s.translated d job = .error (.page va) → exec (.translation d row) s =
      .next (((s.partEvent job.part 0x20).modJob d row fun j => { j with waiting := true }).gather d
        { asid := job.asid, block := blockOf va, kinds := kindKnitter, who := .knit d row, time := s.now }))) ∧
  (∀ d row job t, (s.die d).knitting row = some job → job.result = some t → job.left = 0 →
    let t := { t with checkedAt := job.check }
    let clear := s.modDie d fun d => { d with store := d.store.filter fun u => u.key != t.key
                                              native := d.native.filter fun n => n.2.1 != t.key }
    let made := ((clear.makeRoom d t.size ((clear.die d).store.length + 1)).modDie d fun d =>
      { d with store := t :: d.store }).dropJob d row
    let other := (s.die d).store.any fun u =>
      u.key.hash == t.key.hash && u.key.entry == t.key.entry && u.key.ident == t.key.ident && u.key.budget != t.key.budget
    exec (.translationComplete d row) s = .next ((made.transEvent job.part d
      (if job.check.isSome || other then 0x04 else 0x02) t (if job.check.isSome then 1 else 0) job.spent).giveUnit d t)) ∧
  (∀ w : BitVec 32, s.board.ready = true → w.getLsbD 31 = true →
    (w.toNat % 4 = 1 → exec (.teCmdEvictHash w) s = .next (s.flushStore w fun t => t.key.hash == s.knit.hash.toNat)) ∧
    (w.toNat % 4 = 2 → exec (.teCmdEvictAll w) s = .next (s.flushStore w fun _ => true))) ∧
  (∀ r t st code, s.team? (coreOf r) = some t → t.stream? r.idx = some st → st.stop = .asked code → t.trapped = none →
    st.finished = false → st.pending = [] ∨ st.parked.isSome = true →
    let s' := s.modStream r fun st => { st with stop := .stopped code }
    (code = 0x73 → exec (.streamStop r) s = .next (s'.takeTrap r
      { st.trapAt r.idx 0x73 with pos := t.standsAt r.idx st, lanes := st.active })) ∧
    (code = 0x74 → exec (.streamStop r) s = .next ((s'.countEvent (s'.partOf t.launch) 0x74).firmwareRecord (coreOf r) r.idx
      (t.standsAt r.idx st))) ∧
    (code ≠ 0x73 → code ≠ 0x74 → exec (.streamStop r) s = .next s')) ∧
  (∀ c t w rest, s.team? c = some t → (s.core c).walks = w :: rest →
    let now (w' : Walk) : State := s.modCore c fun k => { k with walks := w' :: k.walks.drop 1 }
    (w.place = .waiting → exec (.walkEnd c) s = .next (now (w.onto c (s.firstLink c w)))) ∧
    (∀ d n, w.place = .reading d n →
      (w.busy ≠ 0 → exec (.walkEnd c) s = .next s) ∧
      (w.busy = 0 →
        ((s.core d).links.find? (fun l => l.seq == n) = none → exec (.walkEnd c) s =
          .next (now { w with place := .ended (if (s.core d).links = [] then 3 else 2) })) ∧
        (∀ l, (s.core d).links.find? (fun l => l.seq == n) = some l → l.lost = true →
          exec (.walkEnd c) s = .next (now { w with place := .ended 2 })) ∧
        (∀ l, (s.core d).links.find? (fun l => l.seq == n) = some l → l.lost = false →
          (l.stop < w.start → exec (.walkEnd c) s = .next (now { w with place := .ended 1 })) ∧
          (w.start ≤ l.stop → w.links.length < 4095 → exec (.walkEnd c) s =
            .next (now ({ w with links := w.links ++ [l] }.onto c (s.afterLink d l)))) ∧
          (w.start ≤ l.stop → w.links.length = 4095 → exec (.walkEnd c) s =
            .next (now { w with links := w.links ++ [l], place := .ended 4 }))))) ∧
    (∀ reason, w.place = .ended reason →
      let r := { s with chain := { s.chain with walk := s.chain.walk + BitVec.ofNat 32 w.links.length } }.report c t.asid w w.links reason
      exec (.walkEnd c) s = .next ((r.1.modCore c fun k => { k with walks := k.walks.drop 1 }).modStream ⟨c.die, c.core, w.stream⟩
        (w.deliver (s.die c.die).ident r.2)))) ∧
  (∀ c t va size, s.team? c = some t → s.traceBuf t.asid = some (va, size, true) →
    Nat.max s.trace.sample.toNat 4096 ≤ (s.core c).sampleAge →
    let all := List.range t.groups.length ++ [32]
    let turn := (s.core c).sampleTurn
    let idx := (all[turn % all.length]?).getD 32
    ∀ st, t.stream? idx = some st →
      let why := Cx.stallReason ⟨s, ⟨c.die, c.core, idx⟩, t, st⟩
      let s' := s.traceWrite { type := 1, code := why, core := c, stream := idx, asid := t.asid, pos := t.standsAt idx st
                               payload := toBytes 4 st.active.toNat }
      exec (.sample c) s = .next ((s'.modPage (s'.partOf t.launch) fun p =>
        { p with reasons := addCount why 1 p.reasons }).modCore c fun k =>
          { k with sampleAge := 0, sampleTurn := (turn + 1) % all.length })) ∧
  (∀ part, exec (.muxBankSwitch part) s = .next (s.modPage part fun p =>
    if p.elapsed < 1048576 then p else { p with bank := p.nextBank, elapsed := 0 })) ∧
  (s.board.ready = true →
    (∀ part sel b, sel < 32 →
      let chosen (p : CounterPage) : CounterPage :=
        { p with sel := setAt p.sel sel (b &&& 0xBF), muxed := p.muxed.filter fun x => x.1 != 2 * sel && x.1 != 2 * sel + 1 }
      exec (.trMux part sel b) s = .next (s.modPage part fun p =>
        if (chosen p).bankOn p.bank then chosen p else { chosen p with bank := (chosen p).nextBank, elapsed := 0 })) ∧
    (∀ w : BitVec 32, let s' := { s with trace := { s.trace with kdbgAsid := w.extractLsb' 0 16, kdbg := w.getLsbD 16 } }
      let held := (s'.cores.filterMap fun k => k.team.bind fun t => if t.trapped.isSome then some t.asid else none).eraseDups
      exec (.trKdbg w) s = .next (if w.getLsbD 16 then s' else held.foldl (fun s a => s.releaseHeld a) s')) ∧
    (∀ (w : BitVec 32) t st, w.getLsbD 31 = true →
      let r : StreamRef := ⟨(w.extractLsb' 0 3).toNat, (w.extractLsb' 3 8).toNat, (w.extractLsb' 11 6).toNat⟩
      s.team? (coreOf r) = some t → s.trace.kdbg = true → s.trace.kdbgAsid.toNat = t.asid → t.stream? r.idx = some st →
      st.stop = .running → st.finished = false →
      exec (.trDstop w) s = .next (s.modStream r fun st =>
        if st.stop = .running && !st.finished then { st with stop := .asked 0x73 } else st))) ∧
  (∀ m : PtpOffset, let t := { s.trace with locked := m.lock, offs := BitVec.ofInt 31 m.offset }
    exec (.ptpMessage m) s = .next { s with trace :=
      if m.lock = false then t
      else if m.offset ≤ -1000000 then { t with shift := t.shift - m.offset, slew := 0, half := false }
      else { t with slew := m.offset, half := decide (1000000 ≤ m.offset) } })

/-! ### Bring-up, power, security and the registers (spec/19_bringup_power_security.md) -/
namespace Sys2Proof.Claims

/-- Plain registers that read back what was written: offset in BAR 0 and the bits implemented. -/
def plainRegisters : List (Nat × BitVec 32) :=
  [(0x02040000, 0xFFFFFFFF), (0x02040004, 0xFFFFFFFF), (0x02040008, 0xFFFFFFFF), (0x0204000C, 0xFFFFFFFF),
   (0x02040010, 0x1F), (0x02040018, 0xFFFFFFFF), (0x02060004, 0xFFFF), (0x02070000, 0xFFFFFFFF), (0x02070004, 0xFFFFFFFF),
   (0x02080000, 0xFFFFFFFF), (0x02080004, 0xFFFFFFFF), (0x02090000, 0xFFFFFFFF), (0x02090004, 0xFFFFFFFF),
   (0x02090008, 0x0FFFFFFF), (0x120, 0x1FFF), (0x2008, 0xFFFFFFFF), (0x200C, 0xFFFFFFFF)]
    ++ (List.range 8).map (fun k => (0x02050000 + 4 * k, 0x1FFFF)) ++ (List.range 8).map (fun k => (0x2020 + 4 * k, 0xFFFFFFFF))

end Sys2Proof.Claims

/-- R7 to R9, R475 to R481, R484, R485: the power-on sequence goes step by step, or stops at a failure; a module reset starts it
again; clocks follow the request, the power cap and the temperature; a scrubber's finding poisons, counts, or takes what it
names away; the security processor reports, challenges and unlocks. -/
def Obligations.BringUpPowerAndSecurity : Prop := ∀ (s : State),
  (s.board.step = 0 → exec .powerGood s = .next { s with board := { s.board with step := 1, stage := 1 } }) ∧
  (let r := s.restarted
   exec .moduleReset s = .next { r with board := { r.board with step := 1, stage := 1 } }) ∧
  (∀ ok : BitVec 6, 1 ≤ s.board.step → s.board.step ≤ 7 → s.board.err = 0 →
    let n := s.board.step
    let next := if n = 4 ∧ s.board.bootZero = false then 6 else n + 1
    let b := if n < 2 ∨ 5 < n then s.board
      else { s.board with passing := s.board.passing &&& ok, dieOk := if next = 6 then s.board.passing &&& ok else s.board.dieOk }
    let done := { s with board := b }.stepDone n
    (n < 7 → exec (.bringUpStepEnd 0 ok) s =
      .next { done with board := { done.board with step := next, stage := BitVec.ofNat 4 next } }) ∧
    (n = 7 → exec (.bringUpStepEnd 0 ok) s = .next { done with board := { done.board with ready := true, step := 8 } }) ∧
    (∀ e, e ∈ failuresOf n → e ≠ 0 → exec (.bringUpStepEnd e ok) s =
      .next { s with board := { b with err := BitVec.ofNat 8 e } })) ∧
  (s.board.ready = true →
    (∀ d (w : BitVec 32), exec (.hbDvfs d w) s = .next (s.modDie d fun d =>
      let q := (w.extractLsb' 0 2).toNat
      { d with req := q
               relock := d.relock || decide ((if d.therm then 2 else Nat.max (Nat.min q 2) d.limit) ≠ d.cur) })) ∧
    (∀ watts, (watts :: s.board.samples).length < 10 → exec (.powerMeasurement watts) s =
      .next { s with board := { s.board with samples := watts :: s.board.samples } }) ∧
    (∀ watts, let xs := (watts :: s.board.samples).take 10
      xs.length = 10 →
      let mean := xs.sum / 10
      let cap := Nat.min s.board.pcap.toNat 6000
      let under := if mean * 100 < cap * 95 then s.board.under + 1 else 0
      let lower := cap < mean ∧ s.board.cool ≤ 1
      let s' := { s with board := { s.board with
        samples := xs, power := BitVec.ofNat 13 (Nat.min mean 8191), cool := if lower then 10 else s.board.cool - 1
        under := if 100 ≤ under then 0 else under } }
      exec (.powerMeasurement watts) s = .next (if lower then s'.lowerOne else if 100 ≤ under then s'.raiseOne else s')) ∧
    (∀ d (t : Int), s.board.thermOff = false → d ≤ 5 →
      (115 < t → exec (.junctionTemperature d t) s = .next s.thermalTrip) ∧
      (105 < t → t ≤ 115 → exec (.junctionTemperature d t) s =
        .next (s.modDie d fun d => { d with therm := true, relock := d.relock || decide (2 ≠ d.cur) })) ∧
      (t < 95 → exec (.junctionTemperature d t) s = .next (s.modDie d fun d =>
        { d with therm := false, relock := d.relock || decide (Nat.max (Nat.min d.req 2) d.limit ≠ d.cur) })) ∧
      (95 ≤ t → t ≤ 105 → exec (.junctionTemperature d t) s = .next s)) ∧
    (∀ w : BitVec 32, w.getLsbD 0 = true → s.security.job = none →
      (s.security.repAddr.toNat % 4096 = 0 → exec (.secCmd w) s = .next { s with security := { s.security with
        job := some (s.security.repAddr.toNat, s.security.nonce), err := 0 } }) ∧
      (s.security.repAddr.toNat % 4096 ≠ 0 → exec (.secCmd w) s = .next { s with security := { s.security with err := 1 } })) ∧
    (∀ t, exec .secChal s = .next t → ∃ b : Nat → Byte, t = { s with
      fresh := t.fresh, security := { s.security with chal := (List.range 32).map b } }) ∧
    Completes (exec .secChal s) ∧
    (∀ w : BitVec 32, s.security.lockout = false →
      let sig := overlay 92 (toBytes 4 w.toNat) s.security.unlock
      (Config.debugSignature sig (s.security.chal ++ toBytes 8 s.security.serial.toNat) = true → exec (.secUnlock w) s =
        .next { s with security := { s.security with unlock := sig, unlocked := true } }) ∧
      (Config.debugSignature sig (s.security.chal ++ toBytes 8 s.security.serial.toNat) = false → exec (.secUnlock w) s =
        .next { s with security := { s.security with
          unlock := sig, fails := s.security.fails + 1, lockout := s.security.fails == 2 } }))) ∧
  (∀ addr nonce, s.security.job = some (addr, nonce) →
    exec (.attestationReportDone false) s = .next { s with security := { s.security with job := none, err := 2 } } ∧
    (∃ sig : List Byte, sig.length = 96 ∧
      let s' := s.writeBytes (flatHost addr) (s.attestation nonce ++ sig)
      exec (.attestationReportDone true) s =
        .next { s' with fresh := s.fresh + 1, security := { s'.security with job := none, done := true } })) ∧
  (∀ d, s.relocking d = true → s.landedOn d = true → exec (.pllRelock d) s =
    .next (s.modDie d fun d => { d with cur := d.goal, relock := false })) ∧
  (∀ g, exec (.scrub g .clean) s = .next s ∧
    exec (.scrub g .singleBit) s = .next (s.partEvent (s.ownerPart g) 0x2A) ∧
    exec (.scrub g .uncorrectable) s =
      .next { s.settle g with poison := setInsert (granuleOf g) (s.settle g).poison } ∧
    (∀ d p, d ≤ 5 → p < 6144 → exec (.scrub g (.panelState d p)) s = .next (s.failPanel (d, p))) ∧
    (∀ d hash entry ident budget, exec (.scrub g (.translation d hash entry ident budget)) s = .next (s.modDie d fun d =>
      { d with store := d.store.filter fun u => u.key != ⟨hash, entry, ident, budget⟩
               native := d.native.filter fun x => x.2.1 != ⟨hash, entry, ident, budget⟩ })) ∧
    (∀ c seq, exec (.scrub g (.link c seq)) s = .next (s.modCore c fun k =>
      { k with links := k.links.map fun l => if l.seq = seq then { l with lost := true } else l })))

/-- R7 to R9: before READY a write changes nothing and only HB_STATUS reads as other than 0; after it a plain register reads back
the bits it implements, and no other plain register changes. -/
def Obligations.RegistersReadBack : Prop := ∀ (s : State) (off : Nat) (w : BitVec 32),
  (s.board.ready = false → ∀ bytes, exec (.registerWrite off bytes) s = .next s) ∧
  (s.board.ready = false → off ≠ 0 → s.readWord off = 0) ∧
  (s.board.ready = true → s.security.nonce.length = 32 → s.sailRegs.pasid.length = 8 → ∀ mask, (off, mask) ∈ plainRegisters →
    ∃ t, exec (.registerWrite off (toBytes 4 w.toNat)) s = .next t ∧ t.readWord off = w &&& mask ∧
      (∀ o m, (o, m) ∈ plainRegisters → o ≠ off → t.readWord o = s.readWord o) ∧ t.mem = s.mem ∧ t.cores = s.cores)

/-! ### Encodings, the step, and what every instruction keeps -/
namespace Sys2Proof.Claims

/-- The bytes decode to the instruction and nothing else, and are its encoding. -/
def Reads (bs : List Byte) (x : Instr) : Prop := decode 0 bs = .ok (x, []) ∧ encode x = bs

/-- Takes steps one after another, as long as each gives a next state. -/
def after : List Instr → State → Option State
  | [], s => some s
  | x :: xs, s => match exec x s with
    | .next t => after xs t
    | .fault _ | .refused _ => none

/-- The ends of the steps of the power-on sequence, each without an error and with every die passed. -/
noncomputable def bringUp : List Instr := .powerGood :: List.replicate 6 (.bringUpStepEnd 0 0x3F)

end Sys2Proof.Claims

/-- R48 to R54: the encoder writes what the decoder reads. Every well-formed instruction of the portable form, with every operand
at every value its encoding admits, is read back from its bytes whatever follows them; and whatever the decoder accepts is well
formed and has those bytes alone as its encoding, so that no bit of an encoding is dropped and no instruction has two. -/
def Obligations.EncodingsAreExact : Prop := ∀ (i : Instr) (n : Nat) (bs rest : List Byte),
  (∀ opc f, i.fields? = some (opc, f) → i.wf = true → (opc = 0xBD → f.src.length = n) →
    decode n (encode i ++ rest) = .ok (i, rest)) ∧
  (decode n bs = .ok (i, rest) → i.wf = true ∧ bs = encode i ++ rest)

/-- The worked encodings of the chapters of the spec, one or more for each family: the bytes decode to the instruction they stand for
and are its encoding. -/
def Obligations.ManualWordsDecode : Prop :=
  Reads [0x00, 0x03, 0x08, 0x03, 0x04] (.add { form := 0x03, attr := .arith 0 false true 0, src := [.val 3, .val 4] }) ∧
  Reads [0x2C, 0x03, 0x00, 0x04, 0x01] (.addImm { form := 0x03, attr := .arith 0 false false 0, src := [.val 4, .int 1] }) ∧
  Reads [0x01, 0x43, 0x00, 0x08, 0x09, 0x0A, 0x03, 0x05, 0x07] (.addc
    { guard := .whenTrue (.val 8), form := 0x03,
      attr := .arith 0 false false 0, falls := [.val 9, .val 10], src := [.val 3, .val 5, .val 7] }) ∧
  Reads [0x27, 0x10, 0x01, 0xC0, 0x00] (.constant { form := 0x10, attr := .arith 0 false false 1, src := [.int 64] }) ∧
  Reads [0x70, 0x0A, 0x00, 0x14, 0x00, 0x00, 0xC0, 0x3F]
    (.faddImm { form := 0x0A, attr := .arith 0 false false 0, src := [.val 20, .raw 0x3FC00000] }) ∧
  Reads [0x50, 0x09, 0xC0, 0x0A, 0x0C] (.cvtFF { form := 0x09, attr := .cvt 6 false false 0 0x0A, src := [.val 12] }) ∧
  Reads [0x43, 0x0A, 0x20, 0x03, 0x04, 0x05]
    (.fma { form := 0x0A, attr := .arith 1 false false 0, src := [.val 3, .val 4, .val 5] }) ∧
  Reads [0x81, 0x43, 0x30, 0x00, 0x07, 0x09, 0x96, 0x01] (.ldG
    { guard := .whenTrue (.val 7), form := 0x03,
      attr := .mem 0 3 false false false false 0 false, falls := [.val 9], src := [.val 150] }) ∧
  Reads [0x82, 0x0A, 0x00, 0x00, 0x05, 0x10]
    (.ldLPi { form := 0x0A, attr := .mem 0 0 false false false false 0 false, src := [.val 5, .int 16] }) ∧
  Reads [0x85, 0x03, 0x30, 0x01, 0x0C, 0x0D]
    (.stG { form := 0x03, attr := .mem 0 3 false true false false 0 false, src := [.val 12, .val 13] }) ∧
  Reads [0x91, 0x00, 0x90, 0x00, 0xFF, 0xFF, 0x03]
    (.fence { attr := .mem 0 1 true false false false 0 false, src := [.int 65535] }) ∧
  Reads [0x9A, 0x03, 0xA0, 0x20, 0x04, 0x05]
    (.atomMin { form := 0x03, attr := .mem 0 2 true false false false 0 true, src := [.val 4, .val 5] }) ∧
  Reads [0xA6, 0x04, 0x10, 0x10, 0x04, 0x05]
    (.redXor { form := 0x04, attr := .mem 0 1 false false false false 2 false, src := [.val 4, .val 5] }) ∧
  Reads [0xA8, 0x41, 0x00, 0x07, 0x08, 0x03, 0x09, 0x08] (.ballotCol
    { guard := .whenTrue (.val 7), form := 0x01,
      attr := .arith 0 false false 0, falls := [.val 8], src := [.val 3, .val 9, .val 8] }) ∧
  Reads [0xB5, 0x03, 0x00, 0x03, 0x47, 0x10]
    (.bflyImm { form := 0x03, attr := .arith 0 false false 0, src := [.val 3, .val 71, .int 16] }) ∧
  Reads [0xBA, 0x00, 0x00, 0x0A, 0x01, 0x02, 0x08, 0x09, 0x02, 0x00]
    (.brc { attr := .ctl 0, src := [.val 10], succ := [⟨1, [8, 9]⟩, ⟨2, []⟩] }) ∧
  Reads [0xC8, 0x00, 0x00, 0x05, 0x06] (.modeSet { attr := .ctl 0, src := [.val 5, .val 6] }) ∧
  Reads [0xE9, 0x00, 0x0F, 0x05, 0x06, 0x07] (.cpLd { attr := .ctl 0x0F, src := [.val 5, .val 6, .val 7] }) ∧
  Reads [0xDD, 0x00, 0x01, 0x02, 0x0C] (.mxStore { attr := .ctl 1, src := [.val 2, .val 12] }) ∧
  Reads [0xFC, 0x00, 0x01, 0x04, 0x05, 0x06, 0x07]
    (.sailShake { attr := .ctl 1, src := [.val 4, .val 5, .val 6, .val 7] }) ∧
  Reads [0xF4, 0x00, 0x00, 0x04] (.chStep { attr := .ctl 0, src := [.val 4] }) ∧
  Reads [0xF6, 0x00, 0x00, 0x06] (.trStart { attr := .ctl 0, src := [.val 6] })

/-- A step of a stream of the portable form, R48, R96, R402: the bytes at its place decode to an instruction, and the step is that
instruction's `exec` in the state in which the stream issues, with the issue counted; bytes that decode to none stop the machine.
A code due at a boundary or a poisoned operand is taken first. The streams of a cycle issue once its device steps have been tried
(the model's order: log entry 3). -/
def Obligations.StepRunsTheDecodedInstruction : Prop :=
  ∀ (s : State) (r : StreamRef) (t : Team) (st : Stream) (u : Translation) (b : UBlock) (x : UItem),
  (∀ d l, s.agenda = d :: l → ¬ (d.ticks = 0 ∧ d.steps = 0)) → s.passStep.nextAct = none → s.passStep.nextStream = some r →
  s.team? (coreOf r) = some t → t.stream? r.idx = some st → st.native = false → t.unitOf r.idx = some u →
  u.unit[st.blk]? = some b → b.items[st.item]? = some x →
  let p : State := { s.passStep with late := true }
  let o := (p.modStream r fun st => st.issuingAt.atItem b.frame x).opening r
  let s' := { o with cur := some r }
  step s = exec (.bundleIssue r) p ∧
  (∀ e, decode x.nres x.bytes = .error e → step s = .fault .badCode) ∧
  (∀ i rest, decode x.nres x.bytes = .ok (i, rest) → ∀ opc f t' st', i.fields? = some (opc, f) →
    s'.team? (coreOf r) = some t' → t'.stream? r.idx = some st' →
    let c := Cx.mk s' r t' st'
    (∀ out, c.dueNow (c.readsOf opc f) = some out → step s = out) ∧
    (c.dueNow (c.readsOf opc f) = none →
      (∀ w, exec i s' = .next w → step s = .next (c.issuedPlain u opc f w)) ∧
      (∀ e, exec i s' = .fault e → step s = .fault e) ∧
      (∀ e, exec i s' = .refused e → step s = .refused e) ∧
      (i = .nop f → step s = .next (c.issuedPlain u opc f (moveOn s' r)))))

/-- R402 to R406, R39, and the model's turns (log entry 3): a native bundle that may issue performs its slots, each in the state
the others left, and takes its place in the core's cycle; an agenda entry that is due comes about; in a cycle the device steps are
tried in turn, and when no stream is ready after them, time passes. -/
def Obligations.BundlesIssueAndDevicesTakeTurns : Prop := ∀ (s : State),
  (∀ r t st u b, s.mayIssue r = true → s.team? (coreOf r) = some t → t.stream? r.idx = some st → t.unitOf r.idx = some u →
    st.native = true → u.bundle st.bundle = some b → b.kind ≠ 5 → (∀ x ∈ b.slots, st.stack.length + (Cx.mk s r t st).pushes x ≤ 7) →
    (Cx.mk s r t st).stalled b = false → (Cx.mk s r t st).fixedCount b ≤ 16 →
    (∀ p, (Cx.mk s r t st).portNeeded u = some p → (s.core (coreOf r)).admits (s.die r.die).isB p = true) →
    let p := u.placeOf st.bundle b.ravel 5
    let o := (s.modStream r fun _ => { st.issuingAt with issuing := true, func := p.func, off := p.off }).opening r
    ∀ t' st', o.team? (coreOf r) = some t' → o.stream? r = some st' →
    let c := Cx.mk { o with cur := some r } r t' st'
    c.dueNow ((b.slots.map fun x => x.reads.map fun l => (l, if c.runs x then c.lanes x.ins else 0)).flatten
      ++ b.slots.filterMap fun x => x.guard.map fun g => (.pred g, st'.active)) = none →
    (∀ x ∈ b.slots, (c.s.runSlot r u b x).trapCode (coreOf r) = none) →
    (∀ x ∈ b.slots, ∀ y, (c.s.runSlot r u b x).stream? r = some y → y.wait = none) →
    let k := c.s.core (coreOf r)
    let isB := (c.s.die r.die).isB
    let run := b.slots.foldl (fun s x => (s.modStream r fun st => st.rearm c.st).runSlot r u b x) c.s
    let s' := (((c.tallies b (!isB && k.used == 1) run).countIssue (coreOf r)).modCore (coreOf r) fun k =>
      k.take isB (r.idx != 32) b.port).touchLine (coreOf r) u.key (c.st.bundle / 8)
    let s' := if b.kind = 3 then s'.conflictRecord (coreOf r) r.idx (u.placeOf c.st.bundle b.ravel 5) else s'
    exec (.bundleIssue r) s = .next ((c.spin u b s').modStream r fun st => st.advance isB r.idx b.delay b.ravel)) ∧
  (∀ r, s.mayIssue r = false → exec (.bundleIssue r) s = .next s) ∧
  (∀ d rest, s.agenda = d :: rest → d.ticks = 0 → d.steps = 0 → d.load = none → d.strike = none →
    d.assign = none → d.reserve = none → d.refused = none →
    let s' := { d.pokes.foldl (fun s p => s.writeBytes p.1 p.2) { s with agenda := rest } with cur := none }
    (∀ i, d.act = some i → step s = exec i s') ∧ (d.act = none → step s = .next s')) ∧
  ((∀ d l, s.agenda = d :: l → ¬ (d.ticks = 0 ∧ d.steps = 0)) →
    let p := s.passStep
    (∀ act, (∀ d l, s.agenda = d :: l → d.manual = false) → p.late = false → p.acts[p.turn]? = some act →
      step s = act { p with turn := p.turn + 1 }) ∧
    ((∃ d l, s.agenda = d :: l ∧ d.manual = true) ∨ p.late = true ∨ p.acts[p.turn]? = none → p.nextStream = none →
      step s = .next p.tick))

/-- Memory keeps its canonical form: for every state in which it has it, and every step that gives a next state. The model's own
invariant (log entry 1). -/
def Obligations.MemoryStaysCanonical : Prop := ∀ s t : State, s.MemInv → step s = .next t → t.MemInv

/-- R475 to R478, R8: State.reset has memory with nothing listed in its canonical form, no team, no launch and no sail, and before
READY every register but HB_STATUS reads 0; HB_STATUS reads 0 too. The power-on sequence from it ends in READY with HBM not zeroed,
sail 0 on every die, and the registers at the reset values their tables give. -/
def Obligations.ResetAndBringUp : Prop :=
  State.reset.MemInv ∧ State.reset.mem = [] ∧ State.reset.cores = [] ∧ State.reset.walker.launches = [] ∧ State.reset.sails = [] ∧
  (∀ off, State.reset.readWord off = 0) ∧
  (∃ s, after bringUp State.reset = some s ∧ s.MemInv ∧ s.board.ready = true ∧ s.board.zeroed = false ∧ s.sails = [sailZero] ∧
    s.readWord 0 = 0x003F0071#32 ∧ s.readWord 0x120 = 6000#32 ∧ s.readWord 0x02060004 = 200#32 ∧
    s.readWord 0x02090008 = 65536#32 ∧ s.readWord 0x02060024 = 1#32 ∧ s.readWord 0x02050030 = 5120#32 ∧
    (∀ q, q < 64 → s.readWord (0x02000000 + 64 * q + 8) = 0 ∧ s.readWord (0x02000000 + 64 * q + 16) = 0) ∧
    (∀ k, k < 4096 → s.readWord (0x02010000 + 8 * k) = 0 ∧ s.readWord (0x02010000 + 8 * k + 4) = 0))

/-- Every integer and floating-point instruction (R139 to R209), in every form, leaves all but its own stream's results alone: memory,
every other core, stream and engine; in the portable form the values defined before it, in the native form the whole register
file, where results land later and only in the destinations named; and of the mode register all but the sticky flags, which it
only sets. -/
def Obligations.LaneInstructionsKeepTheRest : Prop := ∀ (x : Instr) (opc : Nat) (i : Ins), x.fields? = some (opc, i) → opc < 0x80 →
  ∀ (s : State) (r : StreamRef) (t : Team) (st : Stream) (u : State) (t' : Team) (st' : Stream), Runs s r t st →
  exec x s = .next u → u.team? (coreOf r) = some t' → t'.trapped = none → t'.stream? r.idx = some st' →
  u = { s with cores := u.cores } ∧ (∀ c, c ≠ coreOf r → u.core c = s.core c) ∧ (∀ k, k ≠ r.idx → t'.stream? k = t.stream? k) ∧
  t' = { t with control := t'.control, groups := t'.groups } ∧
  st' = { st with
    file := st'.file, pending := st'.pending, landings := st'.landings, poisoned := st'.poisoned, mode := st'.mode
    rng := st'.rng, item := if st.native then st.item else st.item + 1, wait := none, stage := [], mark := none, headAt := none
    prod := none } ∧
  (∀ loc, (st.native = true ∨ ∀ k, st.nextVal ≤ k → loc ≠ .val st.frame k) → st'.get loc = st.get loc) ∧
  (∃ new, st'.landings = st.landings ++ new ∧ (st.native = false → new = []) ∧
    ∀ y ∈ new, y.lanes = 0 ∨ ∃ d ∈ i.dst, y.dst = .reg d ∨ y.dst = .reg (d + 1) ∨ y.dst = .pred d) ∧
  (∃ f : BitVec 5, st'.mode = st.mode ||| (f.setWidth 32 <<< (16 : Nat)))
end

