-- ==== Sys2Proof/Laws/Memory.lean ====
section
/-! SUPPORT. Memory: reading after writing, and that every operation that writes memory keeps its canonical form. -/
namespace Sys2Proof.Machine

/-! ### The canonical form -/

/-- A lower bound may be lowered. -/
theorem memWfFrom_mono {lo lo' : Option Nat} {m : List Host.Cell} (h : memWfFrom lo m = true)
    (hl : ∀ a, lo' = some a → ∃ b, lo = some b ∧ a ≤ b) : memWfFrom lo' m = true := by
  cases m with
  | nil => rfl
  | cons c m =>
    simp only [memWfFrom, Bool.and_eq_true] at h ⊢
    refine ⟨⟨?_, h.1.2⟩, h.2⟩
    cases lo' with
    | none => rfl
    | some a =>
      obtain ⟨b, rfl, hab⟩ := hl a rfl
      have := h.1.1
      simp only [decide_eq_true_eq] at this ⊢
      omega

theorem memWfFrom_none {lo : Option Nat} {m : List Host.Cell} (h : memWfFrom lo m = true) : memWfFrom none m = true :=
  memWfFrom_mono h (by simp)

/-- A write above the bound keeps the form. -/
theorem memWrite_wfFrom {lo : Option Nat} {m : List Host.Cell} {a : Nat} {b : Byte} (h : memWfFrom lo m = true)
    (hl : ∀ x, lo = some x → x < a) : memWfFrom lo (memWrite m a b) = true := by
  induction m generalizing lo with
  | nil =>
    simp only [memWrite]
    split
    · rfl
    · rename_i hb
      simp only [memWfFrom, Bool.and_true, Bool.and_eq_true, bne_iff_ne, ne_eq]
      refine ⟨?_, hb⟩
      cases lo with
      | none => rfl
      | some x => simpa using hl x rfl
  | cons c m ih =>
    simp only [memWfFrom, Bool.and_eq_true, bne_iff_ne, ne_eq] at h
    simp only [memWrite]
    split
    · rename_i hc
      simp only [memWfFrom, Bool.and_eq_true, bne_iff_ne, ne_eq]
      exact ⟨h.1, ih h.2 (by simpa using hc)⟩
    · rename_i hc
      split
      · rename_i hca
        split
        · refine memWfFrom_mono h.2 fun x hx => ⟨c.1, rfl, ?_⟩
          have := hl x hx
          omega
        · rename_i hb
          simp only [memWfFrom, Bool.and_eq_true, bne_iff_ne, ne_eq]
          exact ⟨⟨by cases lo with
            | none => rfl
            | some x => simpa using hl x rfl, hb⟩, hca ▸ h.2⟩
      · rename_i hca
        split
        · simp only [memWfFrom, Bool.and_eq_true, bne_iff_ne, ne_eq]
          exact h
        · rename_i hb
          simp only [memWfFrom, Bool.and_eq_true, bne_iff_ne, ne_eq, decide_eq_true_eq]
          refine ⟨⟨?_, hb⟩, ⟨by omega, h.1.2⟩, h.2⟩
          cases lo with
          | none => rfl
          | some x => simpa using hl x rfl

theorem memWrite_wf {m : List Host.Cell} {a : Nat} {b : Byte} (h : Memory.wf m = true) : Memory.wf (memWrite m a b) = true :=
  memWrite_wfFrom h (by simp)

theorem memWrites_wf {m : List Host.Cell} {a : Nat} {bs : List Byte} (h : Memory.wf m = true) :
    Memory.wf (memWrites m a bs) = true := by
  induction bs generalizing m a with
  | nil => exact h
  | cons b bs ih => exact ih (memWrite_wf h)

theorem memFilter_wfFrom {lo : Option Nat} {m : List Host.Cell} (p : Host.Cell → Bool) (h : memWfFrom lo m = true) :
    memWfFrom lo (m.filter p) = true := by
  induction m generalizing lo with
  | nil => rfl
  | cons c m ih =>
    simp only [memWfFrom, Bool.and_eq_true] at h
    rw [List.filter_cons]
    split
    · simp only [memWfFrom, Bool.and_eq_true]
      exact ⟨h.1, ih h.2⟩
    · refine ih (memWfFrom_mono h.2 fun x hx => ⟨c.1, rfl, ?_⟩)
      subst hx
      have := h.1.1
      simp only [decide_eq_true_eq] at this
      omega

/-- Taking cells out keeps the form. -/
theorem memFilter_wf {m : List Host.Cell} (p : Host.Cell → Bool) (h : Memory.wf m = true) : Memory.wf (m.filter p) = true :=
  memFilter_wfFrom p h

/-- Writing cells one after another keeps the form. -/
theorem memFold_wf {α : Type} (xs : List α) (at_ : α → Nat) (b : α → Byte) {m : List Host.Cell} (h : Memory.wf m = true) :
    Memory.wf (xs.foldl (fun m x => memWrite m (at_ x) (b x)) m) = true := by
  induction xs generalizing m with
  | nil => exact h
  | cons x xs ih => exact ih (memWrite_wf h)

/-! ### Reading after writing -/

/-- Below its bound a canonical memory lists nothing. -/
theorem memRead_below {lo a : Nat} {m : List Host.Cell} (h : memWfFrom (some lo) m = true) (ha : a ≤ lo) :
    memRead m a = unlisted := by
  cases m with
  | nil => rfl
  | cons c m =>
    simp only [memWfFrom, Bool.and_eq_true, decide_eq_true_eq] at h
    have := h.1.1
    simp only [memRead]
    rw [if_neg (by omega), if_pos (by omega)]

theorem memRead_memWrite_same {lo : Option Nat} {m : List Host.Cell} (a : Nat) (b : Byte) (h : memWfFrom lo m = true) :
    memRead (memWrite m a b) a = b := by
  induction m generalizing lo with
  | nil =>
    simp only [memWrite]
    split
    · rename_i hb; simp [memRead, hb]
    · simp [memRead]
  | cons c m ih =>
    simp only [memWfFrom, Bool.and_eq_true] at h
    simp only [memWrite]
    split
    · rename_i hc
      simp only [memRead]
      rw [if_neg (by omega), if_neg (by omega)]
      exact ih h.2
    · rename_i hc
      split
      · rename_i hca
        split
        · rename_i hb
          rw [hb]
          exact memRead_below h.2 (by omega)
        · simp [memRead]
      · rename_i hca
        split
        · rename_i hb
          simp only [memRead]
          rw [if_neg hca, if_pos (by omega), hb]
        · simp [memRead]

theorem memRead_memWrite_other {lo : Option Nat} {m : List Host.Cell} {a x : Nat} (b : Byte) (h : memWfFrom lo m = true)
    (hx : x ≠ a) : memRead (memWrite m a b) x = memRead m x := by
  induction m generalizing lo with
  | nil =>
    simp only [memWrite]
    split
    · rfl
    · simp only [memRead]
      rw [if_neg (Ne.symm hx)]
      split <;> rfl
  | cons c m ih =>
    simp only [memWfFrom, Bool.and_eq_true] at h
    simp only [memWrite]
    split
    · simp only [memRead]
      split
      · rfl
      · split
        · rfl
        · exact ih h.2
    · rename_i hc
      split
      · rename_i hca
        split
        · simp only [memRead]
          rw [if_neg (by omega)]
          split
          · exact memRead_below h.2 (by omega)
          · rfl
        · simp only [memRead]
          rw [hca, if_neg (Ne.symm hx), if_neg (Ne.symm hx)]
      · rename_i hca
        split
        · rfl
        · simp only [memRead]
          rw [if_neg (Ne.symm hx)]
          split
          · rw [if_neg (by omega), if_pos (by omega)]
          · rfl

/-! ### The state's memory -/

theorem reset_memInv : State.reset.MemInv := rfl

theorem State.settle_memInv {s : State} (a : Nat) (h : s.MemInv) : (s.settle a).MemInv := by
  simp only [State.settle, State.MemInv]
  split
  · exact memWrites_wf h
  · exact h

theorem State.mark_memInv {s : State} (a n : Nat) (bad : Bool) (g : Nat) (h : s.MemInv) : (s.mark a n bad g).MemInv := by
  simp only [State.mark]
  split
  · exact h
  · split
    · exact State.settle_memInv g h
    · exact State.settle_memInv g h

theorem State.writeBytes_memInv {s : State} (a : Nat) (bs : List Byte) (bad : Bool) (h : s.MemInv) :
    (s.writeBytes a bs bad).MemInv := by
  have key : ∀ (gs : List Nat) (t : State), t.MemInv → (gs.foldl (fun s g => s.mark a bs.length bad g) t).MemInv := by
    intro gs
    induction gs with
    | nil => exact fun _ ht => ht
    | cons g gs ih => exact fun t ht => ih _ (State.mark_memInv a _ bad g ht)
  exact memWrites_wf (key _ s h)

theorem State.rawWrite_memInv {s : State} (a : Nat) (bs : List Byte) (h : s.MemInv) : (s.rawWrite a bs).MemInv :=
  memWrites_wf h

/-- Any operation that leaves memory alone keeps the form. -/
theorem State.MemInv.of_mem_eq {s t : State} (h : s.MemInv) (e : t.mem = s.mem) : t.MemInv := by
  simpa only [State.MemInv, e] using h

/-- A fold of operations that keep the form keeps it. -/
theorem State.MemInv.foldl {α : Type} (f : State → α → State) (hf : ∀ s x, s.MemInv → (f s x).MemInv) (xs : List α) {s : State}
    (h : s.MemInv) : (xs.foldl f s).MemInv := by
  induction xs generalizing s with
  | nil => exact h
  | cons x xs ih => exact ih (hf s x h)

end Sys2Proof.Machine
end

