-- ==== Sys2Proof/Laws/State.lean ====
section
/-! SUPPORT. What each update of the state leaves alone: one lemma for each field. -/
namespace Sys2Proof.Machine

variable (s : State)

/-! ### `setCore` changes the field `cores` -/

@[simp] theorem State.setCore_agenda (k : Core) : (s.setCore k).agenda = s.agenda := rfl
@[simp] theorem State.setCore_cur (k : Core) : (s.setCore k).cur = s.cur := rfl
@[simp] theorem State.setCore_fresh (k : Core) : (s.setCore k).fresh = s.fresh := rfl
@[simp] theorem State.setCore_nextId (k : Core) : (s.setCore k).nextId = s.nextId := rfl
@[simp] theorem State.setCore_turn (k : Core) : (s.setCore k).turn = s.turn := rfl
@[simp] theorem State.setCore_late (k : Core) : (s.setCore k).late = s.late := rfl
@[simp] theorem State.setCore_ticks (k : Core) : (s.setCore k).ticks = s.ticks := rfl
@[simp] theorem State.setCore_mem (k : Core) : (s.setCore k).mem = s.mem := rfl
@[simp] theorem State.setCore_poison (k : Core) : (s.setCore k).poison = s.poison := rfl
@[simp] theorem State.setCore_written (k : Core) : (s.setCore k).written = s.written := rfl
@[simp] theorem State.setCore_dies (k : Core) : (s.setCore k).dies = s.dies := rfl
@[simp] theorem State.setCore_flights (k : Core) : (s.setCore k).flights = s.flights := rfl
@[simp] theorem State.setCore_onward (k : Core) : (s.setCore k).onward = s.onward := rfl
@[simp] theorem State.setCore_results (k : Core) : (s.setCore k).results = s.results := rfl
@[simp] theorem State.setCore_sails (k : Core) : (s.setCore k).sails = s.sails := rfl
@[simp] theorem State.setCore_sailRegs (k : Core) : (s.setCore k).sailRegs = s.sailRegs := rfl
@[simp] theorem State.setCore_walker (k : Core) : (s.setCore k).walker = s.walker := rfl
@[simp] theorem State.setCore_pages (k : Core) : (s.setCore k).pages = s.pages := rfl
@[simp] theorem State.setCore_fabric (k : Core) : (s.setCore k).fabric = s.fabric := rfl
@[simp] theorem State.setCore_knit (k : Core) : (s.setCore k).knit = s.knit := rfl
@[simp] theorem State.setCore_modules (k : Core) : (s.setCore k).modules = s.modules := rfl
@[simp] theorem State.setCore_chain (k : Core) : (s.setCore k).chain = s.chain := rfl
@[simp] theorem State.setCore_trace (k : Core) : (s.setCore k).trace = s.trace := rfl
@[simp] theorem State.setCore_board (k : Core) : (s.setCore k).board = s.board := rfl
@[simp] theorem State.setCore_security (k : Core) : (s.setCore k).security = s.security := rfl
@[simp] theorem State.setCore_ddrBytes (k : Core) : (s.setCore k).ddrBytes = s.ddrBytes := rfl
@[simp] theorem State.setCore_nativeStart (k : Core) : (s.setCore k).nativeStart = s.nativeStart := rfl

/-! ### `modCore` changes the field `cores` -/

@[simp] theorem State.modCore_agenda (c : CoreRef) (f : Core → Core) : (s.modCore c f).agenda = s.agenda := rfl
@[simp] theorem State.modCore_cur (c : CoreRef) (f : Core → Core) : (s.modCore c f).cur = s.cur := rfl
@[simp] theorem State.modCore_fresh (c : CoreRef) (f : Core → Core) : (s.modCore c f).fresh = s.fresh := rfl
@[simp] theorem State.modCore_nextId (c : CoreRef) (f : Core → Core) : (s.modCore c f).nextId = s.nextId := rfl
@[simp] theorem State.modCore_turn (c : CoreRef) (f : Core → Core) : (s.modCore c f).turn = s.turn := rfl
@[simp] theorem State.modCore_late (c : CoreRef) (f : Core → Core) : (s.modCore c f).late = s.late := rfl
@[simp] theorem State.modCore_ticks (c : CoreRef) (f : Core → Core) : (s.modCore c f).ticks = s.ticks := rfl
@[simp] theorem State.modCore_mem (c : CoreRef) (f : Core → Core) : (s.modCore c f).mem = s.mem := rfl
@[simp] theorem State.modCore_poison (c : CoreRef) (f : Core → Core) : (s.modCore c f).poison = s.poison := rfl
@[simp] theorem State.modCore_written (c : CoreRef) (f : Core → Core) : (s.modCore c f).written = s.written := rfl
@[simp] theorem State.modCore_dies (c : CoreRef) (f : Core → Core) : (s.modCore c f).dies = s.dies := rfl
@[simp] theorem State.modCore_flights (c : CoreRef) (f : Core → Core) : (s.modCore c f).flights = s.flights := rfl
@[simp] theorem State.modCore_onward (c : CoreRef) (f : Core → Core) : (s.modCore c f).onward = s.onward := rfl
@[simp] theorem State.modCore_results (c : CoreRef) (f : Core → Core) : (s.modCore c f).results = s.results := rfl
@[simp] theorem State.modCore_sails (c : CoreRef) (f : Core → Core) : (s.modCore c f).sails = s.sails := rfl
@[simp] theorem State.modCore_sailRegs (c : CoreRef) (f : Core → Core) : (s.modCore c f).sailRegs = s.sailRegs := rfl
@[simp] theorem State.modCore_walker (c : CoreRef) (f : Core → Core) : (s.modCore c f).walker = s.walker := rfl
@[simp] theorem State.modCore_pages (c : CoreRef) (f : Core → Core) : (s.modCore c f).pages = s.pages := rfl
@[simp] theorem State.modCore_fabric (c : CoreRef) (f : Core → Core) : (s.modCore c f).fabric = s.fabric := rfl
@[simp] theorem State.modCore_knit (c : CoreRef) (f : Core → Core) : (s.modCore c f).knit = s.knit := rfl
@[simp] theorem State.modCore_modules (c : CoreRef) (f : Core → Core) : (s.modCore c f).modules = s.modules := rfl
@[simp] theorem State.modCore_chain (c : CoreRef) (f : Core → Core) : (s.modCore c f).chain = s.chain := rfl
@[simp] theorem State.modCore_trace (c : CoreRef) (f : Core → Core) : (s.modCore c f).trace = s.trace := rfl
@[simp] theorem State.modCore_board (c : CoreRef) (f : Core → Core) : (s.modCore c f).board = s.board := rfl
@[simp] theorem State.modCore_security (c : CoreRef) (f : Core → Core) : (s.modCore c f).security = s.security := rfl
@[simp] theorem State.modCore_ddrBytes (c : CoreRef) (f : Core → Core) : (s.modCore c f).ddrBytes = s.ddrBytes := rfl
@[simp] theorem State.modCore_nativeStart (c : CoreRef) (f : Core → Core) : (s.modCore c f).nativeStart = s.nativeStart := rfl

/-! ### `modTeam` changes the field `cores` -/

@[simp] theorem State.modTeam_agenda (c : CoreRef) (f : Team → Team) : (s.modTeam c f).agenda = s.agenda := by unfold State.modTeam; split <;> rfl
@[simp] theorem State.modTeam_cur (c : CoreRef) (f : Team → Team) : (s.modTeam c f).cur = s.cur := by unfold State.modTeam; split <;> rfl
@[simp] theorem State.modTeam_fresh (c : CoreRef) (f : Team → Team) : (s.modTeam c f).fresh = s.fresh := by unfold State.modTeam; split <;> rfl
@[simp] theorem State.modTeam_nextId (c : CoreRef) (f : Team → Team) : (s.modTeam c f).nextId = s.nextId := by unfold State.modTeam; split <;> rfl
@[simp] theorem State.modTeam_turn (c : CoreRef) (f : Team → Team) : (s.modTeam c f).turn = s.turn := by unfold State.modTeam; split <;> rfl
@[simp] theorem State.modTeam_late (c : CoreRef) (f : Team → Team) : (s.modTeam c f).late = s.late := by unfold State.modTeam; split <;> rfl
@[simp] theorem State.modTeam_ticks (c : CoreRef) (f : Team → Team) : (s.modTeam c f).ticks = s.ticks := by unfold State.modTeam; split <;> rfl
@[simp] theorem State.modTeam_mem (c : CoreRef) (f : Team → Team) : (s.modTeam c f).mem = s.mem := by unfold State.modTeam; split <;> rfl
@[simp] theorem State.modTeam_poison (c : CoreRef) (f : Team → Team) : (s.modTeam c f).poison = s.poison := by unfold State.modTeam; split <;> rfl
@[simp] theorem State.modTeam_written (c : CoreRef) (f : Team → Team) : (s.modTeam c f).written = s.written := by unfold State.modTeam; split <;> rfl
@[simp] theorem State.modTeam_dies (c : CoreRef) (f : Team → Team) : (s.modTeam c f).dies = s.dies := by unfold State.modTeam; split <;> rfl
@[simp] theorem State.modTeam_flights (c : CoreRef) (f : Team → Team) : (s.modTeam c f).flights = s.flights := by unfold State.modTeam; split <;> rfl
@[simp] theorem State.modTeam_onward (c : CoreRef) (f : Team → Team) : (s.modTeam c f).onward = s.onward := by unfold State.modTeam; split <;> rfl
@[simp] theorem State.modTeam_results (c : CoreRef) (f : Team → Team) : (s.modTeam c f).results = s.results := by unfold State.modTeam; split <;> rfl
@[simp] theorem State.modTeam_sails (c : CoreRef) (f : Team → Team) : (s.modTeam c f).sails = s.sails := by unfold State.modTeam; split <;> rfl
@[simp] theorem State.modTeam_sailRegs (c : CoreRef) (f : Team → Team) : (s.modTeam c f).sailRegs = s.sailRegs := by unfold State.modTeam; split <;> rfl
@[simp] theorem State.modTeam_walker (c : CoreRef) (f : Team → Team) : (s.modTeam c f).walker = s.walker := by unfold State.modTeam; split <;> rfl
@[simp] theorem State.modTeam_pages (c : CoreRef) (f : Team → Team) : (s.modTeam c f).pages = s.pages := by unfold State.modTeam; split <;> rfl
@[simp] theorem State.modTeam_fabric (c : CoreRef) (f : Team → Team) : (s.modTeam c f).fabric = s.fabric := by unfold State.modTeam; split <;> rfl
@[simp] theorem State.modTeam_knit (c : CoreRef) (f : Team → Team) : (s.modTeam c f).knit = s.knit := by unfold State.modTeam; split <;> rfl
@[simp] theorem State.modTeam_modules (c : CoreRef) (f : Team → Team) : (s.modTeam c f).modules = s.modules := by unfold State.modTeam; split <;> rfl
@[simp] theorem State.modTeam_chain (c : CoreRef) (f : Team → Team) : (s.modTeam c f).chain = s.chain := by unfold State.modTeam; split <;> rfl
@[simp] theorem State.modTeam_trace (c : CoreRef) (f : Team → Team) : (s.modTeam c f).trace = s.trace := by unfold State.modTeam; split <;> rfl
@[simp] theorem State.modTeam_board (c : CoreRef) (f : Team → Team) : (s.modTeam c f).board = s.board := by unfold State.modTeam; split <;> rfl
@[simp] theorem State.modTeam_security (c : CoreRef) (f : Team → Team) : (s.modTeam c f).security = s.security := by unfold State.modTeam; split <;> rfl
@[simp] theorem State.modTeam_ddrBytes (c : CoreRef) (f : Team → Team) : (s.modTeam c f).ddrBytes = s.ddrBytes := by unfold State.modTeam; split <;> rfl
@[simp] theorem State.modTeam_nativeStart (c : CoreRef) (f : Team → Team) : (s.modTeam c f).nativeStart = s.nativeStart := by unfold State.modTeam; split <;> rfl

/-! ### `modStream` changes the field `cores` -/

@[simp] theorem State.modStream_agenda (r : StreamRef) (f : Stream → Stream) : (s.modStream r f).agenda = s.agenda := by unfold State.modStream State.modTeam; split <;> rfl
@[simp] theorem State.modStream_cur (r : StreamRef) (f : Stream → Stream) : (s.modStream r f).cur = s.cur := by unfold State.modStream State.modTeam; split <;> rfl
@[simp] theorem State.modStream_fresh (r : StreamRef) (f : Stream → Stream) : (s.modStream r f).fresh = s.fresh := by unfold State.modStream State.modTeam; split <;> rfl
@[simp] theorem State.modStream_nextId (r : StreamRef) (f : Stream → Stream) : (s.modStream r f).nextId = s.nextId := by unfold State.modStream State.modTeam; split <;> rfl
@[simp] theorem State.modStream_turn (r : StreamRef) (f : Stream → Stream) : (s.modStream r f).turn = s.turn := by unfold State.modStream State.modTeam; split <;> rfl
@[simp] theorem State.modStream_late (r : StreamRef) (f : Stream → Stream) : (s.modStream r f).late = s.late := by unfold State.modStream State.modTeam; split <;> rfl
@[simp] theorem State.modStream_ticks (r : StreamRef) (f : Stream → Stream) : (s.modStream r f).ticks = s.ticks := by unfold State.modStream State.modTeam; split <;> rfl
@[simp] theorem State.modStream_mem (r : StreamRef) (f : Stream → Stream) : (s.modStream r f).mem = s.mem := by unfold State.modStream State.modTeam; split <;> rfl
@[simp] theorem State.modStream_poison (r : StreamRef) (f : Stream → Stream) : (s.modStream r f).poison = s.poison := by unfold State.modStream State.modTeam; split <;> rfl
@[simp] theorem State.modStream_written (r : StreamRef) (f : Stream → Stream) : (s.modStream r f).written = s.written := by unfold State.modStream State.modTeam; split <;> rfl
@[simp] theorem State.modStream_dies (r : StreamRef) (f : Stream → Stream) : (s.modStream r f).dies = s.dies := by unfold State.modStream State.modTeam; split <;> rfl
@[simp] theorem State.modStream_flights (r : StreamRef) (f : Stream → Stream) : (s.modStream r f).flights = s.flights := by unfold State.modStream State.modTeam; split <;> rfl
@[simp] theorem State.modStream_onward (r : StreamRef) (f : Stream → Stream) : (s.modStream r f).onward = s.onward := by unfold State.modStream State.modTeam; split <;> rfl
@[simp] theorem State.modStream_results (r : StreamRef) (f : Stream → Stream) : (s.modStream r f).results = s.results := by unfold State.modStream State.modTeam; split <;> rfl
@[simp] theorem State.modStream_sails (r : StreamRef) (f : Stream → Stream) : (s.modStream r f).sails = s.sails := by unfold State.modStream State.modTeam; split <;> rfl
@[simp] theorem State.modStream_sailRegs (r : StreamRef) (f : Stream → Stream) : (s.modStream r f).sailRegs = s.sailRegs := by unfold State.modStream State.modTeam; split <;> rfl
@[simp] theorem State.modStream_walker (r : StreamRef) (f : Stream → Stream) : (s.modStream r f).walker = s.walker := by unfold State.modStream State.modTeam; split <;> rfl
@[simp] theorem State.modStream_pages (r : StreamRef) (f : Stream → Stream) : (s.modStream r f).pages = s.pages := by unfold State.modStream State.modTeam; split <;> rfl
@[simp] theorem State.modStream_fabric (r : StreamRef) (f : Stream → Stream) : (s.modStream r f).fabric = s.fabric := by unfold State.modStream State.modTeam; split <;> rfl
@[simp] theorem State.modStream_knit (r : StreamRef) (f : Stream → Stream) : (s.modStream r f).knit = s.knit := by unfold State.modStream State.modTeam; split <;> rfl
@[simp] theorem State.modStream_modules (r : StreamRef) (f : Stream → Stream) : (s.modStream r f).modules = s.modules := by unfold State.modStream State.modTeam; split <;> rfl
@[simp] theorem State.modStream_chain (r : StreamRef) (f : Stream → Stream) : (s.modStream r f).chain = s.chain := by unfold State.modStream State.modTeam; split <;> rfl
@[simp] theorem State.modStream_trace (r : StreamRef) (f : Stream → Stream) : (s.modStream r f).trace = s.trace := by unfold State.modStream State.modTeam; split <;> rfl
@[simp] theorem State.modStream_board (r : StreamRef) (f : Stream → Stream) : (s.modStream r f).board = s.board := by unfold State.modStream State.modTeam; split <;> rfl
@[simp] theorem State.modStream_security (r : StreamRef) (f : Stream → Stream) : (s.modStream r f).security = s.security := by unfold State.modStream State.modTeam; split <;> rfl
@[simp] theorem State.modStream_ddrBytes (r : StreamRef) (f : Stream → Stream) : (s.modStream r f).ddrBytes = s.ddrBytes := by unfold State.modStream State.modTeam; split <;> rfl
@[simp] theorem State.modStream_nativeStart (r : StreamRef) (f : Stream → Stream) : (s.modStream r f).nativeStart = s.nativeStart := by unfold State.modStream State.modTeam; split <;> rfl

/-! ### `modDie` changes the field `dies` -/

@[simp] theorem State.modDie_agenda (d : Nat) (f : Die → Die) : (s.modDie d f).agenda = s.agenda := rfl
@[simp] theorem State.modDie_cur (d : Nat) (f : Die → Die) : (s.modDie d f).cur = s.cur := rfl
@[simp] theorem State.modDie_fresh (d : Nat) (f : Die → Die) : (s.modDie d f).fresh = s.fresh := rfl
@[simp] theorem State.modDie_nextId (d : Nat) (f : Die → Die) : (s.modDie d f).nextId = s.nextId := rfl
@[simp] theorem State.modDie_turn (d : Nat) (f : Die → Die) : (s.modDie d f).turn = s.turn := rfl
@[simp] theorem State.modDie_late (d : Nat) (f : Die → Die) : (s.modDie d f).late = s.late := rfl
@[simp] theorem State.modDie_ticks (d : Nat) (f : Die → Die) : (s.modDie d f).ticks = s.ticks := rfl
@[simp] theorem State.modDie_mem (d : Nat) (f : Die → Die) : (s.modDie d f).mem = s.mem := rfl
@[simp] theorem State.modDie_poison (d : Nat) (f : Die → Die) : (s.modDie d f).poison = s.poison := rfl
@[simp] theorem State.modDie_written (d : Nat) (f : Die → Die) : (s.modDie d f).written = s.written := rfl
@[simp] theorem State.modDie_cores (d : Nat) (f : Die → Die) : (s.modDie d f).cores = s.cores := rfl
@[simp] theorem State.modDie_flights (d : Nat) (f : Die → Die) : (s.modDie d f).flights = s.flights := rfl
@[simp] theorem State.modDie_onward (d : Nat) (f : Die → Die) : (s.modDie d f).onward = s.onward := rfl
@[simp] theorem State.modDie_results (d : Nat) (f : Die → Die) : (s.modDie d f).results = s.results := rfl
@[simp] theorem State.modDie_sails (d : Nat) (f : Die → Die) : (s.modDie d f).sails = s.sails := rfl
@[simp] theorem State.modDie_sailRegs (d : Nat) (f : Die → Die) : (s.modDie d f).sailRegs = s.sailRegs := rfl
@[simp] theorem State.modDie_walker (d : Nat) (f : Die → Die) : (s.modDie d f).walker = s.walker := rfl
@[simp] theorem State.modDie_pages (d : Nat) (f : Die → Die) : (s.modDie d f).pages = s.pages := rfl
@[simp] theorem State.modDie_fabric (d : Nat) (f : Die → Die) : (s.modDie d f).fabric = s.fabric := rfl
@[simp] theorem State.modDie_knit (d : Nat) (f : Die → Die) : (s.modDie d f).knit = s.knit := rfl
@[simp] theorem State.modDie_modules (d : Nat) (f : Die → Die) : (s.modDie d f).modules = s.modules := rfl
@[simp] theorem State.modDie_chain (d : Nat) (f : Die → Die) : (s.modDie d f).chain = s.chain := rfl
@[simp] theorem State.modDie_trace (d : Nat) (f : Die → Die) : (s.modDie d f).trace = s.trace := rfl
@[simp] theorem State.modDie_board (d : Nat) (f : Die → Die) : (s.modDie d f).board = s.board := rfl
@[simp] theorem State.modDie_security (d : Nat) (f : Die → Die) : (s.modDie d f).security = s.security := rfl
@[simp] theorem State.modDie_ddrBytes (d : Nat) (f : Die → Die) : (s.modDie d f).ddrBytes = s.ddrBytes := rfl
@[simp] theorem State.modDie_nativeStart (d : Nat) (f : Die → Die) : (s.modDie d f).nativeStart = s.nativeStart := rfl

/-! ### `modSail` changes the field `sails` -/

@[simp] theorem State.modSail_agenda (k : SailKey) (f : Sail → Sail) : (s.modSail k f).agenda = s.agenda := rfl
@[simp] theorem State.modSail_cur (k : SailKey) (f : Sail → Sail) : (s.modSail k f).cur = s.cur := rfl
@[simp] theorem State.modSail_fresh (k : SailKey) (f : Sail → Sail) : (s.modSail k f).fresh = s.fresh := rfl
@[simp] theorem State.modSail_nextId (k : SailKey) (f : Sail → Sail) : (s.modSail k f).nextId = s.nextId := rfl
@[simp] theorem State.modSail_turn (k : SailKey) (f : Sail → Sail) : (s.modSail k f).turn = s.turn := rfl
@[simp] theorem State.modSail_late (k : SailKey) (f : Sail → Sail) : (s.modSail k f).late = s.late := rfl
@[simp] theorem State.modSail_ticks (k : SailKey) (f : Sail → Sail) : (s.modSail k f).ticks = s.ticks := rfl
@[simp] theorem State.modSail_mem (k : SailKey) (f : Sail → Sail) : (s.modSail k f).mem = s.mem := rfl
@[simp] theorem State.modSail_poison (k : SailKey) (f : Sail → Sail) : (s.modSail k f).poison = s.poison := rfl
@[simp] theorem State.modSail_written (k : SailKey) (f : Sail → Sail) : (s.modSail k f).written = s.written := rfl
@[simp] theorem State.modSail_cores (k : SailKey) (f : Sail → Sail) : (s.modSail k f).cores = s.cores := rfl
@[simp] theorem State.modSail_dies (k : SailKey) (f : Sail → Sail) : (s.modSail k f).dies = s.dies := rfl
@[simp] theorem State.modSail_flights (k : SailKey) (f : Sail → Sail) : (s.modSail k f).flights = s.flights := rfl
@[simp] theorem State.modSail_onward (k : SailKey) (f : Sail → Sail) : (s.modSail k f).onward = s.onward := rfl
@[simp] theorem State.modSail_results (k : SailKey) (f : Sail → Sail) : (s.modSail k f).results = s.results := rfl
@[simp] theorem State.modSail_sailRegs (k : SailKey) (f : Sail → Sail) : (s.modSail k f).sailRegs = s.sailRegs := rfl
@[simp] theorem State.modSail_walker (k : SailKey) (f : Sail → Sail) : (s.modSail k f).walker = s.walker := rfl
@[simp] theorem State.modSail_pages (k : SailKey) (f : Sail → Sail) : (s.modSail k f).pages = s.pages := rfl
@[simp] theorem State.modSail_fabric (k : SailKey) (f : Sail → Sail) : (s.modSail k f).fabric = s.fabric := rfl
@[simp] theorem State.modSail_knit (k : SailKey) (f : Sail → Sail) : (s.modSail k f).knit = s.knit := rfl
@[simp] theorem State.modSail_modules (k : SailKey) (f : Sail → Sail) : (s.modSail k f).modules = s.modules := rfl
@[simp] theorem State.modSail_chain (k : SailKey) (f : Sail → Sail) : (s.modSail k f).chain = s.chain := rfl
@[simp] theorem State.modSail_trace (k : SailKey) (f : Sail → Sail) : (s.modSail k f).trace = s.trace := rfl
@[simp] theorem State.modSail_board (k : SailKey) (f : Sail → Sail) : (s.modSail k f).board = s.board := rfl
@[simp] theorem State.modSail_security (k : SailKey) (f : Sail → Sail) : (s.modSail k f).security = s.security := rfl
@[simp] theorem State.modSail_ddrBytes (k : SailKey) (f : Sail → Sail) : (s.modSail k f).ddrBytes = s.ddrBytes := rfl
@[simp] theorem State.modSail_nativeStart (k : SailKey) (f : Sail → Sail) : (s.modSail k f).nativeStart = s.nativeStart := rfl

/-! ### `modAcc` changes the field `flights` -/

@[simp] theorem State.modAcc_agenda (id : Nat) (f : Acc → Acc) : (s.modAcc id f).agenda = s.agenda := rfl
@[simp] theorem State.modAcc_cur (id : Nat) (f : Acc → Acc) : (s.modAcc id f).cur = s.cur := rfl
@[simp] theorem State.modAcc_fresh (id : Nat) (f : Acc → Acc) : (s.modAcc id f).fresh = s.fresh := rfl
@[simp] theorem State.modAcc_nextId (id : Nat) (f : Acc → Acc) : (s.modAcc id f).nextId = s.nextId := rfl
@[simp] theorem State.modAcc_turn (id : Nat) (f : Acc → Acc) : (s.modAcc id f).turn = s.turn := rfl
@[simp] theorem State.modAcc_late (id : Nat) (f : Acc → Acc) : (s.modAcc id f).late = s.late := rfl
@[simp] theorem State.modAcc_ticks (id : Nat) (f : Acc → Acc) : (s.modAcc id f).ticks = s.ticks := rfl
@[simp] theorem State.modAcc_mem (id : Nat) (f : Acc → Acc) : (s.modAcc id f).mem = s.mem := rfl
@[simp] theorem State.modAcc_poison (id : Nat) (f : Acc → Acc) : (s.modAcc id f).poison = s.poison := rfl
@[simp] theorem State.modAcc_written (id : Nat) (f : Acc → Acc) : (s.modAcc id f).written = s.written := rfl
@[simp] theorem State.modAcc_cores (id : Nat) (f : Acc → Acc) : (s.modAcc id f).cores = s.cores := rfl
@[simp] theorem State.modAcc_dies (id : Nat) (f : Acc → Acc) : (s.modAcc id f).dies = s.dies := rfl
@[simp] theorem State.modAcc_onward (id : Nat) (f : Acc → Acc) : (s.modAcc id f).onward = s.onward := rfl
@[simp] theorem State.modAcc_results (id : Nat) (f : Acc → Acc) : (s.modAcc id f).results = s.results := rfl
@[simp] theorem State.modAcc_sails (id : Nat) (f : Acc → Acc) : (s.modAcc id f).sails = s.sails := rfl
@[simp] theorem State.modAcc_sailRegs (id : Nat) (f : Acc → Acc) : (s.modAcc id f).sailRegs = s.sailRegs := rfl
@[simp] theorem State.modAcc_walker (id : Nat) (f : Acc → Acc) : (s.modAcc id f).walker = s.walker := rfl
@[simp] theorem State.modAcc_pages (id : Nat) (f : Acc → Acc) : (s.modAcc id f).pages = s.pages := rfl
@[simp] theorem State.modAcc_fabric (id : Nat) (f : Acc → Acc) : (s.modAcc id f).fabric = s.fabric := rfl
@[simp] theorem State.modAcc_knit (id : Nat) (f : Acc → Acc) : (s.modAcc id f).knit = s.knit := rfl
@[simp] theorem State.modAcc_modules (id : Nat) (f : Acc → Acc) : (s.modAcc id f).modules = s.modules := rfl
@[simp] theorem State.modAcc_chain (id : Nat) (f : Acc → Acc) : (s.modAcc id f).chain = s.chain := rfl
@[simp] theorem State.modAcc_trace (id : Nat) (f : Acc → Acc) : (s.modAcc id f).trace = s.trace := rfl
@[simp] theorem State.modAcc_board (id : Nat) (f : Acc → Acc) : (s.modAcc id f).board = s.board := rfl
@[simp] theorem State.modAcc_security (id : Nat) (f : Acc → Acc) : (s.modAcc id f).security = s.security := rfl
@[simp] theorem State.modAcc_ddrBytes (id : Nat) (f : Acc → Acc) : (s.modAcc id f).ddrBytes = s.ddrBytes := rfl
@[simp] theorem State.modAcc_nativeStart (id : Nat) (f : Acc → Acc) : (s.modAcc id f).nativeStart = s.nativeStart := rfl

/-! ### `dropAcc` changes the field `flights` -/

@[simp] theorem State.dropAcc_agenda (id : Nat) : (s.dropAcc id).agenda = s.agenda := rfl
@[simp] theorem State.dropAcc_cur (id : Nat) : (s.dropAcc id).cur = s.cur := rfl
@[simp] theorem State.dropAcc_fresh (id : Nat) : (s.dropAcc id).fresh = s.fresh := rfl
@[simp] theorem State.dropAcc_nextId (id : Nat) : (s.dropAcc id).nextId = s.nextId := rfl
@[simp] theorem State.dropAcc_turn (id : Nat) : (s.dropAcc id).turn = s.turn := rfl
@[simp] theorem State.dropAcc_late (id : Nat) : (s.dropAcc id).late = s.late := rfl
@[simp] theorem State.dropAcc_ticks (id : Nat) : (s.dropAcc id).ticks = s.ticks := rfl
@[simp] theorem State.dropAcc_mem (id : Nat) : (s.dropAcc id).mem = s.mem := rfl
@[simp] theorem State.dropAcc_poison (id : Nat) : (s.dropAcc id).poison = s.poison := rfl
@[simp] theorem State.dropAcc_written (id : Nat) : (s.dropAcc id).written = s.written := rfl
@[simp] theorem State.dropAcc_cores (id : Nat) : (s.dropAcc id).cores = s.cores := rfl
@[simp] theorem State.dropAcc_dies (id : Nat) : (s.dropAcc id).dies = s.dies := rfl
@[simp] theorem State.dropAcc_onward (id : Nat) : (s.dropAcc id).onward = s.onward := rfl
@[simp] theorem State.dropAcc_results (id : Nat) : (s.dropAcc id).results = s.results := rfl
@[simp] theorem State.dropAcc_sails (id : Nat) : (s.dropAcc id).sails = s.sails := rfl
@[simp] theorem State.dropAcc_sailRegs (id : Nat) : (s.dropAcc id).sailRegs = s.sailRegs := rfl
@[simp] theorem State.dropAcc_walker (id : Nat) : (s.dropAcc id).walker = s.walker := rfl
@[simp] theorem State.dropAcc_pages (id : Nat) : (s.dropAcc id).pages = s.pages := rfl
@[simp] theorem State.dropAcc_fabric (id : Nat) : (s.dropAcc id).fabric = s.fabric := rfl
@[simp] theorem State.dropAcc_knit (id : Nat) : (s.dropAcc id).knit = s.knit := rfl
@[simp] theorem State.dropAcc_modules (id : Nat) : (s.dropAcc id).modules = s.modules := rfl
@[simp] theorem State.dropAcc_chain (id : Nat) : (s.dropAcc id).chain = s.chain := rfl
@[simp] theorem State.dropAcc_trace (id : Nat) : (s.dropAcc id).trace = s.trace := rfl
@[simp] theorem State.dropAcc_board (id : Nat) : (s.dropAcc id).board = s.board := rfl
@[simp] theorem State.dropAcc_security (id : Nat) : (s.dropAcc id).security = s.security := rfl
@[simp] theorem State.dropAcc_ddrBytes (id : Nat) : (s.dropAcc id).ddrBytes = s.ddrBytes := rfl
@[simp] theorem State.dropAcc_nativeStart (id : Nat) : (s.dropAcc id).nativeStart = s.nativeStart := rfl

/-! ### `modCluster` changes the field `walker` -/

@[simp] theorem State.modCluster_agenda (k : Nat) (f : Cluster → Cluster) : (s.modCluster k f).agenda = s.agenda := rfl
@[simp] theorem State.modCluster_cur (k : Nat) (f : Cluster → Cluster) : (s.modCluster k f).cur = s.cur := rfl
@[simp] theorem State.modCluster_fresh (k : Nat) (f : Cluster → Cluster) : (s.modCluster k f).fresh = s.fresh := rfl
@[simp] theorem State.modCluster_nextId (k : Nat) (f : Cluster → Cluster) : (s.modCluster k f).nextId = s.nextId := rfl
@[simp] theorem State.modCluster_turn (k : Nat) (f : Cluster → Cluster) : (s.modCluster k f).turn = s.turn := rfl
@[simp] theorem State.modCluster_late (k : Nat) (f : Cluster → Cluster) : (s.modCluster k f).late = s.late := rfl
@[simp] theorem State.modCluster_ticks (k : Nat) (f : Cluster → Cluster) : (s.modCluster k f).ticks = s.ticks := rfl
@[simp] theorem State.modCluster_mem (k : Nat) (f : Cluster → Cluster) : (s.modCluster k f).mem = s.mem := rfl
@[simp] theorem State.modCluster_poison (k : Nat) (f : Cluster → Cluster) : (s.modCluster k f).poison = s.poison := rfl
@[simp] theorem State.modCluster_written (k : Nat) (f : Cluster → Cluster) : (s.modCluster k f).written = s.written := rfl
@[simp] theorem State.modCluster_cores (k : Nat) (f : Cluster → Cluster) : (s.modCluster k f).cores = s.cores := rfl
@[simp] theorem State.modCluster_dies (k : Nat) (f : Cluster → Cluster) : (s.modCluster k f).dies = s.dies := rfl
@[simp] theorem State.modCluster_flights (k : Nat) (f : Cluster → Cluster) : (s.modCluster k f).flights = s.flights := rfl
@[simp] theorem State.modCluster_onward (k : Nat) (f : Cluster → Cluster) : (s.modCluster k f).onward = s.onward := rfl
@[simp] theorem State.modCluster_results (k : Nat) (f : Cluster → Cluster) : (s.modCluster k f).results = s.results := rfl
@[simp] theorem State.modCluster_sails (k : Nat) (f : Cluster → Cluster) : (s.modCluster k f).sails = s.sails := rfl
@[simp] theorem State.modCluster_sailRegs (k : Nat) (f : Cluster → Cluster) : (s.modCluster k f).sailRegs = s.sailRegs := rfl
@[simp] theorem State.modCluster_pages (k : Nat) (f : Cluster → Cluster) : (s.modCluster k f).pages = s.pages := rfl
@[simp] theorem State.modCluster_fabric (k : Nat) (f : Cluster → Cluster) : (s.modCluster k f).fabric = s.fabric := rfl
@[simp] theorem State.modCluster_knit (k : Nat) (f : Cluster → Cluster) : (s.modCluster k f).knit = s.knit := rfl
@[simp] theorem State.modCluster_modules (k : Nat) (f : Cluster → Cluster) : (s.modCluster k f).modules = s.modules := rfl
@[simp] theorem State.modCluster_chain (k : Nat) (f : Cluster → Cluster) : (s.modCluster k f).chain = s.chain := rfl
@[simp] theorem State.modCluster_trace (k : Nat) (f : Cluster → Cluster) : (s.modCluster k f).trace = s.trace := rfl
@[simp] theorem State.modCluster_board (k : Nat) (f : Cluster → Cluster) : (s.modCluster k f).board = s.board := rfl
@[simp] theorem State.modCluster_security (k : Nat) (f : Cluster → Cluster) : (s.modCluster k f).security = s.security := rfl
@[simp] theorem State.modCluster_ddrBytes (k : Nat) (f : Cluster → Cluster) : (s.modCluster k f).ddrBytes = s.ddrBytes := rfl
@[simp] theorem State.modCluster_nativeStart (k : Nat) (f : Cluster → Cluster) : (s.modCluster k f).nativeStart = s.nativeStart := rfl

/-! ### `modLq` changes the field `walker` -/

@[simp] theorem State.modLq_agenda (n : Nat) (f : LaunchQueue → LaunchQueue) : (s.modLq n f).agenda = s.agenda := rfl
@[simp] theorem State.modLq_cur (n : Nat) (f : LaunchQueue → LaunchQueue) : (s.modLq n f).cur = s.cur := rfl
@[simp] theorem State.modLq_fresh (n : Nat) (f : LaunchQueue → LaunchQueue) : (s.modLq n f).fresh = s.fresh := rfl
@[simp] theorem State.modLq_nextId (n : Nat) (f : LaunchQueue → LaunchQueue) : (s.modLq n f).nextId = s.nextId := rfl
@[simp] theorem State.modLq_turn (n : Nat) (f : LaunchQueue → LaunchQueue) : (s.modLq n f).turn = s.turn := rfl
@[simp] theorem State.modLq_late (n : Nat) (f : LaunchQueue → LaunchQueue) : (s.modLq n f).late = s.late := rfl
@[simp] theorem State.modLq_ticks (n : Nat) (f : LaunchQueue → LaunchQueue) : (s.modLq n f).ticks = s.ticks := rfl
@[simp] theorem State.modLq_mem (n : Nat) (f : LaunchQueue → LaunchQueue) : (s.modLq n f).mem = s.mem := rfl
@[simp] theorem State.modLq_poison (n : Nat) (f : LaunchQueue → LaunchQueue) : (s.modLq n f).poison = s.poison := rfl
@[simp] theorem State.modLq_written (n : Nat) (f : LaunchQueue → LaunchQueue) : (s.modLq n f).written = s.written := rfl
@[simp] theorem State.modLq_cores (n : Nat) (f : LaunchQueue → LaunchQueue) : (s.modLq n f).cores = s.cores := rfl
@[simp] theorem State.modLq_dies (n : Nat) (f : LaunchQueue → LaunchQueue) : (s.modLq n f).dies = s.dies := rfl
@[simp] theorem State.modLq_flights (n : Nat) (f : LaunchQueue → LaunchQueue) : (s.modLq n f).flights = s.flights := rfl
@[simp] theorem State.modLq_onward (n : Nat) (f : LaunchQueue → LaunchQueue) : (s.modLq n f).onward = s.onward := rfl
@[simp] theorem State.modLq_results (n : Nat) (f : LaunchQueue → LaunchQueue) : (s.modLq n f).results = s.results := rfl
@[simp] theorem State.modLq_sails (n : Nat) (f : LaunchQueue → LaunchQueue) : (s.modLq n f).sails = s.sails := rfl
@[simp] theorem State.modLq_sailRegs (n : Nat) (f : LaunchQueue → LaunchQueue) : (s.modLq n f).sailRegs = s.sailRegs := rfl
@[simp] theorem State.modLq_pages (n : Nat) (f : LaunchQueue → LaunchQueue) : (s.modLq n f).pages = s.pages := rfl
@[simp] theorem State.modLq_fabric (n : Nat) (f : LaunchQueue → LaunchQueue) : (s.modLq n f).fabric = s.fabric := rfl
@[simp] theorem State.modLq_knit (n : Nat) (f : LaunchQueue → LaunchQueue) : (s.modLq n f).knit = s.knit := rfl
@[simp] theorem State.modLq_modules (n : Nat) (f : LaunchQueue → LaunchQueue) : (s.modLq n f).modules = s.modules := rfl
@[simp] theorem State.modLq_chain (n : Nat) (f : LaunchQueue → LaunchQueue) : (s.modLq n f).chain = s.chain := rfl
@[simp] theorem State.modLq_trace (n : Nat) (f : LaunchQueue → LaunchQueue) : (s.modLq n f).trace = s.trace := rfl
@[simp] theorem State.modLq_board (n : Nat) (f : LaunchQueue → LaunchQueue) : (s.modLq n f).board = s.board := rfl
@[simp] theorem State.modLq_security (n : Nat) (f : LaunchQueue → LaunchQueue) : (s.modLq n f).security = s.security := rfl
@[simp] theorem State.modLq_ddrBytes (n : Nat) (f : LaunchQueue → LaunchQueue) : (s.modLq n f).ddrBytes = s.ddrBytes := rfl
@[simp] theorem State.modLq_nativeStart (n : Nat) (f : LaunchQueue → LaunchQueue) : (s.modLq n f).nativeStart = s.nativeStart := rfl

/-! ### `setCounter` changes the field `walker` -/

@[simp] theorem State.setCounter_agenda (c : Counter) : (s.setCounter c).agenda = s.agenda := rfl
@[simp] theorem State.setCounter_cur (c : Counter) : (s.setCounter c).cur = s.cur := rfl
@[simp] theorem State.setCounter_fresh (c : Counter) : (s.setCounter c).fresh = s.fresh := rfl
@[simp] theorem State.setCounter_nextId (c : Counter) : (s.setCounter c).nextId = s.nextId := rfl
@[simp] theorem State.setCounter_turn (c : Counter) : (s.setCounter c).turn = s.turn := rfl
@[simp] theorem State.setCounter_late (c : Counter) : (s.setCounter c).late = s.late := rfl
@[simp] theorem State.setCounter_ticks (c : Counter) : (s.setCounter c).ticks = s.ticks := rfl
@[simp] theorem State.setCounter_mem (c : Counter) : (s.setCounter c).mem = s.mem := rfl
@[simp] theorem State.setCounter_poison (c : Counter) : (s.setCounter c).poison = s.poison := rfl
@[simp] theorem State.setCounter_written (c : Counter) : (s.setCounter c).written = s.written := rfl
@[simp] theorem State.setCounter_cores (c : Counter) : (s.setCounter c).cores = s.cores := rfl
@[simp] theorem State.setCounter_dies (c : Counter) : (s.setCounter c).dies = s.dies := rfl
@[simp] theorem State.setCounter_flights (c : Counter) : (s.setCounter c).flights = s.flights := rfl
@[simp] theorem State.setCounter_onward (c : Counter) : (s.setCounter c).onward = s.onward := rfl
@[simp] theorem State.setCounter_results (c : Counter) : (s.setCounter c).results = s.results := rfl
@[simp] theorem State.setCounter_sails (c : Counter) : (s.setCounter c).sails = s.sails := rfl
@[simp] theorem State.setCounter_sailRegs (c : Counter) : (s.setCounter c).sailRegs = s.sailRegs := rfl
@[simp] theorem State.setCounter_pages (c : Counter) : (s.setCounter c).pages = s.pages := rfl
@[simp] theorem State.setCounter_fabric (c : Counter) : (s.setCounter c).fabric = s.fabric := rfl
@[simp] theorem State.setCounter_knit (c : Counter) : (s.setCounter c).knit = s.knit := rfl
@[simp] theorem State.setCounter_modules (c : Counter) : (s.setCounter c).modules = s.modules := rfl
@[simp] theorem State.setCounter_chain (c : Counter) : (s.setCounter c).chain = s.chain := rfl
@[simp] theorem State.setCounter_trace (c : Counter) : (s.setCounter c).trace = s.trace := rfl
@[simp] theorem State.setCounter_board (c : Counter) : (s.setCounter c).board = s.board := rfl
@[simp] theorem State.setCounter_security (c : Counter) : (s.setCounter c).security = s.security := rfl
@[simp] theorem State.setCounter_ddrBytes (c : Counter) : (s.setCounter c).ddrBytes = s.ddrBytes := rfl
@[simp] theorem State.setCounter_nativeStart (c : Counter) : (s.setCounter c).nativeStart = s.nativeStart := rfl

/-! ### `modPort` changes the field `fabric` -/

@[simp] theorem State.modPort_agenda (n : Nat) (f : Port → Port) : (s.modPort n f).agenda = s.agenda := rfl
@[simp] theorem State.modPort_cur (n : Nat) (f : Port → Port) : (s.modPort n f).cur = s.cur := rfl
@[simp] theorem State.modPort_fresh (n : Nat) (f : Port → Port) : (s.modPort n f).fresh = s.fresh := rfl
@[simp] theorem State.modPort_nextId (n : Nat) (f : Port → Port) : (s.modPort n f).nextId = s.nextId := rfl
@[simp] theorem State.modPort_turn (n : Nat) (f : Port → Port) : (s.modPort n f).turn = s.turn := rfl
@[simp] theorem State.modPort_late (n : Nat) (f : Port → Port) : (s.modPort n f).late = s.late := rfl
@[simp] theorem State.modPort_ticks (n : Nat) (f : Port → Port) : (s.modPort n f).ticks = s.ticks := rfl
@[simp] theorem State.modPort_mem (n : Nat) (f : Port → Port) : (s.modPort n f).mem = s.mem := rfl
@[simp] theorem State.modPort_poison (n : Nat) (f : Port → Port) : (s.modPort n f).poison = s.poison := rfl
@[simp] theorem State.modPort_written (n : Nat) (f : Port → Port) : (s.modPort n f).written = s.written := rfl
@[simp] theorem State.modPort_cores (n : Nat) (f : Port → Port) : (s.modPort n f).cores = s.cores := rfl
@[simp] theorem State.modPort_dies (n : Nat) (f : Port → Port) : (s.modPort n f).dies = s.dies := rfl
@[simp] theorem State.modPort_flights (n : Nat) (f : Port → Port) : (s.modPort n f).flights = s.flights := rfl
@[simp] theorem State.modPort_onward (n : Nat) (f : Port → Port) : (s.modPort n f).onward = s.onward := rfl
@[simp] theorem State.modPort_results (n : Nat) (f : Port → Port) : (s.modPort n f).results = s.results := rfl
@[simp] theorem State.modPort_sails (n : Nat) (f : Port → Port) : (s.modPort n f).sails = s.sails := rfl
@[simp] theorem State.modPort_sailRegs (n : Nat) (f : Port → Port) : (s.modPort n f).sailRegs = s.sailRegs := rfl
@[simp] theorem State.modPort_walker (n : Nat) (f : Port → Port) : (s.modPort n f).walker = s.walker := rfl
@[simp] theorem State.modPort_pages (n : Nat) (f : Port → Port) : (s.modPort n f).pages = s.pages := rfl
@[simp] theorem State.modPort_knit (n : Nat) (f : Port → Port) : (s.modPort n f).knit = s.knit := rfl
@[simp] theorem State.modPort_modules (n : Nat) (f : Port → Port) : (s.modPort n f).modules = s.modules := rfl
@[simp] theorem State.modPort_chain (n : Nat) (f : Port → Port) : (s.modPort n f).chain = s.chain := rfl
@[simp] theorem State.modPort_trace (n : Nat) (f : Port → Port) : (s.modPort n f).trace = s.trace := rfl
@[simp] theorem State.modPort_board (n : Nat) (f : Port → Port) : (s.modPort n f).board = s.board := rfl
@[simp] theorem State.modPort_security (n : Nat) (f : Port → Port) : (s.modPort n f).security = s.security := rfl
@[simp] theorem State.modPort_ddrBytes (n : Nat) (f : Port → Port) : (s.modPort n f).ddrBytes = s.ddrBytes := rfl
@[simp] theorem State.modPort_nativeStart (n : Nat) (f : Port → Port) : (s.modPort n f).nativeStart = s.nativeStart := rfl

/-! ### `modPage` changes the field `trace` -/

@[simp] theorem State.modPage_agenda (n : Nat) (f : CounterPage → CounterPage) : (s.modPage n f).agenda = s.agenda := rfl
@[simp] theorem State.modPage_cur (n : Nat) (f : CounterPage → CounterPage) : (s.modPage n f).cur = s.cur := rfl
@[simp] theorem State.modPage_fresh (n : Nat) (f : CounterPage → CounterPage) : (s.modPage n f).fresh = s.fresh := rfl
@[simp] theorem State.modPage_nextId (n : Nat) (f : CounterPage → CounterPage) : (s.modPage n f).nextId = s.nextId := rfl
@[simp] theorem State.modPage_turn (n : Nat) (f : CounterPage → CounterPage) : (s.modPage n f).turn = s.turn := rfl
@[simp] theorem State.modPage_late (n : Nat) (f : CounterPage → CounterPage) : (s.modPage n f).late = s.late := rfl
@[simp] theorem State.modPage_ticks (n : Nat) (f : CounterPage → CounterPage) : (s.modPage n f).ticks = s.ticks := rfl
@[simp] theorem State.modPage_mem (n : Nat) (f : CounterPage → CounterPage) : (s.modPage n f).mem = s.mem := rfl
@[simp] theorem State.modPage_poison (n : Nat) (f : CounterPage → CounterPage) : (s.modPage n f).poison = s.poison := rfl
@[simp] theorem State.modPage_written (n : Nat) (f : CounterPage → CounterPage) : (s.modPage n f).written = s.written := rfl
@[simp] theorem State.modPage_cores (n : Nat) (f : CounterPage → CounterPage) : (s.modPage n f).cores = s.cores := rfl
@[simp] theorem State.modPage_dies (n : Nat) (f : CounterPage → CounterPage) : (s.modPage n f).dies = s.dies := rfl
@[simp] theorem State.modPage_flights (n : Nat) (f : CounterPage → CounterPage) : (s.modPage n f).flights = s.flights := rfl
@[simp] theorem State.modPage_onward (n : Nat) (f : CounterPage → CounterPage) : (s.modPage n f).onward = s.onward := rfl
@[simp] theorem State.modPage_results (n : Nat) (f : CounterPage → CounterPage) : (s.modPage n f).results = s.results := rfl
@[simp] theorem State.modPage_sails (n : Nat) (f : CounterPage → CounterPage) : (s.modPage n f).sails = s.sails := rfl
@[simp] theorem State.modPage_sailRegs (n : Nat) (f : CounterPage → CounterPage) : (s.modPage n f).sailRegs = s.sailRegs := rfl
@[simp] theorem State.modPage_walker (n : Nat) (f : CounterPage → CounterPage) : (s.modPage n f).walker = s.walker := rfl
@[simp] theorem State.modPage_pages (n : Nat) (f : CounterPage → CounterPage) : (s.modPage n f).pages = s.pages := rfl
@[simp] theorem State.modPage_fabric (n : Nat) (f : CounterPage → CounterPage) : (s.modPage n f).fabric = s.fabric := rfl
@[simp] theorem State.modPage_knit (n : Nat) (f : CounterPage → CounterPage) : (s.modPage n f).knit = s.knit := rfl
@[simp] theorem State.modPage_modules (n : Nat) (f : CounterPage → CounterPage) : (s.modPage n f).modules = s.modules := rfl
@[simp] theorem State.modPage_chain (n : Nat) (f : CounterPage → CounterPage) : (s.modPage n f).chain = s.chain := rfl
@[simp] theorem State.modPage_board (n : Nat) (f : CounterPage → CounterPage) : (s.modPage n f).board = s.board := rfl
@[simp] theorem State.modPage_security (n : Nat) (f : CounterPage → CounterPage) : (s.modPage n f).security = s.security := rfl
@[simp] theorem State.modPage_ddrBytes (n : Nat) (f : CounterPage → CounterPage) : (s.modPage n f).ddrBytes = s.ddrBytes := rfl
@[simp] theorem State.modPage_nativeStart (n : Nat) (f : CounterPage → CounterPage) : (s.modPage n f).nativeStart = s.nativeStart := rfl

/-! ### `send` changes the field `fabric` -/

@[simp] theorem State.send_agenda (chan src dst : Nat) (b : Body) : (s.send chan src dst b).agenda = s.agenda := rfl
@[simp] theorem State.send_cur (chan src dst : Nat) (b : Body) : (s.send chan src dst b).cur = s.cur := rfl
@[simp] theorem State.send_fresh (chan src dst : Nat) (b : Body) : (s.send chan src dst b).fresh = s.fresh := rfl
@[simp] theorem State.send_nextId (chan src dst : Nat) (b : Body) : (s.send chan src dst b).nextId = s.nextId := rfl
@[simp] theorem State.send_turn (chan src dst : Nat) (b : Body) : (s.send chan src dst b).turn = s.turn := rfl
@[simp] theorem State.send_late (chan src dst : Nat) (b : Body) : (s.send chan src dst b).late = s.late := rfl
@[simp] theorem State.send_ticks (chan src dst : Nat) (b : Body) : (s.send chan src dst b).ticks = s.ticks := rfl
@[simp] theorem State.send_mem (chan src dst : Nat) (b : Body) : (s.send chan src dst b).mem = s.mem := rfl
@[simp] theorem State.send_poison (chan src dst : Nat) (b : Body) : (s.send chan src dst b).poison = s.poison := rfl
@[simp] theorem State.send_written (chan src dst : Nat) (b : Body) : (s.send chan src dst b).written = s.written := rfl
@[simp] theorem State.send_cores (chan src dst : Nat) (b : Body) : (s.send chan src dst b).cores = s.cores := rfl
@[simp] theorem State.send_dies (chan src dst : Nat) (b : Body) : (s.send chan src dst b).dies = s.dies := rfl
@[simp] theorem State.send_flights (chan src dst : Nat) (b : Body) : (s.send chan src dst b).flights = s.flights := rfl
@[simp] theorem State.send_onward (chan src dst : Nat) (b : Body) : (s.send chan src dst b).onward = s.onward := rfl
@[simp] theorem State.send_results (chan src dst : Nat) (b : Body) : (s.send chan src dst b).results = s.results := rfl
@[simp] theorem State.send_sails (chan src dst : Nat) (b : Body) : (s.send chan src dst b).sails = s.sails := rfl
@[simp] theorem State.send_sailRegs (chan src dst : Nat) (b : Body) : (s.send chan src dst b).sailRegs = s.sailRegs := rfl
@[simp] theorem State.send_walker (chan src dst : Nat) (b : Body) : (s.send chan src dst b).walker = s.walker := rfl
@[simp] theorem State.send_pages (chan src dst : Nat) (b : Body) : (s.send chan src dst b).pages = s.pages := rfl
@[simp] theorem State.send_knit (chan src dst : Nat) (b : Body) : (s.send chan src dst b).knit = s.knit := rfl
@[simp] theorem State.send_modules (chan src dst : Nat) (b : Body) : (s.send chan src dst b).modules = s.modules := rfl
@[simp] theorem State.send_chain (chan src dst : Nat) (b : Body) : (s.send chan src dst b).chain = s.chain := rfl
@[simp] theorem State.send_trace (chan src dst : Nat) (b : Body) : (s.send chan src dst b).trace = s.trace := rfl
@[simp] theorem State.send_board (chan src dst : Nat) (b : Body) : (s.send chan src dst b).board = s.board := rfl
@[simp] theorem State.send_security (chan src dst : Nat) (b : Body) : (s.send chan src dst b).security = s.security := rfl
@[simp] theorem State.send_ddrBytes (chan src dst : Nat) (b : Body) : (s.send chan src dst b).ddrBytes = s.ddrBytes := rfl
@[simp] theorem State.send_nativeStart (chan src dst : Nat) (b : Body) : (s.send chan src dst b).nativeStart = s.nativeStart := rfl

/-! ### `takeHead` changes the field `fabric` -/

@[simp] theorem State.takeHead_agenda (chan src dst : Nat) : (s.takeHead chan src dst).agenda = s.agenda := rfl
@[simp] theorem State.takeHead_cur (chan src dst : Nat) : (s.takeHead chan src dst).cur = s.cur := rfl
@[simp] theorem State.takeHead_fresh (chan src dst : Nat) : (s.takeHead chan src dst).fresh = s.fresh := rfl
@[simp] theorem State.takeHead_nextId (chan src dst : Nat) : (s.takeHead chan src dst).nextId = s.nextId := rfl
@[simp] theorem State.takeHead_turn (chan src dst : Nat) : (s.takeHead chan src dst).turn = s.turn := rfl
@[simp] theorem State.takeHead_late (chan src dst : Nat) : (s.takeHead chan src dst).late = s.late := rfl
@[simp] theorem State.takeHead_ticks (chan src dst : Nat) : (s.takeHead chan src dst).ticks = s.ticks := rfl
@[simp] theorem State.takeHead_mem (chan src dst : Nat) : (s.takeHead chan src dst).mem = s.mem := rfl
@[simp] theorem State.takeHead_poison (chan src dst : Nat) : (s.takeHead chan src dst).poison = s.poison := rfl
@[simp] theorem State.takeHead_written (chan src dst : Nat) : (s.takeHead chan src dst).written = s.written := rfl
@[simp] theorem State.takeHead_cores (chan src dst : Nat) : (s.takeHead chan src dst).cores = s.cores := rfl
@[simp] theorem State.takeHead_dies (chan src dst : Nat) : (s.takeHead chan src dst).dies = s.dies := rfl
@[simp] theorem State.takeHead_flights (chan src dst : Nat) : (s.takeHead chan src dst).flights = s.flights := rfl
@[simp] theorem State.takeHead_onward (chan src dst : Nat) : (s.takeHead chan src dst).onward = s.onward := rfl
@[simp] theorem State.takeHead_results (chan src dst : Nat) : (s.takeHead chan src dst).results = s.results := rfl
@[simp] theorem State.takeHead_sails (chan src dst : Nat) : (s.takeHead chan src dst).sails = s.sails := rfl
@[simp] theorem State.takeHead_sailRegs (chan src dst : Nat) : (s.takeHead chan src dst).sailRegs = s.sailRegs := rfl
@[simp] theorem State.takeHead_walker (chan src dst : Nat) : (s.takeHead chan src dst).walker = s.walker := rfl
@[simp] theorem State.takeHead_pages (chan src dst : Nat) : (s.takeHead chan src dst).pages = s.pages := rfl
@[simp] theorem State.takeHead_knit (chan src dst : Nat) : (s.takeHead chan src dst).knit = s.knit := rfl
@[simp] theorem State.takeHead_modules (chan src dst : Nat) : (s.takeHead chan src dst).modules = s.modules := rfl
@[simp] theorem State.takeHead_chain (chan src dst : Nat) : (s.takeHead chan src dst).chain = s.chain := rfl
@[simp] theorem State.takeHead_trace (chan src dst : Nat) : (s.takeHead chan src dst).trace = s.trace := rfl
@[simp] theorem State.takeHead_board (chan src dst : Nat) : (s.takeHead chan src dst).board = s.board := rfl
@[simp] theorem State.takeHead_security (chan src dst : Nat) : (s.takeHead chan src dst).security = s.security := rfl
@[simp] theorem State.takeHead_ddrBytes (chan src dst : Nat) : (s.takeHead chan src dst).ddrBytes = s.ddrBytes := rfl
@[simp] theorem State.takeHead_nativeStart (chan src dst : Nat) : (s.takeHead chan src dst).nativeStart = s.nativeStart := rfl

/-! ### `rawWrite` changes the field `mem` -/

@[simp] theorem State.rawWrite_agenda (a : Nat) (bs : List Byte) : (s.rawWrite a bs).agenda = s.agenda := rfl
@[simp] theorem State.rawWrite_cur (a : Nat) (bs : List Byte) : (s.rawWrite a bs).cur = s.cur := rfl
@[simp] theorem State.rawWrite_fresh (a : Nat) (bs : List Byte) : (s.rawWrite a bs).fresh = s.fresh := rfl
@[simp] theorem State.rawWrite_nextId (a : Nat) (bs : List Byte) : (s.rawWrite a bs).nextId = s.nextId := rfl
@[simp] theorem State.rawWrite_turn (a : Nat) (bs : List Byte) : (s.rawWrite a bs).turn = s.turn := rfl
@[simp] theorem State.rawWrite_late (a : Nat) (bs : List Byte) : (s.rawWrite a bs).late = s.late := rfl
@[simp] theorem State.rawWrite_ticks (a : Nat) (bs : List Byte) : (s.rawWrite a bs).ticks = s.ticks := rfl
@[simp] theorem State.rawWrite_poison (a : Nat) (bs : List Byte) : (s.rawWrite a bs).poison = s.poison := rfl
@[simp] theorem State.rawWrite_written (a : Nat) (bs : List Byte) : (s.rawWrite a bs).written = s.written := rfl
@[simp] theorem State.rawWrite_cores (a : Nat) (bs : List Byte) : (s.rawWrite a bs).cores = s.cores := rfl
@[simp] theorem State.rawWrite_dies (a : Nat) (bs : List Byte) : (s.rawWrite a bs).dies = s.dies := rfl
@[simp] theorem State.rawWrite_flights (a : Nat) (bs : List Byte) : (s.rawWrite a bs).flights = s.flights := rfl
@[simp] theorem State.rawWrite_onward (a : Nat) (bs : List Byte) : (s.rawWrite a bs).onward = s.onward := rfl
@[simp] theorem State.rawWrite_results (a : Nat) (bs : List Byte) : (s.rawWrite a bs).results = s.results := rfl
@[simp] theorem State.rawWrite_sails (a : Nat) (bs : List Byte) : (s.rawWrite a bs).sails = s.sails := rfl
@[simp] theorem State.rawWrite_sailRegs (a : Nat) (bs : List Byte) : (s.rawWrite a bs).sailRegs = s.sailRegs := rfl
@[simp] theorem State.rawWrite_walker (a : Nat) (bs : List Byte) : (s.rawWrite a bs).walker = s.walker := rfl
@[simp] theorem State.rawWrite_pages (a : Nat) (bs : List Byte) : (s.rawWrite a bs).pages = s.pages := rfl
@[simp] theorem State.rawWrite_fabric (a : Nat) (bs : List Byte) : (s.rawWrite a bs).fabric = s.fabric := rfl
@[simp] theorem State.rawWrite_knit (a : Nat) (bs : List Byte) : (s.rawWrite a bs).knit = s.knit := rfl
@[simp] theorem State.rawWrite_modules (a : Nat) (bs : List Byte) : (s.rawWrite a bs).modules = s.modules := rfl
@[simp] theorem State.rawWrite_chain (a : Nat) (bs : List Byte) : (s.rawWrite a bs).chain = s.chain := rfl
@[simp] theorem State.rawWrite_trace (a : Nat) (bs : List Byte) : (s.rawWrite a bs).trace = s.trace := rfl
@[simp] theorem State.rawWrite_board (a : Nat) (bs : List Byte) : (s.rawWrite a bs).board = s.board := rfl
@[simp] theorem State.rawWrite_security (a : Nat) (bs : List Byte) : (s.rawWrite a bs).security = s.security := rfl
@[simp] theorem State.rawWrite_ddrBytes (a : Nat) (bs : List Byte) : (s.rawWrite a bs).ddrBytes = s.ddrBytes := rfl
@[simp] theorem State.rawWrite_nativeStart (a : Nat) (bs : List Byte) : (s.rawWrite a bs).nativeStart = s.nativeStart := rfl

end Sys2Proof.Machine
end

