-- ==== Sys2Proof/Laws/Cores.lean ====
section
/-! SUPPORT. Cores, teams and streams: reading them after an update, at the same place and at others; and what a meaning does in
the current stream. -/
namespace Sys2Proof.Machine

/-! ### Lists with a key -/

theorem getElem?_setAt {α : Type} (xs : List α) (n k : Nat) (y : α) :
    (setAt xs n y)[k]? = if k = n then (xs[k]?).map fun _ => y else xs[k]? := by
  induction xs generalizing n k with
  | nil => simp [setAt]
  | cons x xs ih =>
    cases n with
    | zero => cases k <;> simp [setAt]
    | succ n => cases k with
      | zero => simp [setAt]
      | succ k => simp [setAt, ih]

theorem getElem?_modAt {α : Type} (xs : List α) (n k : Nat) (f : α → α) :
    (modAt xs n f)[k]? = if k = n then (xs[k]?).map f else xs[k]? := by
  induction xs generalizing n k with
  | nil => simp [modAt]
  | cons x xs ih =>
    cases n with
    | zero => cases k <;> simp [modAt]
    | succ n => cases k with
      | zero => simp [modAt]
      | succ k => simp [modAt, ih]

@[simp] theorem length_setAt {α : Type} (xs : List α) (n : Nat) (y : α) : (setAt xs n y).length = xs.length := by
  induction xs generalizing n with
  | nil => rfl
  | cons x xs ih => cases n <;> simp [setAt, ih]

@[simp] theorem length_modAt {α : Type} (xs : List α) (n : Nat) (f : α → α) : (modAt xs n f).length = xs.length := by
  induction xs generalizing n with
  | nil => rfl
  | cons x xs ih => cases n <;> simp [modAt, ih]

theorem setAt_setAt {α : Type} (xs : List α) (n : Nat) (y z : α) : setAt (setAt xs n y) n z = setAt xs n z := by
  induction xs generalizing n with
  | nil => rfl
  | cons x xs ih => cases n <;> simp [setAt, ih]

/-! ### Cores -/

theorem find_putCore_same (k : Core) (xs : List Core) : (putCore k xs).find? (fun x => x.at_ == k.at_) = some k := by
  induction xs with
  | nil => simp [putCore]
  | cons x xs ih =>
    simp only [putCore]
    split
    · simp
    · rename_i h
      split
      · simp
      · simp [h, ih]

theorem find_putCore_other {c : CoreRef} (k : Core) (xs : List Core) (h : c ≠ k.at_) :
    (putCore k xs).find? (fun x => x.at_ == c) = xs.find? fun x => x.at_ == c := by
  induction xs with
  | nil => simp [putCore, Ne.symm h]
  | cons x xs ih =>
    simp only [putCore]
    split
    · rename_i hx
      simp [hx, Ne.symm h]
    · split
      · simp [Ne.symm h]
      · simp only [List.find?_cons]
        split
        · rfl
        · exact ih

theorem putCore_putCore {k j : Core} (h : k.at_ = j.at_) (xs : List Core) : putCore k (putCore j xs) = putCore k xs := by
  induction xs with
  | nil => simp [putCore, h]
  | cons x xs ih =>
    simp only [putCore]
    split
    · rename_i hx
      simp [putCore, hx, h]
    · rename_i hx
      split
      · rename_i hb
        simp [putCore, hx, h, hb]
      · rename_i hb
        simp [putCore, hx, h, hb, ih]

/-- The core a reference names is at that place. -/
@[simp] theorem State.core_at (s : State) (c : CoreRef) : (s.core c).at_ = c := by
  simp only [State.core]
  cases h : s.cores.find? fun k => k.at_ == c with
  | none => rfl
  | some k => simpa using List.find?_some h

theorem State.core_setCore_same (s : State) (k : Core) : (s.setCore k).core k.at_ = k := by
  simp [State.core, State.setCore, find_putCore_same]

theorem State.core_setCore_other {s : State} {k : Core} {c : CoreRef} (h : c ≠ k.at_) : (s.setCore k).core c = s.core c := by
  simp [State.core, State.setCore, find_putCore_other k s.cores h]

theorem State.setCore_setCore {s : State} {k j : Core} (h : k.at_ = j.at_) : (s.setCore j).setCore k = s.setCore k := by
  simp [State.setCore, putCore_putCore h]

@[simp] theorem State.core_modCore_same (s : State) (c : CoreRef) (f : Core → Core) :
    (s.modCore c f).core c = { f (s.core c) with at_ := c } :=
  State.core_setCore_same s { f (s.core c) with at_ := c }

theorem State.core_modCore_other {s : State} {c d : CoreRef} (f : Core → Core) (h : d ≠ c) :
    (s.modCore c f).core d = s.core d :=
  State.core_setCore_other (k := { f (s.core c) with at_ := c }) h

/-! ### Teams -/

theorem State.modTeam_some {s : State} {c : CoreRef} {t : Team} (h : s.team? c = some t) (f : Team → Team) :
    s.modTeam c f = s.setCore { s.core c with team := some (f t) } := by
  simp [State.modTeam, h]

theorem State.modTeam_none {s : State} {c : CoreRef} (h : s.team? c = none) (f : Team → Team) : s.modTeam c f = s := by
  simp [State.modTeam, h]

theorem State.core_modTeam_same {s : State} {c : CoreRef} {t : Team} (h : s.team? c = some t) (f : Team → Team) :
    (s.modTeam c f).core c = { s.core c with team := some (f t) } := by
  rw [State.modTeam_some h]
  have e : (s.core c).at_ = c := State.core_at s c
  have h' := State.core_setCore_same s { s.core c with team := some (f t) }
  simpa only [e] using h'

theorem State.core_modTeam_other {s : State} {c d : CoreRef} (f : Team → Team) (h : d ≠ c) :
    (s.modTeam c f).core d = s.core d := by
  cases ht : s.team? c with
  | none => rw [State.modTeam_none ht]
  | some t =>
    rw [State.modTeam_some ht]
    refine State.core_setCore_other ?_
    simpa using h

@[simp] theorem State.team_modTeam_same (s : State) (c : CoreRef) (f : Team → Team) :
    (s.modTeam c f).team? c = (s.team? c).map f := by
  cases ht : s.team? c with
  | none => simp [State.modTeam_none ht, ht]
  | some t =>
    simp only [State.team?, Option.map_some]
    rw [State.core_modTeam_same ht]

theorem State.team_modTeam_other {s : State} {c d : CoreRef} (f : Team → Team) (h : d ≠ c) :
    (s.modTeam c f).team? d = s.team? d := by
  simp only [State.team?]
  rw [State.core_modTeam_other f h]

theorem State.modTeam_modTeam (s : State) (c : CoreRef) (f g : Team → Team) :
    (s.modTeam c f).modTeam c g = s.modTeam c fun t => g (f t) := by
  cases ht : s.team? c with
  | none => simp [State.modTeam_none ht]
  | some t =>
    have h' : (s.modTeam c f).team? c = some (f t) := by simp [ht]
    rw [State.modTeam_some h', State.core_modTeam_same ht, State.modTeam_some ht, State.modTeam_some ht]
    exact State.setCore_setCore rfl

/-- Only the cores change with a team. -/
theorem State.modTeam_eq (s : State) (c : CoreRef) (f : Team → Team) : s.modTeam c f = { s with cores := (s.modTeam c f).cores } := by
  cases ht : s.team? c with
  | none => rw [State.modTeam_none ht]
  | some t => rw [State.modTeam_some ht]; rfl

/-! ### Streams -/

theorem Team.stream_setStream_same {t : Team} {i : Nat} {st : Stream} (u : Stream) (hs : t.stream? i = some st) :
    (t.setStream i u).stream? i = some u := by
  simp only [Team.stream?, Team.setStream] at hs ⊢
  split at hs
  · rename_i hi; simp [hi]
  · rename_i hi
    simp [hi, getElem?_setAt, hs]

theorem Team.stream_setStream_other {t : Team} {i j : Nat} (u : Stream) (h : j ≠ i) :
    (t.setStream i u).stream? j = t.stream? j := by
  simp only [Team.stream?, Team.setStream]
  by_cases hi : i = 32 <;> by_cases hj : j = 32 <;> simp [hi, hj, getElem?_setAt, h]
  omega

@[simp] theorem Team.setStream_groups_length (t : Team) (i : Nat) (u : Stream) :
    (t.setStream i u).groups.length = t.groups.length := by
  simp only [Team.setStream]; split <;> simp

/-- Setting a stream changes the streams alone. -/
theorem Team.setStream_eq (t : Team) (i : Nat) (u : Stream) :
    t.setStream i u = { t with control := (t.setStream i u).control, groups := (t.setStream i u).groups } := by
  simp only [Team.setStream]; split <;> rfl

theorem State.modStream_some {s : State} {r : StreamRef} {t : Team} {st : Stream} (ht : s.team? (coreOf r) = some t)
    (hs : t.stream? r.idx = some st) (f : Stream → Stream) :
    s.modStream r f = s.setCore { s.core (coreOf r) with team := some (t.setStream r.idx (f st)) } := by
  simp only [State.modStream]
  rw [State.modTeam_some ht]
  simp [hs]

theorem State.team_modStream_same {s : State} {r : StreamRef} {t : Team} {st : Stream} (ht : s.team? (coreOf r) = some t)
    (hs : t.stream? r.idx = some st) (f : Stream → Stream) :
    (s.modStream r f).team? (coreOf r) = some (t.setStream r.idx (f st)) := by
  simp [State.modStream, ht, hs]

theorem State.team_modStream_other {s : State} {r : StreamRef} {c : CoreRef} (f : Stream → Stream) (h : c ≠ coreOf r) :
    (s.modStream r f).team? c = s.team? c :=
  State.team_modTeam_other _ h

theorem State.core_modStream_other {s : State} {r : StreamRef} {c : CoreRef} (f : Stream → Stream) (h : c ≠ coreOf r) :
    (s.modStream r f).core c = s.core c :=
  State.core_modTeam_other _ h

/-- Only the cores change with a stream. -/
theorem State.modStream_eq (s : State) (r : StreamRef) (f : Stream → Stream) :
    s.modStream r f = { s with cores := (s.modStream r f).cores } :=
  State.modTeam_eq s _ _

theorem State.modStream_modStream (s : State) (r : StreamRef) (f g : Stream → Stream) :
    (s.modStream r f).modStream r g = s.modStream r fun st => g (f st) := by
  simp only [State.modStream]
  rw [State.modTeam_modTeam]
  congr 1
  funext t
  cases h : t.stream? r.idx with
  | none => simp [h]
  | some st =>
    rw [Team.stream_setStream_same (f st) h]
    simp only [Team.setStream]
    split <;> simp [setAt_setAt]

/-! ### Memory and the rest are apart from the cores -/

theorem State.modCore_memInv {s : State} (c : CoreRef) (f : Core → Core) (h : s.MemInv) : (s.modCore c f).MemInv := h

theorem State.modTeam_memInv {s : State} (c : CoreRef) (f : Team → Team) (h : s.MemInv) : (s.modTeam c f).MemInv :=
  State.MemInv.of_mem_eq h (by simp)

theorem State.modStream_memInv {s : State} (r : StreamRef) (f : Stream → Stream) (h : s.MemInv) : (s.modStream r f).MemInv :=
  State.modTeam_memInv _ _ h

/-! ### The current stream -/

/-- A meaning runs in the stream that is current. -/
theorem withCx_runs {s : State} {r : StreamRef} {t : Team} {st : Stream} (hc : s.cur = some r)
    (ht : s.team? (coreOf r) = some t) (hs : t.stream? r.idx = some st) (f : Cx → Out) : withCx s f = f ⟨s, r, t, st⟩ := by
  simp [withCx, hc, ht, hs]

/-- Without an exception whose trap is enabled, a lane-wise instruction writes what its lanes give. -/
theorem lanewise_runs {s : State} {r : StreamRef} {t : Team} {st : Stream} (opc : Nat) (i : Ins) (tys : List Nat)
    (f : Cx → Nat → LaneOut) (hc : s.cur = some r) (ht : s.team? (coreOf r) = some t) (hs : t.stream? r.idx = some st)
    (hn : (Cx.mk s r t st).trapping ((Cx.mk s r t st).outs i f) = []) :
    lanewise opc i s tys f = .next (s.modStream r
      ((Cx.mk s r t st).written opc i tys ((Cx.mk s r t st).lanes i) ((Cx.mk s r t st).outs i f))) := by
  rw [lanewise, withCx_runs hc ht hs]
  simp only [Cx.finish]
  rw [if_pos hn]
  rfl

/-- With one, it traps. -/
theorem lanewise_traps {s : State} {r : StreamRef} {t : Team} {st : Stream} (opc : Nat) (i : Ins) (tys : List Nat)
    (f : Cx → Nat → LaneOut) (hc : s.cur = some r) (ht : s.team? (coreOf r) = some t) (hs : t.stream? r.idx = some st)
    (hn : (Cx.mk s r t st).trapping ((Cx.mk s r t st).outs i f) ≠ []) :
    lanewise opc i s tys f = .next (s.takeTrap r { st.trapAt r.idx 0x1C with
      lanes := maskOfList (((Cx.mk s r t st).trapping ((Cx.mk s r t st).outs i f)).map Prod.fst)
      value := (allFlags ((Cx.mk s r t st).outs i f)).toNat }) := by
  rw [lanewise, withCx_runs hc ht hs]
  simp only [Cx.finish]
  rw [if_neg hn]

/-- Lanes that raise nothing trap nothing. -/
theorem Cx.trapping_nil (c : Cx) (outs : List (Nat × LaneOut)) (h : ∀ o ∈ outs, o.2.flags = 0) : c.trapping outs = [] := by
  simp only [Cx.trapping, List.filter_eq_nil_iff]
  intro o ho
  simp [h o ho]

/-- A lane-wise instruction that raises no exception gives a next state always. -/
theorem lanewise_plain {s : State} {r : StreamRef} {t : Team} {st : Stream} (opc : Nat) (i : Ins) (tys : List Nat)
    (f : Cx → Nat → List Nat) (hc : s.cur = some r) (ht : s.team? (coreOf r) = some t) (hs : t.stream? r.idx = some st) :
    lanewise opc i s tys (fun c l => { vals := f c l }) = .next (s.modStream r ((Cx.mk s r t st).written opc i tys
      ((Cx.mk s r t st).lanes i) ((Cx.mk s r t st).outs i fun c l => { vals := f c l }))) := by
  refine lanewise_runs opc i tys _ hc ht hs (Cx.trapping_nil _ _ ?_)
  intro o ho
  simp only [Cx.outs, List.mem_map] at ho
  obtain ⟨l, -, rfl⟩ := ho
  rfl

/-! ### Lanes and masks -/

theorem mem_lanesOf {m : BitVec 32} {l : Nat} : l ∈ lanesOf m ↔ l < 32 ∧ m.getLsbD l = true := by
  simp [lanesOf]

/-- What has not been written keeps its value, and a written lane has the new one. -/
theorem lookup_putLoc_same (l : Loc) (v : TVal) (xs : List (Loc × TVal)) : lookupLoc l (putLoc l v xs) = some v := by
  induction xs with
  | nil => simp [putLoc, lookupLoc]
  | cons x xs ih =>
    simp only [putLoc]
    split
    · simp [lookupLoc]
    · rename_i h
      simpa [lookupLoc, h] using ih

theorem lookup_putLoc_other {l k : Loc} (v : TVal) (xs : List (Loc × TVal)) (h : k ≠ l) :
    lookupLoc k (putLoc l v xs) = lookupLoc k xs := by
  induction xs with
  | nil => simp [putLoc, lookupLoc, Ne.symm h]
  | cons x xs ih =>
    simp only [putLoc]
    split
    · rename_i hx
      simp [lookupLoc, hx, Ne.symm h]
    · simp only [lookupLoc, List.find?_cons] at ih ⊢
      split
      · rfl
      · exact ih

theorem Stream.get_put_other {st : Stream} {l k : Loc} (m : BitVec 32) (v : TVal) (h : k ≠ l) :
    (st.put l m v).get k = st.get k := by
  simp only [Stream.get, Stream.put]
  rw [lookup_putLoc_other _ _ h]

theorem Stream.get_put_same (st : Stream) (l : Loc) (m : BitVec 32) (v : TVal) :
    ((st.put l m v).get l).ty = v.ty ∧ ∀ k, k < 32 → ((st.put l m v).get l).lane k =
      if m.getLsbD k then v.lane k else (st.get l).lane k := by
  simp only [Stream.get, Stream.put]
  rw [lookup_putLoc_same]
  refine ⟨rfl, fun k _ => ?_⟩
  simp only [TVal.lane, Option.getD_some, List.getElem?_map]
  by_cases hk : k < Nat.max v.lanes.length ((lookupLoc l st.file).getD ⟨tI32, []⟩).lanes.length
  · rw [List.getElem?_range hk]
    simp only [Option.map_some, Option.getD_some]
    split <;> rfl
  · have h1 : v.lanes.length ≤ k := by simp only [Nat.max_def] at hk; split at hk <;> omega
    have h2 : ((lookupLoc l st.file).getD ⟨tI32, []⟩).lanes.length ≤ k := by
      simp only [Nat.max_def] at hk; split at hk <;> omega
    rw [List.getElem?_eq_none (by simpa using hk), List.getElem?_eq_none h1, List.getElem?_eq_none h2]
    split <;> rfl

/-! ### Records -/

/-- The checks of a record's pieces (R284, R319, R129). -/
def Cx.recordTried (c : Cx) (glob : Bool) (size align p : Nat) : Tried :=
  c.tryLanes (List.range (size / 32)) (fun k => p + 32 * k) fun s a k =>
    let n := if k = 0 then align else 1
    if glob then s.checkGlobal c.core c.t.asid { read := true } n a k else (c.checkLocal 32 n a k, s)

/-- What a record's pieces hold, read in order, with the state after it. -/
def Cx.recordRead (c : Cx) (glob : Bool) (tried : Tried) : State × List Byte :=
  tried.lanes.foldl (fun (acc : State × List Byte) l =>
    let a : Acc := { id := tried.s.nextId, ref := c.r, asid := c.t.asid, kind := .load, pos := ⟨0, 0⟩ }
    let q := if glob then
        let r := laneRoute acc.1 a l
        let q := acc.1.homeRead r l.pa 32
        (q.1, q.1.newest r 3 l.pa q.2)
      else (acc.1, acc.1.bytesAt l.pa 32)
    (q.1, acc.2 ++ q.1.forward a { l with lane := c.lead } q.2)) (tried.s, [])

/-- The cycles that the reading of a record's pieces takes (Table 15.7). -/
def Cx.recordTime (c : Cx) (glob : Bool) (tried : Tried) : Nat :=
  let a : Acc := { id := tried.s.nextId, ref := c.r, asid := c.t.asid, kind := .load, pos := ⟨0, 0⟩ }
  (tried.lanes.map fun l => tried.s.readLatency { a with isLocal := !glob, scope := 3, acq := true } l).foldl Nat.max 0 + 8

/-- A record all of whose pieces pass their checks, none of whose bytes is on its way or poisoned, is read, and its instruction
goes on. -/
theorem Cx.readRecord_reads {c : Cx} {glob : Bool} {size align p : Nat} (hb : (c.recordTried glob size align p).bad = [])
    (hm : (c.recordTried glob size align p).missed = [])
    (hr : ((c.recordTried glob size align p).lanes.any fun l =>
      l.stage == .refused || (glob && (c.recordTried glob size align p).s.returning l.pa)) = false)
    (hp : ((c.recordTried glob size align p).lanes.any fun l => (c.recordTried glob size align p).s.anyPoison l.pa 32) = false) :
    ∃ s' bytes, ∀ go, c.readRecord glob size align p go = go s' bytes := by
  refine ⟨(c.recordRead glob (c.recordTried glob size align p)).1.modStream c.r fun st =>
      { st with recordCycles := c.recordTime glob (c.recordTried glob size align p) }, (c.recordRead glob (c.recordTried glob size align p)).2,
    fun go => ?_⟩
  unfold Cx.recordRead Cx.recordTime
  unfold Cx.recordTried at *
  simp only [Cx.readRecord, hb, hm, hr, hp, missFirst, TrapRecord.forLanes, List.filter_nil, bne_self_eq_false, Bool.false_and,
    Bool.false_eq_true, if_false]

end Sys2Proof.Machine
end

