-- ==== Sys2Proof/Laws/Run.lean ====
section
/-! SUPPORT. A stream runs the meaning that `exec` gives the decoded instruction: `runFields`, which the step uses, agrees with
`exec` on every instruction that `mkInstr` makes. -/
namespace Sys2Proof.Machine

set_option maxRecDepth 100000 in
/-- No instruction has an opcode above a byte. -/
theorem mkInstr_above {opc : Nat} {i : Ins} (h : 256 ≤ opc) : mkInstr opc i = none := by
  obtain ⟨n, rfl⟩ : ∃ n, opc = n + 256 := ⟨opc - 256, by omega⟩
  rfl

variable {opc : Nat} {i : Ins} {x : Instr} (s : State)

/-- What the next lemmas say of sixteen opcodes at a time. -/
abbrev RunsAs (opc : Nat) (i : Ins) (s : State) : Prop :=
  ∀ x, mkInstr opc i = some x → runFields opc i s = some (exec x s) ∧ x.fields? = some (opc, i)

theorem runsAs_0 (h : opc / 16 = 0) : RunsAs opc i s := by
  intro x hx
  have hc : opc = 0 ∨ opc = 1 ∨ opc = 2 ∨ opc = 3 ∨ opc = 4 ∨ opc = 5 ∨ opc = 6 ∨ opc = 7 ∨
      opc = 8 ∨ opc = 9 ∨ opc = 10 ∨ opc = 11 ∨ opc = 12 ∨ opc = 13 ∨ opc = 14 ∨ opc = 15 := by omega
  rcases hc with rfl | rfl | rfl | rfl | rfl | rfl | rfl | rfl | rfl | rfl | rfl | rfl | rfl | rfl | rfl | rfl
  all_goals (cases hx; exact ⟨rfl, rfl⟩)

theorem runsAs_1 (h : opc / 16 = 1) : RunsAs opc i s := by
  intro x hx
  have hc : opc = 16 ∨ opc = 17 ∨ opc = 18 ∨ opc = 19 ∨ opc = 20 ∨ opc = 21 ∨ opc = 22 ∨ opc = 23 ∨
      opc = 24 ∨ opc = 25 ∨ opc = 26 ∨ opc = 27 ∨ opc = 28 ∨ opc = 29 ∨ opc = 30 ∨ opc = 31 := by omega
  rcases hc with rfl | rfl | rfl | rfl | rfl | rfl | rfl | rfl | rfl | rfl | rfl | rfl | rfl | rfl | rfl | rfl
  all_goals (cases hx; exact ⟨rfl, rfl⟩)

theorem runsAs_2 (h : opc / 16 = 2) : RunsAs opc i s := by
  intro x hx
  have hc : opc = 32 ∨ opc = 33 ∨ opc = 34 ∨ opc = 35 ∨ opc = 36 ∨ opc = 37 ∨ opc = 38 ∨ opc = 39 ∨
      opc = 40 ∨ opc = 41 ∨ opc = 42 ∨ opc = 43 ∨ opc = 44 ∨ opc = 45 ∨ opc = 46 ∨ opc = 47 := by omega
  rcases hc with rfl | rfl | rfl | rfl | rfl | rfl | rfl | rfl | rfl | rfl | rfl | rfl | rfl | rfl | rfl | rfl
  all_goals (cases hx; exact ⟨rfl, rfl⟩)

theorem runsAs_3 (h : opc / 16 = 3) : RunsAs opc i s := by
  intro x hx
  have hc : opc = 48 ∨ opc = 49 ∨ opc = 50 ∨ opc = 51 ∨ opc = 52 ∨ opc = 53 ∨ opc = 54 ∨ opc = 55 ∨
      opc = 56 ∨ opc = 57 ∨ opc = 58 ∨ opc = 59 ∨ opc = 60 ∨ opc = 61 ∨ opc = 62 ∨ opc = 63 := by omega
  rcases hc with rfl | rfl | rfl | rfl | rfl | rfl | rfl | rfl | rfl | rfl | rfl | rfl | rfl | rfl | rfl | rfl
  all_goals (cases hx; exact ⟨rfl, rfl⟩)

theorem runsAs_4 (h : opc / 16 = 4) : RunsAs opc i s := by
  intro x hx
  have hc : opc = 64 ∨ opc = 65 ∨ opc = 66 ∨ opc = 67 ∨ opc = 68 ∨ opc = 69 ∨ opc = 70 ∨ opc = 71 ∨
      opc = 72 ∨ opc = 73 ∨ opc = 74 ∨ opc = 75 ∨ opc = 76 ∨ opc = 77 ∨ opc = 78 ∨ opc = 79 := by omega
  rcases hc with rfl | rfl | rfl | rfl | rfl | rfl | rfl | rfl | rfl | rfl | rfl | rfl | rfl | rfl | rfl | rfl
  all_goals (cases hx; exact ⟨rfl, rfl⟩)

theorem runsAs_5 (h : opc / 16 = 5) : RunsAs opc i s := by
  intro x hx
  have hc : opc = 80 ∨ opc = 81 ∨ opc = 82 ∨ opc = 83 ∨ opc = 84 ∨ opc = 85 ∨ opc = 86 ∨ opc = 87 ∨
      opc = 88 ∨ opc = 89 ∨ opc = 90 ∨ opc = 91 ∨ opc = 92 ∨ opc = 93 ∨ opc = 94 ∨ opc = 95 := by omega
  rcases hc with rfl | rfl | rfl | rfl | rfl | rfl | rfl | rfl | rfl | rfl | rfl | rfl | rfl | rfl | rfl | rfl
  all_goals (cases hx; exact ⟨rfl, rfl⟩)

theorem runsAs_6 (h : opc / 16 = 6) : RunsAs opc i s := by
  intro x hx
  have hc : opc = 96 ∨ opc = 97 ∨ opc = 98 ∨ opc = 99 ∨ opc = 100 ∨ opc = 101 ∨ opc = 102 ∨ opc = 103 ∨
      opc = 104 ∨ opc = 105 ∨ opc = 106 ∨ opc = 107 ∨ opc = 108 ∨ opc = 109 ∨ opc = 110 ∨ opc = 111 := by omega
  rcases hc with rfl | rfl | rfl | rfl | rfl | rfl | rfl | rfl | rfl | rfl | rfl | rfl | rfl | rfl | rfl | rfl
  all_goals (cases hx; exact ⟨rfl, rfl⟩)

theorem runsAs_7 (h : opc / 16 = 7) : RunsAs opc i s := by
  intro x hx
  have hc : opc = 112 ∨ opc = 113 ∨ opc = 114 ∨ opc = 115 ∨ opc = 116 ∨ opc = 117 ∨ opc = 118 ∨ opc = 119 ∨
      opc = 120 ∨ opc = 121 ∨ opc = 122 ∨ opc = 123 ∨ opc = 124 ∨ opc = 125 ∨ opc = 126 ∨ opc = 127 := by omega
  rcases hc with rfl | rfl | rfl | rfl | rfl | rfl | rfl | rfl | rfl | rfl | rfl | rfl | rfl | rfl | rfl | rfl
  all_goals (cases hx; exact ⟨rfl, rfl⟩)

theorem runsAs_8 (h : opc / 16 = 8) : RunsAs opc i s := by
  intro x hx
  have hc : opc = 128 ∨ opc = 129 ∨ opc = 130 ∨ opc = 131 ∨ opc = 132 ∨ opc = 133 ∨ opc = 134 ∨ opc = 135 ∨
      opc = 136 ∨ opc = 137 ∨ opc = 138 ∨ opc = 139 ∨ opc = 140 ∨ opc = 141 ∨ opc = 142 ∨ opc = 143 := by omega
  rcases hc with rfl | rfl | rfl | rfl | rfl | rfl | rfl | rfl | rfl | rfl | rfl | rfl | rfl | rfl | rfl | rfl
  all_goals (cases hx; exact ⟨rfl, rfl⟩)

theorem runsAs_9 (h : opc / 16 = 9) : RunsAs opc i s := by
  intro x hx
  have hc : opc = 144 ∨ opc = 145 ∨ opc = 146 ∨ opc = 147 ∨ opc = 148 ∨ opc = 149 ∨ opc = 150 ∨ opc = 151 ∨
      opc = 152 ∨ opc = 153 ∨ opc = 154 ∨ opc = 155 ∨ opc = 156 ∨ opc = 157 ∨ opc = 158 ∨ opc = 159 := by omega
  rcases hc with rfl | rfl | rfl | rfl | rfl | rfl | rfl | rfl | rfl | rfl | rfl | rfl | rfl | rfl | rfl | rfl
  · cases hx; exact ⟨rfl, rfl⟩
  · cases hx; exact ⟨rfl, rfl⟩
  · cases hx; exact ⟨rfl, rfl⟩
  · cases hx; exact ⟨rfl, rfl⟩
  · have e : mkInstr 148 i = if rowOf 148 i = 0 then some (.tagClr i) else some (.tagClrAll i) := rfl
    have q : runFields 148 i s = if rowOf 148 i = 0 then some (Sys2Proof.Machine.execTagClr i s) else some (Sys2Proof.Machine.execTagClrAll i s) := rfl
    rw [e] at hx
    rw [q]
    split at hx
    · rename_i hr
      cases hx
      rw [if_pos hr]
      exact ⟨rfl, rfl⟩
    · rename_i hr
      cases hx
      rw [if_neg hr]
      exact ⟨rfl, rfl⟩
  · cases hx; exact ⟨rfl, rfl⟩
  · cases hx; exact ⟨rfl, rfl⟩
  · cases hx; exact ⟨rfl, rfl⟩
  · cases hx; exact ⟨rfl, rfl⟩
  · cases hx; exact ⟨rfl, rfl⟩
  · cases hx; exact ⟨rfl, rfl⟩
  · cases hx; exact ⟨rfl, rfl⟩
  · cases hx; exact ⟨rfl, rfl⟩
  · cases hx; exact ⟨rfl, rfl⟩
  · cases hx; exact ⟨rfl, rfl⟩
  · cases hx; exact ⟨rfl, rfl⟩

theorem runsAs_A (h : opc / 16 = 10) : RunsAs opc i s := by
  intro x hx
  have hc : opc = 160 ∨ opc = 161 ∨ opc = 162 ∨ opc = 163 ∨ opc = 164 ∨ opc = 165 ∨ opc = 166 ∨ opc = 167 ∨
      opc = 168 ∨ opc = 169 ∨ opc = 170 ∨ opc = 171 ∨ opc = 172 ∨ opc = 173 ∨ opc = 174 ∨ opc = 175 := by omega
  rcases hc with rfl | rfl | rfl | rfl | rfl | rfl | rfl | rfl | rfl | rfl | rfl | rfl | rfl | rfl | rfl | rfl
  · cases hx; exact ⟨rfl, rfl⟩
  · cases hx; exact ⟨rfl, rfl⟩
  · cases hx; exact ⟨rfl, rfl⟩
  · cases hx; exact ⟨rfl, rfl⟩
  · cases hx; exact ⟨rfl, rfl⟩
  · cases hx; exact ⟨rfl, rfl⟩
  · have e : mkInstr 166 i = if rowOf 166 i = 0 then some (.redAnd i) else if rowOf 166 i = 1 then some (.redOr i) else some (.redXor i) := rfl
    have q : runFields 166 i s = if rowOf 166 i = 0 then some (Sys2Proof.Machine.execRedAnd i s) else if rowOf 166 i = 1 then some (Sys2Proof.Machine.execRedOr i s) else some (Sys2Proof.Machine.execRedXor i s) := rfl
    rw [e] at hx
    rw [q]
    split at hx
    · rename_i hr
      cases hx
      rw [if_pos hr]
      exact ⟨rfl, rfl⟩
    · rename_i hr
      rw [if_neg hr]
      split at hx
      · rename_i hq
        cases hx
        rw [if_pos hq]
        exact ⟨rfl, rfl⟩
      · rename_i hq
        cases hx
        rw [if_neg hq]
        exact ⟨rfl, rfl⟩
  · have e : mkInstr 167 i = if rowOf 167 i = 0 then some (.redMin i) else some (.redMax i) := rfl
    have q : runFields 167 i s = if rowOf 167 i = 0 then some (Sys2Proof.Machine.execRedMin i s) else some (Sys2Proof.Machine.execRedMax i s) := rfl
    rw [e] at hx
    rw [q]
    split at hx
    · rename_i hr
      cases hx
      rw [if_pos hr]
      exact ⟨rfl, rfl⟩
    · rename_i hr
      cases hx
      rw [if_neg hr]
      exact ⟨rfl, rfl⟩
  · have e : mkInstr 168 i = if rowOf 168 i = 0 then some (.ballot i) else if rowOf 168 i = 1 then some (.ballotAt i) else some (.ballotCol i) := rfl
    have q : runFields 168 i s = if rowOf 168 i = 0 then some (Sys2Proof.Machine.execBallot i s) else if rowOf 168 i = 1 then some (Sys2Proof.Machine.execBallotAt i s) else some (Sys2Proof.Machine.execBallotCol i s) := rfl
    rw [e] at hx
    rw [q]
    split at hx
    · rename_i hr
      cases hx
      rw [if_pos hr]
      exact ⟨rfl, rfl⟩
    · rename_i hr
      rw [if_neg hr]
      split at hx
      · rename_i hq
        cases hx
        rw [if_pos hq]
        exact ⟨rfl, rfl⟩
      · rename_i hq
        cases hx
        rw [if_neg hq]
        exact ⟨rfl, rfl⟩
  · cases hx; exact ⟨rfl, rfl⟩
  · cases hx; exact ⟨rfl, rfl⟩
  · cases hx; exact ⟨rfl, rfl⟩
  · cases hx; exact ⟨rfl, rfl⟩
  · cases hx; exact ⟨rfl, rfl⟩
  · cases hx; exact ⟨rfl, rfl⟩
  · cases hx; exact ⟨rfl, rfl⟩

theorem runsAs_B (h : opc / 16 = 11) : RunsAs opc i s := by
  intro x hx
  have hc : opc = 176 ∨ opc = 177 ∨ opc = 178 ∨ opc = 179 ∨ opc = 180 ∨ opc = 181 ∨ opc = 182 ∨ opc = 183 ∨
      opc = 184 ∨ opc = 185 ∨ opc = 186 ∨ opc = 187 ∨ opc = 188 ∨ opc = 189 ∨ opc = 190 ∨ opc = 191 := by omega
  rcases hc with rfl | rfl | rfl | rfl | rfl | rfl | rfl | rfl | rfl | rfl | rfl | rfl | rfl | rfl | rfl | rfl
  all_goals (cases hx; exact ⟨rfl, rfl⟩)

theorem runsAs_C (h : opc / 16 = 12) : RunsAs opc i s := by
  intro x hx
  have hc : opc = 192 ∨ opc = 193 ∨ opc = 194 ∨ opc = 195 ∨ opc = 196 ∨ opc = 197 ∨ opc = 198 ∨ opc = 199 ∨
      opc = 200 ∨ opc = 201 ∨ opc = 202 ∨ opc = 203 ∨ opc = 204 ∨ opc = 205 ∨ opc = 206 ∨ opc = 207 := by omega
  rcases hc with rfl | rfl | rfl | rfl | rfl | rfl | rfl | rfl | rfl | rfl | rfl | rfl | rfl | rfl | rfl | rfl
  · cases hx; exact ⟨rfl, rfl⟩
  · cases hx; exact ⟨rfl, rfl⟩
  · cases hx; exact ⟨rfl, rfl⟩
  · cases hx; exact ⟨rfl, rfl⟩
  · cases hx; exact ⟨rfl, rfl⟩
  · cases hx; exact ⟨rfl, rfl⟩
  · cases hx; exact ⟨rfl, rfl⟩
  · cases hx; exact ⟨rfl, rfl⟩
  · cases hx; exact ⟨rfl, rfl⟩
  · cases hx; exact ⟨rfl, rfl⟩
  · cases hx; exact ⟨rfl, rfl⟩
  · cases hx; exact ⟨rfl, rfl⟩
  · have e : mkInstr 204 i = if rowOf 204 i = 0 then some (.trap i) else some (.trapValue i) := rfl
    have q : runFields 204 i s = if rowOf 204 i = 0 then some (Sys2Proof.Machine.execTrap i s) else some (Sys2Proof.Machine.execTrapValue i s) := rfl
    rw [e] at hx
    rw [q]
    split at hx
    · rename_i hr
      cases hx
      rw [if_pos hr]
      exact ⟨rfl, rfl⟩
    · rename_i hr
      cases hx
      rw [if_neg hr]
      exact ⟨rfl, rfl⟩
  · cases hx; exact ⟨rfl, rfl⟩
  · cases hx; exact ⟨rfl, rfl⟩
  · cases hx; exact ⟨rfl, rfl⟩

theorem runsAs_D (h : opc / 16 = 13) : RunsAs opc i s := by
  intro x hx
  have hc : opc = 208 ∨ opc = 209 ∨ opc = 210 ∨ opc = 211 ∨ opc = 212 ∨ opc = 213 ∨ opc = 214 ∨ opc = 215 ∨
      opc = 216 ∨ opc = 217 ∨ opc = 218 ∨ opc = 219 ∨ opc = 220 ∨ opc = 221 ∨ opc = 222 ∨ opc = 223 := by omega
  rcases hc with rfl | rfl | rfl | rfl | rfl | rfl | rfl | rfl | rfl | rfl | rfl | rfl | rfl | rfl | rfl | rfl
  all_goals (cases hx; exact ⟨rfl, rfl⟩)

theorem runsAs_E (h : opc / 16 = 14) : RunsAs opc i s := by
  intro x hx
  have hc : opc = 224 ∨ opc = 225 ∨ opc = 226 ∨ opc = 227 ∨ opc = 228 ∨ opc = 229 ∨ opc = 230 ∨ opc = 231 ∨
      opc = 232 ∨ opc = 233 ∨ opc = 234 ∨ opc = 235 ∨ opc = 236 ∨ opc = 237 ∨ opc = 238 ∨ opc = 239 := by omega
  rcases hc with rfl | rfl | rfl | rfl | rfl | rfl | rfl | rfl | rfl | rfl | rfl | rfl | rfl | rfl | rfl | rfl
  all_goals (cases hx; exact ⟨rfl, rfl⟩)

theorem runsAs_F (h : opc / 16 = 15) : RunsAs opc i s := by
  intro x hx
  have hc : opc = 240 ∨ opc = 241 ∨ opc = 242 ∨ opc = 243 ∨ opc = 244 ∨ opc = 245 ∨ opc = 246 ∨ opc = 247 ∨
      opc = 248 ∨ opc = 249 ∨ opc = 250 ∨ opc = 251 ∨ opc = 252 ∨ opc = 253 ∨ opc = 254 ∨ opc = 255 := by omega
  rcases hc with rfl | rfl | rfl | rfl | rfl | rfl | rfl | rfl | rfl | rfl | rfl | rfl | rfl | rfl | rfl | rfl
  all_goals (cases hx; exact ⟨rfl, rfl⟩)

/-- The fields of an opcode run as the instruction they make, and are its fields. -/
theorem mkInstr_runs (h : mkInstr opc i = some x) :
    runFields opc i s = some (exec x s) ∧ x.fields? = some (opc, i) := by
  by_cases hl : opc < 256
  · have hc : opc / 16 = 0 ∨ opc / 16 = 1 ∨ opc / 16 = 2 ∨ opc / 16 = 3 ∨ opc / 16 = 4 ∨ opc / 16 = 5 ∨ opc / 16 = 6 ∨ opc / 16 = 7 ∨
        opc / 16 = 8 ∨ opc / 16 = 9 ∨ opc / 16 = 10 ∨ opc / 16 = 11 ∨ opc / 16 = 12 ∨ opc / 16 = 13 ∨ opc / 16 = 14 ∨ opc / 16 = 15 := by omega
    rcases hc with hc | hc | hc | hc | hc | hc | hc | hc | hc | hc | hc | hc | hc | hc | hc | hc
    · exact runsAs_0 s hc x h
    · exact runsAs_1 s hc x h
    · exact runsAs_2 s hc x h
    · exact runsAs_3 s hc x h
    · exact runsAs_4 s hc x h
    · exact runsAs_5 s hc x h
    · exact runsAs_6 s hc x h
    · exact runsAs_7 s hc x h
    · exact runsAs_8 s hc x h
    · exact runsAs_9 s hc x h
    · exact runsAs_A s hc x h
    · exact runsAs_B s hc x h
    · exact runsAs_C s hc x h
    · exact runsAs_D s hc x h
    · exact runsAs_E s hc x h
    · exact runsAs_F s hc x h
  · rw [mkInstr_above (by omega)] at h
    cases h

theorem runFields_exec (h : mkInstr opc i = some x) : runFields opc i s = some (exec x s) := (mkInstr_runs s h).1

theorem mkInstr_fields (h : mkInstr opc i = some x) : x.fields? = some (opc, i) := (mkInstr_runs State.reset h).2

/-- What the decoder accepts is the instruction that its fields make. -/
theorem decode_ok {n : Nat} {bs rest : List Byte} (h : decode n bs = .ok (x, rest)) :
    ∃ opc i, decodeFields n bs = .ok (opc, i, rest) ∧ mkInstr opc i = some x := by
  simp only [decode] at h
  split at h
  · cases h
  · rename_i opc f r he
    split at h
    · cases h
    · rename_i hm
      cases h
      exact ⟨opc, f, he, hm⟩

end Sys2Proof.Machine
end

