-- ==== Sys2Proof/Tests/Slice0.lean ====
section
/-! SUPPORT. Tests: terms that the checks refuse, instruction words written out from the encodings of the spec, one step of a few
instructions against the spec's worked examples, and for every obligation that has hypotheses a witness that meets them. -/
namespace Sys2Proof.Tests
/- One theorem at a time: each that waits for the kernel would hold a thread of its own. -/
set_option Elab.async false
open Machine Claims

/-! ### Small machines -/

/-- A group with some active lanes; its values are numbered from 3 in frame 0, each with a type and its lanes. -/
def group (active : BitVec 32) (vals : List (Nat × List Nat)) : Stream :=
  { active := active, nextVal := 100, item := 5
    file := vals.zipIdx.map fun v => (.val 0 (v.2 + 3), ⟨v.1.1, v.1.2.map fun n => BitVec.ofNat 64 n⟩) }

/-- A team of one group. -/
def team (st : Stream) : Team := { launch := 0, cluster := 0, asid := 7, control := { active := 1 }, groups := [st] }

/-- The group 0 of core 0 of die 0. -/
def at0 : StreamRef := ⟨0, 0, 0⟩

/-- The machine with one team, on core 0 of die 0, whose group 0 is current. -/
def machine (t : Team) : State :=
  { State.reset with cur := some at0, cores := [{ at_ := ⟨0, 0⟩, team := some t, split := { locBytes := 4096 } }] }

/-- The machine after an instruction that gives a next state. -/
def next (o : Out) : State :=
  match o with
  | .next s => s
  | .fault _ | .refused _ => State.reset

/-- Group 0 as it stands. -/
def grp (s : State) : Stream := (s.stream? at0).getD { active := 0 }

/-- Result `k` in a lane after an instruction runs in a group with the values given. -/
def lane (x : Instr) (active : BitVec 32) (vals : List (Nat × List Nat)) (k l : Nat) : Nat :=
  ((grp (next (exec x (machine (team (group active vals)))))).get (.val 0 (100 + k))).lane l

/-- Result `k` of an instruction that runs in lane 0 alone, on i32 values. -/
def one (x : Instr) (vals : List Nat) (k : Nat := 0) : Nat := lane x 1 (vals.map fun n => (tI32, [n])) k 0

/-- The exceptions that an instruction leaves in FLAGS. -/
def flags (x : Instr) (vals : List Nat) : BitVec 5 :=
  (grp (next (exec x (machine (team (group 1 (vals.map fun n => (tI32, [n])))))))).mode.extractLsb' 16 5

/-- The operands of an instruction: values 3, 4, 5 and 6. -/
def vs (n : Nat) : List Opnd := (List.range n).map fun k => .val (k + 3)

/-! ### Ill-formed terms are refused, one for each check of `WellFormed.lean` -/

/-- A well-formed addition (R140). -/
def goodAdd : Instr := .add { form := 0x03, attr := .arith 0 false true 0, src := [.val 3, .val 4] }

theorem test_wf_good : goodAdd.wf = true := by decide +kernel
/-- An operand too few. -/
theorem test_wf_shape : (Instr.add { form := 0x03, attr := .arith 0 false true 0, src := [.val 3] }).shape = false := by decide +kernel
theorem test_wf_shape_refused : (Instr.add { form := 0x03, attr := .arith 0 false true 0, src := [.val 3] }).wf = false := by
  decide +kernel
/-- A floating-point type on an integer addition (R60). -/
theorem test_wf_codes : (Instr.add { form := 0x0A, attr := .arith 0 false true 0, src := [.val 3, .val 4] }).codes ≠ [] := by
  decide +kernel
theorem test_wf_codes_refused : (Instr.add { form := 0x0A, attr := .arith 0 false true 0, src := [.val 3, .val 4] }).wf = false := by
  decide +kernel
/-- The operation select of red.or on red.and (R237). -/
theorem test_wf_named : (Instr.redAnd { form := 0x03, attr := .mem 0 1 false false false false 1 false, src := [.val 4, .val 5] }).named
    = false := by decide +kernel
theorem test_wf_named_refused :
    (Instr.redAnd { form := 0x03, attr := .mem 0 1 false false false false 1 false, src := [.val 4, .val 5] }).wf = false := by
  decide +kernel
/-- A branch whose argument list needs more than 24 bytes (R45). -/
theorem test_wf_length :
    (Instr.br { attr := .ctl 0, succ := [⟨1, List.replicate 24 1⟩] }).lengthOk = false := by decide +kernel
theorem test_wf_length_refused : (Instr.br { attr := .ctl 0, succ := [⟨1, List.replicate 24 1⟩] }).wf = false := by decide +kernel

/-! ### Instruction words, from the encodings of the spec's chapters -/

/-- The first of the worked encodings of every family, which `Obligations.ManualWordsDecode` states together; the rest below. -/
theorem word_fma_imm : Reads [0x72, 0x0A, 0x00, 0x03, 0x04, 0x00, 0x00, 0x80, 0x3F]
    (.fmaImm { form := 0x0A, attr := .arith 0 false false 0, src := [.val 3, .val 4, .raw 0x3F800000] }) := ⟨rfl, rfl⟩
theorem word_addc : Reads [0x01, 0x03, 0x00, 0x03, 0x05, 0x07]
    (.addc { form := 0x03, attr := .arith 0 false false 0, src := [.val 3, .val 5, .val 7] }) := ⟨rfl, rfl⟩
theorem word_cmp : Reads [0x22, 0x10, 0x02, 0x08, 0x01]
    (.cmp { form := 0x10, attr := .arith 0 false false 2, src := [.val 8, .val 1] }) := ⟨rfl, rfl⟩
theorem word_rseed : Reads [0x7B, 0x00, 0x00, 0x08] (.rseed { attr := .arith 0 false false 0, src := [.val 8] }) := ⟨rfl, rfl⟩
theorem word_tag_lk : Reads [0x92, 0x04, 0x00, 0x14] (.tagLk { form := 0x04, attr := .arith 0 false false 0, src := [.val 20] }) :=
  ⟨rfl, rfl⟩
theorem word_fence_full : Reads [0x91, 0x00, 0xB0, 0x01, 0x03]
    (.fence { attr := .mem 0 3 true true false false 0 false, src := [.int 3] }) := ⟨rfl, rfl⟩
theorem word_ld_acq : Reads [0x81, 0x03, 0xA0, 0x00, 0x01]
    (.ldG { form := 0x03, attr := .mem 0 2 true false false false 0 false, src := [.val 1] }) := ⟨rfl, rfl⟩
theorem word_st_ef : Reads [0x85, 0x03, 0x30, 0x04, 0x00, 0x06]
    (.stG { form := 0x03, attr := .mem 0 3 false false false true 0 false, src := [.val 0, .val 6] }) := ⟨rfl, rfl⟩
theorem word_atom_float : Reads [0x99, 0x0A, 0x40, 0x00, 0x17, 0x18]
    (.atomAddFloat { form := 0x0A, attr := .mem 0 4 false false false false 0 false, src := [.val 23, .val 24] }) := ⟨rfl, rfl⟩
theorem word_red_add : Reads [0xA4, 0x03, 0x10, 0x00, 0x0C, 0x0D]
    (.redAdd { form := 0x03, attr := .mem 0 1 false false false false 0 false, src := [.val 12, .val 13] }) := ⟨rfl, rfl⟩
theorem word_brc : Reads [0xBA, 0x00, 0x00, 0x0B, 0x01, 0x02, 0x0A, 0x09, 0x02, 0x01, 0x09]
    (.brc { attr := .ctl 0, src := [.val 11], succ := [⟨1, [10, 9]⟩, ⟨2, [9]⟩] }) := ⟨rfl, rfl⟩
theorem word_mx_nest : Reads [0xD8, 0x00, 0x08, 0x0C, 0x1D, 0x1D, 0x02, 0x02]
    (.mxNest { attr := .ctl 8, src := [.val 12, .val 29, .val 29, .val 2, .val 2] }) := ⟨rfl, rfl⟩
theorem word_mx_go : Reads [0xD9, 0x00, 0x02, 0x1E] (.mxGo { attr := .ctl 2, src := [.val 30] }) := ⟨rfl, rfl⟩
theorem word_mx_spec : Reads [0xDE, 0x00, 0x00, 0x03, 0x0C] (.mxSpec { attr := .ctl 0, src := [.val 3, .val 12] }) := ⟨rfl, rfl⟩
theorem word_mx_drop : Reads [0xE0, 0x00, 0x00] (.mxDrop { attr := .ctl 0 }) := ⟨rfl, rfl⟩
theorem word_sail_def : Reads [0xFA, 0x00, 0x00, 0x09] (.sailDef { attr := .ctl 0, src := [.val 9] }) := ⟨rfl, rfl⟩
theorem word_ch_mark : Reads [0xF5, 0x00, 0x00, 0x07] (.chMark { attr := .ctl 0, src := [.val 7] }) := ⟨rfl, rfl⟩

/-- A byte that is cut off is refused, and so is a condition above 5 (R154). -/
theorem word_short : ∃ e, decode 0 [0x00, 0x03, 0x08, 0x03] = .error e := ⟨_, rfl⟩
theorem word_bad_condition : ∃ e, decode 0 [0x22, 0x03, 0x0E, 0x03, 0x04] = .error e := ⟨_, rfl⟩

/-- The table's view of a word: tag.clr.all, opcode 0x94 and variant 1, in the first two bytes (Table 7.2). -/
theorem word_table : (decodeTableWord 24 0x000194).map encode = some [0x94, 0x01, 0x00] := by decide +kernel

/-! ### A step of the machine -/

/-- yield, encoded from Table 4.1 as 0xCE, 0x00, 0x00, is the first instruction that runs after reset. -/
theorem test_step_runs : (((next (step (State.reset.withFetchWord 24 0x0000CE))).stream? ⟨0, 0, 32⟩).map Stream.yielded) = some true := by
  decide +kernel

/-! ### The integer engine -/

/-- Arithmetic of i32: signed, saturating, and the operation field. -/
def i32 (n : Nat) (sx : Bool := false) (sat : Bool := false) (op : BitVec 3 := 0) : Ins :=
  { form := 0x03, attr := .arith 0 sat sx op, src := vs n }

/-- R141: the halves of 0x1FFFFFFFF and 1. -/
theorem test_addc : [one (.addc (i32 3)) [0xFFFFFFFF, 1, 0] 0, one (.addc (i32 3)) [0xFFFFFFFF, 1, 0] 1] = [0, 1] := by decide +kernel
theorem test_addc_carry : one (.addc (i32 3)) [1, 0, 1] 0 = 2 := by decide +kernel
/-- Table 5.2. -/
theorem test_div : [one (.div (i32 2 true)) [7, 0xFFFFFFFE], one (.div (i32 2 true)) [0xFFFFFFF9, 2], one (.div (i32 2 true)) [5, 0],
    one (.div (i32 2 true)) [0x80000000, 0xFFFFFFFF]] = [0xFFFFFFFD, 0xFFFFFFFD, 0xFFFFFFFF, 0x80000000] := by decide +kernel
theorem test_div_sat : [one (.div (i32 2 true true)) [0x80000000, 0xFFFFFFFF], one (.div (i32 2)) [0xFFFFFFFF, 2]]
    = [0x7FFFFFFF, 0x7FFFFFFF] := by decide +kernel
theorem test_rem : [one (.rem (i32 2 true)) [7, 0xFFFFFFFE], one (.rem (i32 2 true)) [0xFFFFFFF9, 2], one (.rem (i32 2 true)) [5, 0],
    one (.rem (i32 2 true)) [0x80000000, 0xFFFFFFFF], one (.rem (i32 2)) [0xFFFFFFFF, 2]] = [1, 0xFFFFFFFF, 5, 0, 1] := by decide +kernel
/-- R144, on i8. -/
theorem test_sad : [one (.sad { form := 0x01, attr := .arith 0 false true 0, src := vs 3 }) [0x80, 0x7F, 10],
    one (.sad { form := 0x01, attr := .arith 0 true true 0, src := vs 3 }) [0x80, 0x7F, 10]] = [0x09, 0xFF] := by decide +kernel
/-- R145. -/
theorem test_idot : [one (.idot (i32 3 true false 1)) [0x80FF0201, 0x01010101, 10],
    one (.idot (i32 3 true)) [0x80FF0201, 0x01010101, 10],
    one (.idot (i32 3 true false 7)) [0x80FF0201, 0x01010101, 10]] = [0xFFFFFF8C, 396, 0xFF82830A] := by decide +kernel
/-- R143: the most negative number. -/
theorem test_abs_neg : [one (.abs (i32 1 true)) [0x80000000], one (.abs (i32 1 true true)) [0x80000000],
    one (.neg (i32 1 false true)) [5]] = [0x80000000, 0x7FFFFFFF, 0] := by decide +kernel
/-- R146: the table of "a and not b, or c" is 0xF2. -/
theorem test_tlut : one (.tlut { i32 3 with src := vs 3 ++ [.int 0xF2] }) [0b1100, 0b1010, 0b0001] = 0b0101 := by decide +kernel
/-- R151. -/
theorem test_bpick : [one (.bpick (i32 3)) [0x44332211, 0x88776655, 0x17080100], one (.bpick (i32 3)) [0x44332211, 0x88776655, 0x34232221]]
    = [0xFF002211, 0xFFBBCCDD] := by decide +kernel
/-- Table 5.4. -/
theorem test_bfx : [one (.bfx (i32 3)) [0xF0F0, 4, 8], one (.bfx (i32 3 true)) [0xF0F0, 4, 4], one (.bfx (i32 3)) [0xF0F0, 12, 8],
    one (.bfx (i32 3 true)) [0x80000000, 28, 8], one (.bfx (i32 3 true)) [0x80000000, 40, 4]]
    = [0xF, 0xFFFFFFFF, 0xF, 0xFFFFFFF8, 0xFFFFFFFF] := by decide +kernel
theorem test_bfx_ends : [one (.bfx (i32 3 true)) [0x12345678, 3, 0], one (.bfx (i32 3)) [0x12345678, 0, 40]] = [0, 0x12345678] := by
  decide +kernel
/-- R153. -/
theorem test_bfi : one (.bfi (i32 4)) [0xFFFFFFFF, 0, 28, 8] = 0x0FFFFFFF := by decide +kernel
/-- R136: a source immediate is the last source. -/
theorem test_add_imm : one (.addImm { i32 1 with src := [.val 3, .int (-1)] }) [1] = 0 := by decide +kernel
/-- R147: a shift by the width or more. -/
theorem test_shl : [one (.shl (i32 2)) [1, 32], one (.shr (i32 2 true)) [0x80000000, 40]] = [0, 0xFFFFFFFF] := by decide +kernel
/-- A source that is also where another lane's result goes is read before it is written: both lanes add. -/
theorem test_add_lanes : (List.range 2).map (lane (.add (i32 2)) 3 [(tI32, [1, 2]), (tI32, [10, 20])] 0) = [11, 22] := by decide +kernel

/-! ### The float engine -/

/-- Arithmetic of f32. -/
def f32 (n : Nat) (rm : BitVec 3 := 1) (op : BitVec 3 := 0) : Ins := { form := 0x0A, attr := .arith rm false false op, src := vs n }

/-- R196, R175, the worked example: the generator of lane 0 gives u = 0x510C, and the tie goes up for the first input. -/
theorem test_cvt_rs :
    let g (x : Nat) : Nat := ((grp (next (exec (.cvtFF { form := 0x09, attr := .cvt 6 false false 0 0x0A, src := vs 1 })
      (machine (team { group 1 [(tF32, [x])] with rng := [0x9E3779B9] }))))).get (.val 0 100)).lane 0
    [g 0x3F80C000, g 0x3F804000] = [0x3F81, 0x3F80] := by decide +kernel
/-- Table 6.10, the saturating column. -/
theorem test_cvt_nf : [0x43960000, 0x43E10000, 0x43FA0000, 0x7F800000, 0x7FC00000, 0x80000000, 0x3B000000, 0x3AC00000, 0x3A000000].map (fun x =>
      one (.cvtToNf { form := 0x0C, attr := .cvt 1 false false 0 0x0A, src := vs 2 }) [x, 0x00050798])
    = [0x79, 0x7E, 0x7E, 0x7E, 0x7F, 0x80, 0x01, 0x01, 0x00] := by decide +kernel
/-- Table 6.10, the flags of five of its rows. -/
theorem test_cvt_nf_flags : [0x43960000, 0x43FA0000, 0x7F800000, 0x3B000000, 0x3A000000].map (fun x =>
      flags (.cvtToNf { form := 0x0C, attr := .cvt 1 false false 0 0x0A, src := vs 2 }) [x, 0x00050798])
    = [Fp.fInx, Fp.fOf ||| Fp.fInx, Fp.fInv, 0, Fp.fUf ||| Fp.fInx] := by decide +kernel
/-- R201: the scale of the MXFP4 block whose largest magnitude is 20, and the scaled 13. -/
theorem test_scx : one (.scx (f32 2 0)) [0x41A00000, 0x00060154] = 129 := by decide +kernel
theorem test_scl : one (.scl (f32 2)) [0x41500000, 125] = 0x40500000 := by decide +kernel
/-- R195: the block of the example packs to 0x0856. -/
theorem test_pack4 : one (.pack4 { form := 0x0C, attr := .arith 1 false false 0, src := vs 5 })
    [0x40A00000, 0x40500000, 0xBE333333, 0, 0x00060154] = 0x0856 := by decide +kernel
/-- 1.5 + 1.5, 3 · 3 + 1, and 1 / 3 rounded to nearest. -/
theorem test_fadd : one (.fadd (f32 2)) [0x3FC00000, 0x3FC00000] = 0x40400000 := by decide +kernel
theorem test_fma : one (.fma (f32 3)) [0x40400000, 0x40400000, 0x3F800000] = 0x41200000 := by decide +kernel
theorem test_fdiv : one (.fdiv (f32 2)) [0x3F800000, 0x40400000] = 0x3EAAAAAB := by decide +kernel
theorem test_sqrt : one (.sqrt (f32 1)) [0x40000000] = 0x3FB504F3 := by decide +kernel
/-- R203: the special values of exp2, log2 and cos. -/
theorem test_special : [one (.exp2 (f32 1 0)) [0xFF800000], one (.log2 (f32 1 0)) [0], one (.cos (f32 1 0)) [0x80000000]]
    = [0, 0xFF800000, 0x3F800000] := by decide +kernel

/-! ### Memory, atomics and exchange -/

/-- The machine in which a group runs with values of the types given. -/
def ran (x : Instr) (active : BitVec 32) (vals : List (Nat × List Nat)) : State := next (exec x (machine (team (group active vals))))

/-- Attributes of a memory instruction: class 0, scope .tm, nothing else. -/
def plainMem : Attr := .mem 0 0 false false false false 0 false

/-- R215, the worked example: the table is empty, and the set of the key is 37. -/
theorem test_tag_lk : lane (.tagLk { form := 0x04, attr := .arith 0 false false 0, src := vs 1 }) 1 [(tI64, [0x41225])] 0 0 = 0x80000094 := by
  decide +kernel
theorem test_tag_set :
    let x : Instr := .tagSet { form := 0x04, attr := .arith 0 false false 0, src := vs 2 }
    let vals := [(tI32, [0x80000094]), (tI64, [0x41225])]
    [lane x 1 vals 0 0, lane x 1 vals 1 0,
      ((((next (exec (.tagLk { form := 0x04, attr := .arith 0 false false 0, src := [.val 4] }) (ran x 1 vals)))).stream? at0).map fun st =>
        (st.get (.val 0 100)).lane 0).getD 9] = [0, 0, 148] := by decide +kernel
/-- R220: the post-incremented pointer of ld.l.pi is delivered at issue, and the load's own result is pending. -/
theorem test_ld_pi :
    let s := ran (.ldLPi { form := 0x0A, attr := plainMem, src := [.val 3, .int 16] }) 1 [(tPtrL, [0x100])]
    (((grp s).get (.val 0 101)).lane 0, (grp s).pending, (grp s).ll.length) = (0x110, [.val 0 100], 1) := by decide +kernel
/-- R209: a misaligned local address is named, and nothing is issued. -/
theorem test_ld_misaligned :
    let s := ran (.ldL { form := 0x03, attr := plainMem, src := vs 1 }) 1 [(tPtrL, [0x102])]
    (s.flights.length, s.cores.length) = (0, 1) := by decide +kernel
/-- R241: the wrap of inc and dec at the operand, and the compare of cas. -/
theorem test_atomic_values : [atomicNew 0xA2 0 tI32 false 7 [7], atomicNew 0xA2 0 tI32 false 6 [7], atomicNew 0xA3 0 tI32 false 0 [7],
    atomicNew 0xA0 0 tI32 false 5 [5, 9], atomicNew 0xA0 0 tI32 false 4 [5, 9]] = [some 0, some 7, some 7, some 9, none] := by
  decide +kernel
/-- R242: the sum of the atomics rounds to nearest even: 1 + 2^-24 is 1. -/
theorem test_atomic_float : atomicNew 0x99 0 tF32 false 0x3F800000 [0x33800000] = some 0x3F800000 := by decide +kernel

/-- R267: lanes 0 to 3 hold 7, 9, 7 and 9. -/
def keys : List (Nat × List Nat) := [(tI32, [7, 9, 7, 9])]
theorem test_match_peers : (List.range 4).map (lane (.matchLanes (i32 1)) 0xF keys 0) = [5, 10, 5, 10] := by decide +kernel
theorem test_match_others : ((List.range 4).map (lane (.matchLanes (i32 1 (op := 2))) 0xF keys 0),
    (List.range 4).map (lane (.matchLanes (i32 1 (op := 1))) 0xF keys 0)) = ([0, 1, 0, 1], [0, 0, 0, 0]) := by decide +kernel
/-- R263: the predicates of lanes 0, 2 and 3. -/
theorem test_ballot : lane (.ballot { form := 0, attr := .arith 0 false false 0, src := vs 1 }) 0xF [(tI1, [1, 0, 1, 1])] 0 1 = 0b1101 := by
  decide +kernel
/-- R265, R259: a source lane that does not participate leaves the lane its own value. -/
theorem test_shfl_up : (List.range 3).map (lane (.shflImm { i32 1 (op := 1) with src := [.val 3, .int 1] }) 7 [(tI32, [5, 6, 7])] 0)
    = [5, 5, 6] := by decide +kernel
/-- R268: the sum of the participating lanes in every one of them, and below each of them. -/
theorem test_gred : (List.range 3).map (lane (.gred (i32 1)) 7 [(tI32, [5, 6, 7])] 0) = [18, 18, 18] := by decide +kernel
theorem test_gscan_excl : (List.range 3).map (lane (.gscan (i32 1 (op := 4))) 7 [(tI32, [5, 6, 7])] 0) = [0, 5, 11] := by decide +kernel

/-! ### Control -/

/-- R126, the worked example. -/
theorem test_mode_set : (grp (ran (.modeSet { attr := .ctl 0, src := vs 2 }) 1 [(tI32, [0x12]), (tI32, [0x17])])).mode = 0x32 := by
  decide +kernel
/-- R112, the worked example: lanes 16 to 31 run the false path first, and the true path waits on the mask stack. -/
theorem test_brc_elsefirst :
    let st : Stream := { group 0xFFFFFFFF [(tI1, List.replicate 16 1 ++ List.replicate 16 0)] with
      native := false, succ := [1, 2] }
    let u : Translation := { key := ⟨0, 0, 0, 8⟩, unit := [⟨0, 0, [], 0, [], some 3⟩, ⟨0, 0, [], 0, [], none⟩, ⟨0, 0, [], 0, [], none⟩, ⟨0, 0, [], 0, [], none⟩] }
    let s := next (exec (.brc { attr := .ctl 1, src := vs 1, succ := [⟨1, []⟩, ⟨2, []⟩] }) (machine { team st with grpUnit := some u }))
    ((grp s).active, (grp s).blk, (grp s).stack.map MaskEntry.mask) = (0xFFFF0000, 2, [0x0000FFFF, 0xFFFFFFFF]) := by decide +kernel
/-- R123, the worked example: GL reads 6 and the threshold is 4, so the group waits. -/
theorem test_wait : (grp (next (exec (.wait { attr := .ctl 1, src := vs 1 }) (machine (team
    { group 1 [(tI32, [4])] with gl := (List.range 6).map fun k => ⟨k, false, 0⟩ }))))).wait = some (.counter 1 4) := by decide +kernel
/-- R115: with count 3 the second arrival does not complete the generation, and the third does. -/
theorem test_bar_arrivals :
    let t := team (group 1 [])
    let t := { t with groups := List.replicate 3 (group 1 []) }
    let a (t : Team) : Team := t.arrive 0 3 (0, 0)
    (((a (a t)).bars[0]?).map fun b => (b.arrived, b.gen), ((a (a (a t))).bars[0]?).map fun b => (b.arrived, b.gen))
      = (some (2, 0), some (0, 1)) := by decide +kernel
/-- R20: a push of a w32 queue keeps the low 32 bits of each lane. -/
theorem test_qpush :
    let q : StreamQueue := { kind := 1, prod := 0, cons := 32 }
    let s := next (exec (.qpush { form := 0x03, attr := .ctl 0, src := vs 1 })
      (machine { team (group 3 [(tI32, [0xFFFFFFFF, 2])]) with queues := q :: List.replicate 7 {} }))
    ((s.team? ⟨0, 0⟩).bind fun t => (t.queues[0]?).bind fun q => (q.entries.head?).map fun e => e.1.take 3) = some [0xFFFFFFFF, 2, 0] := by
  decide +kernel
/-- R131: trap gives a next state outside kernel debug too. -/
theorem test_trap_ends : ((ran (.trap { attr := .ctl 5 }) 1 []).cores.map Core.at_) = [⟨0, 0⟩] := by decide +kernel
/-- With kernel debug for the job the team is held, with the code byte in its record. -/
theorem test_trap_held :
    let s := next (exec (.trap { attr := .ctl 5 }) { machine (team (group 1 [])) with trace := { kdbg := true, kdbgAsid := 7 } })
    ((s.team? ⟨0, 0⟩).bind Team.trapped).map (fun t => (t.code, t.arg)) = some (0x18, 5) := by decide +kernel


/-- R401: two entries, the bottom one RECONV for block 5 with four lanes, the top one PATH for bundle 16. -/
def split2 : Stream :=
  { active := 1, ended := 8, native := !false, bundle := 9, delay := 2
    stack := [{ mask := 2, pc := 16, recon := false }, { mask := 0xF, pc := 5, recon := true }]
    landings := [{ dst := .reg 4, lanes := 1, val := ⟨tI32, 7 :: List.replicate 31 0⟩, left := 3 }] }
theorem test_maskRecord : split2.maskRecord.length = 80 ∧ split2.maskRecord.take 32 =
    [1, 0, 0, 0, 8, 0, 0, 0, 2, 0, 0, 0, 0, 0, 0, 0, 15, 0, 0, 0, 5, 0, 0, 1, 2, 0, 0, 0, 16, 0, 0, 0] ∧
    ({ active := 0 } : Stream).fromMaskRecord split2.maskRecord = { active := 1, ended := 8, stack := split2.stack } := by
  decide +kernel
/-- R411, Table 15.9: one result, with two cycles of delay left and three to its write. -/
theorem test_flightRecord : split2.flightRecord.length = 152 ∧
    split2.flightRecord.take 28 = [1, 0, 2, 0, 9, 0, 0, 0, 0, 0, 0, 0, 0, 0, 0, 0, 4, 0, 3, 0, 1, 0, 0, 0, 7, 0, 0, 0] ∧
    ({ split2 with bundle := 0, delay := 0 } : Stream).fromFlightRecord split2.flightRecord = split2 := by decide +kernel

/-- Table 16.10, its records of %e, %p2 and %a2: OFFSET 56, FUNC 1, PKIND 2, SUCC 0. -/
def ravel4 : RavelEntry :=
  { off := 56, func := 1, pkind := 2, bundle := 11
    vals := [{ frame := 0, num := 1, ty := 0x10, loc := 3 }, { frame := 0, num := 8, ty := 0x10, loc := 1, place := 2 },
      { frame := 0, num := 9, ty := 0x0A, loc := 1 }] }
theorem test_ravelEntry : ravel4.bytes =
    [56, 0, 0, 0, 1, 0, 2, 0, 3, 0, 0, 0, 0, 0, 0, 0, 1, 0, 0, 0x10, 3, 0, 0, 0, 0, 0, 0, 0, 0, 0, 0, 0,
     8, 0, 0, 0x10, 1, 2, 0, 0, 0, 0, 0, 0, 0, 0, 0, 0, 9, 0, 0, 0x0A, 1, 0, 0, 0, 0, 0, 0, 0, 0, 0, 0, 0] := by decide +kernel
/-- R437: the index of an image follows its bundles, and its first entry follows the index. -/
theorem test_image :
    let t : Translation := { key := ⟨7, 1, 0x11, 8⟩, unit := [], bundles := [List.replicate 40 9], ravels := [ravel4], size := 204 }
    t.image.length = t.size ∧ (t.image.drop 96).take 1 = [9] ∧ (t.image.drop 136).take 5 = [140, 0, 0, 0, 56] := by decide +kernel
/-! ### The hypotheses of the obligations are met: one witness for each, with a part for each clause that has its own -/

/-- The current stream of the machine of a team. -/
theorem runs0 (t : Team) (st : Stream) (h : t.groups[0]? = some st) : Runs (machine t) at0 t st := ⟨rfl, rfl, h⟩

/-- One lane with the i32 values 6 and 3. -/
def st0 : Stream := group 1 [(tI32, [6]), (tI32, [3])]
def t0 : Team := team st0
def s0 : State := machine t0
def c0 : Cx := ⟨s0, at0, t0, st0⟩
theorem runs_s0 : Runs s0 at0 t0 st0 := runs0 t0 st0 rfl

/-- After reset no trap is enabled, so that no lane traps, whatever it raises. -/
theorem no_trap (outs : List (Nat × LaneOut)) : c0.trapping outs = [] := by
  have e : trapEn c0.st.mode = 0 := by decide
  simp [Cx.trapping, e]

theorem hyp_IntegerSumsAndProducts : Runs s0 at0 t0 st0 ∧ (i32 1 true).attr.sxBit = true := ⟨runs_s0, rfl⟩
theorem hyp_IntegerCarriesAndDivisions : Runs s0 at0 t0 st0 ∧ (i32 3).attr.sxBit = false ∧ (i32 3 true).attr.sxBit = true :=
  ⟨runs_s0, rfl, rfl⟩
theorem hyp_IntegerLogicAndShifts :
    Runs s0 at0 t0 st0 ∧ (i32 2).attr.sxBit = false ∧ (i32 2 true).attr.sxBit = true ∧ 0 < wOf (i32 2) := ⟨runs_s0, rfl, rfl, by decide⟩
theorem hyp_IntegerCountsAndFields : Runs s0 at0 t0 st0 := runs_s0
theorem hyp_IntegerChoicesMovesAndPointers :
    Runs s0 at0 t0 st0 ∧ (i32 1).attr.satBit = false ∧ (i32 1 false true).attr.satBit = true ∧ (i32 1).attr.low = 0 ∧
      (i32 1 (op := 2)).attr.low = 2 ∧ (i32 1 (op := 1)).attr.low = 1 := ⟨runs_s0, rfl, rfl, rfl, rfl, rfl⟩

/-- A scalar and a packed form run without a trap. -/
theorem hyp_FloatArithmetic : Runs s0 at0 t0 st0 ∧ (∀ f, c0.trapping (c0.outs (f32 2) f) = []) ∧ isPackedTy (ty (f32 2)) = false ∧
    isPackedTy (ty { f32 2 with form := 0x14 }) = true := ⟨runs_s0, fun _ => no_trap _, rfl, rfl⟩
theorem hyp_FloatChoicesAndClasses : Runs s0 at0 t0 st0 ∧ (∀ i f, c0.trapping (c0.outs i f) = []) ∧
    isPackedTy (ty (f32 2)) = false ∧ isPackedTy (ty { f32 2 with form := 0x14 }) = true := ⟨runs_s0, fun _ _ => no_trap _, rfl, rfl⟩
theorem hyp_FloatConversionsAndScaling : Runs s0 at0 t0 st0 ∧ (∀ i f, c0.trapping (c0.outs i f) = []) ∧
    isPackedTy (ty (f32 2)) = false ∧ isPackedTy (ty { f32 2 with form := 0x14 }) = true := ⟨runs_s0, fun _ _ => no_trap _, rfl, rfl⟩
theorem hyp_FloatFunctionsAndSeed : Runs s0 at0 t0 st0 ∧ (∀ i f, c0.trapping (c0.outs i f) = []) ∧
    isPackedTy (ty (f32 2)) = false ∧ isPackedTy (ty { f32 2 with form := 0x14 }) = true := ⟨runs_s0, fun _ _ => no_trap _, rfl, rfl⟩
/-- The ends of the ranges of the mode and of the random bits; a remainder of zero, and one that is not. -/
theorem hyp_RoundingFollowsTheModeAndSumsAreExact :
    (∀ rm ∈ [1, 6], ∀ u ∈ [0, 65535], 1 ≤ rm ∧ rm ≤ 6 ∧ u < 2 ^ 16 ∧ (0 < 4 ∧ 4 % 2 ^ 2 = 0) ∧ 0 < 6 ∧ 6 % 2 ^ 2 ≠ 0) ∧
    [Fp.FVal.fin true 3 (-1)].map rat = [(-3 / 2 : Rat)].map some := by
  refine ⟨by decide, ?_⟩
  simp only [List.map_cons, List.map_nil, rat, List.cons.injEq, Option.some.injEq, and_true]
  decide +kernel
theorem hyp_FloatRoundingIsNearest :
    ∀ x ∈ [(1, (0 : Int)), (3, -24), (0xFFFFFF, -149)], Ieee Fp.f32 ∧ 0 < x.1 ∧ (Fp.pack Fp.f32 1 0 false false ⟨false, x.1, x.2, false⟩).2 &&& Fp.fOf = 0 := by
  refine fun x hx => ⟨.inr (.inr (.inl rfl)), ?_⟩
  revert x
  decide +kernel
/-- The three policies; each clause has its codes: 0x7F800001 is a signalling NaN and 0xFFC00002 a quiet one. -/
theorem hyp_FloatNanPolicy : Ieee Fp.f32 ∧ 0x7F800001 < 2 ^ Fp.f32.width ∧ 0xFFC00002 < 2 ^ Fp.f32.width ∧
    NanCode Fp.f32 0x7F800001 ∧ NanCode Fp.f32 0xFFC00002 ∧ ¬ NanCode Fp.f32 0x7F800000 ∧
    Nat.testBit 0x7F800001 (Fp.f32.mbits - 1) = false ∧ Nat.testBit 0xFFC00002 (Fp.f32.mbits - 1) = true ∧
    ∀ n ∈ [0, 1, 2], ∃ v : Fp.Env, v.nan = n ∧ v.sat = false ∧ v.ftzi = false :=
  ⟨.inr (.inr (.inl rfl)), by decide, by decide, by unfold NanCode; decide, by unfold NanCode; decide, by unfold NanCode; decide,
    by decide, by decide, fun n _ => ⟨⟨1, false, false, false, n, false⟩, rfl, rfl, rfl⟩⟩
theorem hyp_FloatComparisonsOrderTheCodes : Ieee Fp.f32 ∧ (∃ v : Fp.Env, v.ftzi = false) ∧ 7 < 8 ∧ 0x7FC00000 < 2 ^ Fp.f32.width ∧
    NanCode Fp.f32 0x7FC00000 ∧ ¬ NanCode Fp.f32 0x7F800000 ∧ ¬ NanCode Fp.f32 0x80000000 :=
  ⟨.inr (.inr (.inl rfl)), ⟨⟨1, false, false, false, 0, false⟩, rfl⟩, by decide, by decide, by unfold NanCode; decide,
    by unfold NanCode; decide, by unfold NanCode; decide⟩
/-- Zero divided by zero with the invalid trap enabled. -/
theorem hyp_EnabledExceptionsTrap :
    let st : Stream := { group 1 [(tF32, [0]), (tF32, [0])] with mode := 0x121 }
    let c : Cx := ⟨machine (team st), at0, team st, st⟩
    Runs c.s at0 (team st) st ∧ isPackedTy (ty (f32 2)) = false ∧
      ((c.outs (f32 2) fun c l => c.elements 0x45 (f32 2) l
        [fun u => Fp.div (fmtOf (ty (f32 2))) (c.env (f32 2)) u (code c (f32 2) 0 l) (code c (f32 2) 1 l)] id).filter fun o =>
          o.2.flags &&& st.mode.extractLsb' 8 5 != 0).length ≠ 0 := ⟨runs0 _ _ rfl, rfl, by decide +kernel⟩

/-- A leaf of 64 KiB at HBM of die 0, with V, LEAF, R, W and X, in sail 0; and a sail of one panel. -/
def leaf0 : TlbEntry := { asid := 7, base := 0x10000, bytes := 65536, entry := 0x1F }
def sail0 : Sail := { sailZero with parts := [{ die := 0, panels := [(0, 5120)] }] }
/-- The machine with a page mapped at 0x10000, and a launch of the job with its record. -/
def mapped (t : Team) : State :=
  { State.reset with
    cur := some at0, sails := [sail0], board := { zeroed := true }
    walker := { launches := [{ key := 0, queue := 0, record := { const := 0x10000 }, asid := 7 }] }
    cores := [{ at_ := ⟨0, 0⟩, team := some t, split := { locBytes := 4096 }, tlb := [leaf0] }] }
/-- Lane 0 with a local pointer and a word, and with a global pointer and a word. -/
def stL : Stream := group 1 [(tPtrL, [0x100]), (tI32, [3])]
def stG : Stream := group 1 [(tPtrG, [0x10100]), (tI32, [3])]
def mem2 : Ins := { form := 0x03, attr := plainMem, src := vs 2 }
/-- A path whose counter is full. -/
def full : List InFlight := List.replicate 4095 ⟨0, false, 0⟩
/-- A guard that no lane meets where value 4 is odd. -/
def off (i : Ins) : Ins := { i with guard := .whenFalse (.val 4) }

theorem runsM (t : Team) (st : Stream) (h : t.groups[0]? = some st) : Runs (mapped t) at0 t st := ⟨rfl, rfl, h⟩

theorem hyp_LoadsAreIssued :
    (let c : Cx := ⟨mapped (team stL), at0, team stL, stL⟩
     (Instr.ldL mem2, false, 1, false) ∈ loads mem2 ∧ Runs c.s at0 c.t c.st ∧ c.lanes mem2 ≠ 0 ∧ stL.hasRoom 0 = true ∧
       (checks c mem2 false { read := true } 4).bad = [] ∧ c.lanes (off mem2) = 0) ∧
    (let c : Cx := ⟨mapped (team stG), at0, team stG, stG⟩
     (Instr.ldG mem2, true, 1, false) ∈ loads mem2 ∧ Runs c.s at0 c.t c.st ∧ c.lanes mem2 ≠ 0 ∧ stG.hasRoom 1 = true ∧
       (checks c mem2 true { read := true } 4).bad = []) ∧
    ({ stL with ll := full }.hasRoom 0 = false ∧ { stG with gl := full }.hasRoom 1 = false) :=
  ⟨⟨by simp [loads], runsM _ _ rfl, by decide +kernel, by decide +kernel, by decide +kernel, by decide +kernel⟩,
    ⟨by simp [loads], runsM _ _ rfl, by decide +kernel, by decide +kernel, by decide +kernel⟩, by decide +kernel, by decide +kernel⟩
theorem hyp_StoresAreIssued :
    (let c : Cx := ⟨mapped (team stL), at0, team stL, stL⟩
     (Instr.stL mem2, false, 1, false) ∈ stores mem2 ∧ Runs c.s at0 c.t c.st ∧ c.lanes mem2 ≠ 0 ∧ stL.hasRoom 2 = true ∧
       (checks c mem2 false { write := true } 4).bad = [] ∧ c.lanes (off mem2) = 0) ∧
    (let c : Cx := ⟨mapped (team stG), at0, team stG, stG⟩
     (Instr.stG mem2, true, 1, false) ∈ stores mem2 ∧ Runs c.s at0 c.t c.st ∧ c.lanes mem2 ≠ 0 ∧ stG.hasRoom 2 = true ∧
       (checks c mem2 true { write := true } 4).bad = []) ∧ { stG with st := full }.hasRoom 2 = false :=
  ⟨⟨by simp [stores], runsM _ _ rfl, by decide +kernel, by decide +kernel, by decide +kernel, by decide +kernel⟩,
    ⟨by simp [stores], runsM _ _ rfl, by decide +kernel, by decide +kernel, by decide +kernel⟩, by decide +kernel⟩
/-- The clauses at their bounds: 4096 local bytes, a 4-byte access at the last word, one byte beyond, an odd byte, the first
number with a field set, the first address above bit 55; and a load that traps. -/
theorem hyp_AccessChecksAndTraps :
    2 % 4 ≠ 0 ∧ (2 ^ 56 % 4 = 0 ∧ 2 ^ 56 ≤ 2 ^ 56) ∧
    (let c : Cx := ⟨mapped (team stL), at0, team stL, stL⟩
     (4093 < 2 ^ 24 ∧ (c.s.core c.core).split.locBytes < 4093 + 4) ∧ (4092 + 4 ≤ (c.s.core c.core).split.locBytes ∧ 4092 % 4 = 0) ∧
       (4091 + 4 ≤ (c.s.core c.core).split.locBytes ∧ 4091 % 4 ≠ 0) ∧ 2 ^ 30 ≤ 2 ^ 30) ∧
    (let st := group 1 [(tPtrL, [0x102]), (tI32, [3])]
     let c : Cx := ⟨mapped (team st), at0, team st, st⟩
     let q := checks c mem2 false { read := true } 4
     (Instr.ldL mem2, false, 1, false) ∈ loads mem2 ∧ Runs c.s at0 c.t c.st ∧ c.lanes mem2 ≠ 0 ∧ st.hasRoom 0 = true ∧
       q.missed = [] ∧ ((q.bad.filter fun b => codeRank b.2.1 == leastRank q.bad).map fun b => b.2.1) = [0x24]) :=
  ⟨by decide, by decide, by decide +kernel, by simp [loads], runsM _ _ rfl, by decide +kernel, by decide +kernel, by decide +kernel,
    by decide +kernel⟩
theorem hyp_ConstantLoadsPrefetchesAndFences :
    let st := group 1 [(tI64, [0x10100])]
    let i : Ins := { form := 0x03, attr := plainMem, src := [.val 3] }
    let j : Ins := { i with src := [.int 16] }
    let c : Cx := ⟨mapped (team st), at0, team st, st⟩
    Runs c.s at0 c.t c.st ∧ c.lanes i ≠ 0 ∧ st.hasRoom 1 = true ∧ c.lanes { i with guard := .whenTrue (.val 3) } = 0 ∧
      (c.tryLanes (lanesOf (c.lanes j)) (fun l => (0x10000 + c.arg j 0 32 l) % 2 ^ 64) fun s a l =>
        s.checkGlobal c.core c.t.asid { read := true } 4 a l).bad = [] :=
  ⟨runsM _ _ rfl, by decide +kernel, by decide +kernel, by decide +kernel, by decide +kernel⟩
theorem hyp_TagTable : Runs s0 at0 t0 st0 ∧ lanesOf (c0.lanes (i32 2)) = [0] := ⟨runs_s0, by decide +kernel⟩

/-- A page engine with a context table in DDR; address space 7 has a page of 64 KiB at 0x10000, and no other; and a command record. -/
def tables (leaf : Nat) (record : List Byte) (p : PageEngine) : State :=
  let put (s : State) (a e : Nat) : State := s.writeBytes (flatDdr a) (toBytes 8 e)
  let ptr (a : Nat) : Nat := a * 2 ^ 8 + 0x101
  let s : State := { State.reset with board := { ready := true, zeroed := true }, sails := [sail0], pages := { p with ctx := 0x101 } }
  (put (put (put (put (put (put s 112 (ptr 0x200000)) 120 1) 0x200000 (ptr 0x1000000)) 0x1000000 (ptr 0x1001000)) 0x1001000 (ptr 0x1002000))
    0x1002008 leaf).writeBytes (flatHost 0x5000) record

/-- A write of 8 bytes covers its granule; one of 4 covers half of it; the next granule is apart. In host memory nothing is
fresh. -/
theorem hyp_MemoryAndPoisonFollowTheWrite :
    State.reset.MemInv ∧ 0 < (List.replicate 8 (1 : Byte)).length ∧ flatTag (flatHost 0) = flatTag (flatHost 0 + 8 - 1) ∧
      covers (flatHost 0) 8 (flatHost 7) = true ∧ covers (flatHost 0) 4 (flatHost 7) = false ∧
      granuleOf (flatHost 7) ∈ granulesOf (flatHost 0) 4 ∧ State.reset.isFresh (flatHost 7) = false ∧
      { State.reset with poison := [flatHost 0] }.poisoned (flatHost 7) = true ∧ granuleOf (flatHost 8) ∉ granulesOf (flatHost 0) 8 :=
  ⟨rfl, by decide, by decide +kernel, by decide +kernel, by decide +kernel, by decide +kernel, by decide +kernel, by decide +kernel,
    by decide +kernel⟩

/-- An access of one lane of group 0 to the word at 0x100 of its core's pool. -/
def lane0 : AccLane := { lane := 0, va := 0x100, pa := flatPool ⟨0, 0⟩ 0x100, data := [1, 0, 0, 0] }
def acc (kind : AccKind) (l : AccLane) : Acc :=
  { id := 1, ref := at0, asid := 7, kind := kind, isLocal := true, size := 4, lanes := [l], dsts := [(.val 0 100, tI32)], pos := ⟨0, 0⟩ }
def flying (a : Acc) : State := { mapped (team stL) with flights := [a], nextId := 2 }

theorem hyp_LoadsReturnAndAreWritten :
    (let a := acc .load lane0
     let s := flying a
     s.acc? 1 = some a ∧ a.isLoad = true ∧ a.isLocal = true ∧ a.acq = false ∧ (∀ l ∈ a.lanes, l.stage = .sent) ∧ s.clear a = true ∧
       a.id = 1 ∧ s.fabric.msgs = [] ∧ (∀ o ∈ olderThan a.id s.flights, coreOf o.ref = coreOf a.ref → o.isStore = false) ∧ (∀ l ∈ a.lanes, s.anyPoison l.pa a.size = false) ∧
       s.loadDue a ≤ (s.die 0).clock ∧
       (let n := { s with cores := [{ at_ := ⟨0, 0⟩, team := some (team { stL with native := !false }) }] }
        (n.die 0).clock < n.loadDue a ∧ n.acc? 1 = some a ∧ n.clear a = true)) ∧
    (0 < 32 ∧ 0 < tyBytes tI32 ∧ (∃ x ∈ (acc .load lane0).lanes, x.lane = 0) ∧ (∀ x ∈ (acc .load lane0).lanes, x.lane ≠ 31) ∧
      Loc.val 0 99 ≠ Loc.val 0 100) :=
  ⟨⟨rfl, rfl, rfl, rfl, by decide, by decide +kernel, rfl, rfl, by decide +kernel, by decide +kernel, by decide +kernel,
      by decide +kernel, rfl, by decide +kernel⟩,
    by decide, by decide, ⟨lane0, by decide, rfl⟩, by decide, by decide⟩
/-- A local store; and a core that holds bytes of two lines, the older of which leaves, and one whose line is not there. -/
theorem hyp_StoresPerformAndCoalesce :
    (let a := acc .store lane0
     let s := flying a
     s.acc? 1 = some a ∧ a.id = 1 ∧ a.isStore = true ∧ a.isLocal = true ∧ a.rel = false ∧ (∀ l ∈ a.lanes, l.stage = .sent) ∧
       s.clear a = true ∧ s.fabric.msgs = []) ∧
    (let o (pa : Nat) : Onward := ⟨⟨0, 0⟩, { lane0 with pa := pa }, false, 0, none⟩
     let mine := { s0 with onward := [o 256, o 512] }.onward.filter fun (o : Onward) => o.core == (⟨0, 0⟩ : CoreRef)
     mine = [o 256] ++ [o 512] ∧ (∀ x ∈ [o 512], x.lane.pa / 128 ≠ 2) ∧ (∃ x, [o 256].getLast? = some x ∧ x.lane.pa / 128 = 2) ∧
       ∀ x ∈ mine, x.lane.pa / 128 ≠ 3) :=
  ⟨⟨rfl, rfl, rfl, rfl, rfl, by decide, by decide +kernel, rfl⟩, by decide +kernel, by decide +kernel, ⟨_, rfl, by decide +kernel⟩,
    by decide +kernel⟩

/-- A local and a global atomic; no lane; a full counter. -/
theorem hyp_AtomicsAreIssued : (Instr.atomAdd mem2, 0x98, 0) ∈ atomics mem2 ∧
    (let c : Cx := ⟨mapped (team stL), at0, team stL, stL⟩
     Runs c.s at0 c.t c.st ∧ c.lanes mem2 ≠ 0 ∧ stL.hasRoom 3 = true ∧ c.isGlobal mem2 0 = false ∧ c.lanes (off mem2) = 0 ∧
       (c.tryLanes (lanesOf (c.lanes mem2)) (ptr c mem2 false) fun s a l => (c.checkLocal 4 4 a l, s)).bad = []) ∧
    (let c : Cx := ⟨mapped (team stG), at0, team stG, stG⟩
     Runs c.s at0 c.t c.st ∧ c.isGlobal mem2 0 = true ∧
       (c.tryLanes (lanesOf (c.lanes mem2)) (ptr c mem2 true) fun s a l => s.checkAtomic c.core c.t.asid 0x98 0 4 a l).bad = []) ∧
    { stG with att := full }.hasRoom 3 = false :=
  ⟨by simp [atomics], ⟨runsM _ _ rfl, by decide +kernel, by decide +kernel, by decide +kernel, by decide +kernel, by decide +kernel⟩,
    ⟨runsM _ _ rfl, by decide +kernel, by decide +kernel⟩, by decide +kernel⟩
theorem hyp_AtomicNewValues : isFloatTy tI64 = false ∧ 0 < tyBits tI64 ∧ 2 ^ 64 - 1 < 2 ^ tyBits tI64 ∧ 0 < 2 ^ tyBits tI64 := by decide
/-- The page at 0x10000 moves, and an atomic of group 0 of its address space has been sent to it. -/
def movingLane : AccLane := { lane0 with va := 0x10100, pa := flatHbm 0 0x100, place := 3 }
def movingAcc : Acc := { acc (.atomic 0x98 0 tI32 false) movingLane with isLocal := false }
def moving : State :=
  { tables 0x5F [] { cmd := some { op := 1, asid := 7, va := 0x10000, pages := 1, recAddr := 0, todo := [(0x10000, 0)] } } with
    cores := [{ at_ := ⟨0, 0⟩, team := some (team stG) }], flights := [movingAcc] }
/-- The first request, one whose result is stored, and one whose page moves. -/
theorem hyp_AtomicAppliesOnce :
    (let a := acc (.atomic 0x98 0 tI32 false) lane0
    let s := flying a
    let e : ResultEntry :=
      { place := 0, unit := 0, addr := lane0.pa, dev := 0, ref := at0, inc := 0, lane := 0, tag := 0, result := [7, 0, 0, 0] }
    let f (s : State) : State := s.freeBelow (s.placeUnit a lane0) (s.requester a lane0) a.floor
    s.acc? 1 = some a ∧ a.id = 1 ∧ a.isAtomic = true ∧ a.rel = false ∧
      (∀ m ∈ a.lanes, m.stage ≠ .refused ∧ m.stage ≠ .mapped ∧ m.stage ≠ .denied) ∧
      (a.lanes.find? fun m => m.lane == 0 && m.stage == .sent) = some lane0 ∧ s.clear a = true ∧ a.lowerWaits lane0 = false ∧
      (f s).movingAt a lane0 = false ∧ (f { s with results := [e] }).movingAt a lane0 = false ∧
      (f { s with results := [e] }).storedResult a lane0 = some [7, 0, 0, 0] ∧ { s with results := [e] }.acc? 1 = some a ∧
      (f s).storedResult a lane0 = none ∧ lane0.place ≤ 1 ∧ (f s).storeHasRoom ((f s).placeUnit a lane0) = true) ∧
    (let f := moving.freeBelow (moving.placeUnit movingAcc movingLane) (moving.requester movingAcc movingLane) movingAcc.floor
     moving.acc? 1 = some movingAcc ∧ movingAcc.id = 1 ∧ movingAcc.isAtomic = true ∧ movingAcc.rel = false ∧
      (∀ m ∈ movingAcc.lanes, m.stage ≠ .refused ∧ m.stage ≠ .mapped ∧ m.stage ≠ .denied) ∧
      (movingAcc.lanes.find? fun m => m.lane == 0 && m.stage == .sent) = some movingLane ∧ moving.clear movingAcc = true ∧
      movingAcc.lowerWaits movingLane = false ∧ f.movingAt movingAcc movingLane = true) :=
  ⟨⟨rfl, rfl, rfl, rfl, by decide, rfl, by decide +kernel, by decide +kernel, rfl, rfl, by decide +kernel, rfl, by decide +kernel, by decide,
    by decide +kernel⟩, rfl, rfl, rfl, rfl, by decide +kernel, rfl, by decide +kernel, by decide +kernel, by decide +kernel⟩
/-- The last response of an atomic, and one before it; a round at the host; an access to host memory that has not come back. -/
theorem hyp_AtomicResultsAndCompletions :
    (let back (a : Acc) : Acc := { a with lanes := a.lanes.map fun (l : AccLane) => l.replied ((flying a).replyTo 1 l.lane) }
     let a := acc (.atomic 0x98 0 tI32 false) { lane0 with stage := .applied }
     let b := { a with lanes := a.lanes ++ [{ lane0 with lane := 1 }] }
     (flying a).acc? 1 = some a ∧ a.id = 1 ∧ a.isAtomic = true ∧ a.acq = false ∧ (flying a).fabric.msgs = [] ∧ (back a).completes = true ∧
       ((flying a).early (back a) ((flying a).atomicDue (back a))) = false ∧
       (let n := { flying a with cores := [{ at_ := ⟨0, 0⟩, team := some (team { stL with native := !false }) }] }
        n.early (back a) (n.atomicDue (back a)) = true) ∧
       (flying b).acc? 1 = some b ∧ b.isAtomic = true ∧ b.acq = false ∧ (back b).completes = false) ∧
    (LaneStage.sent ≠ .applied) ∧
    (let l : AccLane := { lane0 with stage := .round, place := 4, loc := 2 }
     let a := acc (.atomic 0x98 0 tI32 false) l
     (flying a).acc? 1 = some a ∧ (a.lanes.find? fun l => l.lane == 0 && l.stage == .round && l.place == 4) = some l ∧
       (a.lanes.find? fun l => l.lane == 0 && l.loc == 2 && l.placed && l.stage != .done) = some l ∧ a.isAtomic = true ∧ l.stage = .round) ∧
    (let l : AccLane := { lane0 with loc := 2 }
     let a := acc .load l
     (flying a).acc? 1 = some a ∧ (a.lanes.find? fun l => l.lane == 0 && l.loc == 2 && l.placed && l.stage != .done) = some l ∧
       a.isLoad = true) ∧
    s0.floorOf at0 = some 0 :=
  ⟨⟨rfl, rfl, rfl, rfl, by decide, by decide +kernel, by decide +kernel, rfl, rfl, rfl, by decide⟩, by decide, ⟨rfl, rfl, rfl, rfl, rfl⟩, ⟨rfl, rfl, rfl⟩, by decide +kernel⟩

theorem hyp_BallotsVotesShufflesAndMatches : Runs s0 at0 t0 st0 := runs_s0
theorem hyp_IntegerReductionsAndScans : Runs s0 at0 t0 st0 := runs_s0
theorem hyp_FloatReductionsAndScans : Runs s0 at0 t0 st0 ∧ (∀ i f, c0.trapping (c0.outs i f) = []) := ⟨runs_s0, fun _ _ => no_trap _⟩

/-- A record; and a record stream with some records and some groups that wait. -/
def rec0 : RsRecord := ⟨9, 0, none⟩
def withRecs (n : Nat) (waiting : List Nat) : Team :=
  { team (group 1 [(tI1, [1]), (tI32, [3])]) with recs := [{ recs := List.replicate n rec0, waiting := waiting }, {}, {}, {}] }
/-- Room for one more record, and none; a partial pop, and a full one with and without a record, first in line and not. -/
theorem hyp_RecordStreams :
    let i : Ins := { form := 0x03, attr := .arith 0 false false 0, src := vs 2 }
    let st := group 1 [(tI1, [1]), (tI32, [3])]
    let c : Cx := ⟨machine (withRecs 0 []), at0, withRecs 0 [], st⟩
    Runs (machine (withRecs 1023 [])) at0 (withRecs 1023 []) st ∧ 1023 + ((parts c i).filter fun l => c.arg i 0 1 l == 1).length ≤ 1024 ∧
      1024 < 1024 + ((parts c i).filter fun l => c.arg i 0 1 l == 1).length ∧
      ((withRecs 1024 []).recs[0]?).map (fun x => x.recs.length) = some 1024 ∧
      (i32 1 (op := 4)).attr.low / 4 = 1 ∧ i.attr.low / 4 ≠ 1 ∧ (parts c i).length = 1 ∧
      ((withRecs 1 [0]).recs[0]?).map (fun x => x.waiting.head?) = some (some 0) ∧
      ((withRecs 0 [3]).recs[0]?).map (fun x => (x.recs.length, x.waiting.contains 0)) = some (0, false) :=
  ⟨runs0 _ _ rfl, by decide +kernel, by decide +kernel, by decide +kernel, by decide, by decide, by decide +kernel, by decide +kernel,
    by decide +kernel⟩
/-- A quiet group arrives first; one whose generation is over returns. -/
theorem hyp_RegroupArrivesAndReturns :
    (Runs s0 at0 t0 st0 ∧ st0.mark = none ∧ st0.quiet = true ∧ t0.regroup.arrived = []) ∧
    (let st : Stream := { st0 with mark := some (.regroup 0) }
     let t : Team := { team st with regroup := { gen := 1 } }
     Runs (machine t) at0 t st ∧ st.mark = some (.regroup 0) ∧ (0 : BitVec 32) ≠ t.regroup.gen ∧ st.active ≠ 0) ∧
    (let st : Stream := { st0 with mark := some (.regroup 0), active := 0 }
     let t : Team := { team st with regroup := { gen := 1 } }
     Runs (machine t) at0 t st ∧ st.mark = some (.regroup 0) ∧ (0 : BitVec 32) ≠ t.regroup.gen ∧ st.active = 0) :=
  ⟨⟨runs_s0, rfl, rfl, rfl⟩, ⟨runs0 _ _ rfl, rfl, by decide, by decide⟩, runs0 _ _ rfl, rfl, by decide, rfl⟩

/-- Attributes of a control instruction: its code byte. -/
def ctl (b : Byte) (n : Nat) : Ins := { form := 0x03, attr := .ctl b, src := vs n }

theorem hyp_GuardedOffInstructionsMoveOn : Runs s0 at0 t0 st0 ∧ ¬ performed c0 (off (ctl 0 1)) := ⟨runs_s0, by decide +kernel⟩

/-- A branch of a native stream, whose targets are bundles 5 and 6 and whose reconvergence is bundle 7. -/
def nat1 (active : BitVec 32) : Stream := { group active [(tI1, [1, 0])] with native := !false }
def brc1 : Ins := { attr := .ctl 0, src := [.val 3, .lit 5, .lit 6, .lit 7] }
def cxOf (st : Stream) : Cx := ⟨machine (team st), at0, team st, st⟩
/-- The lanes of the true path. -/
def yesOf (st : Stream) (i : Ins) : BitVec 32 := maskOf fun l => st.active.getLsbD l && (cxOf st).arg i 0 1 l == 1

theorem hyp_BranchesCallsAndEnds :
    (∀ st, Runs (machine (team st)) at0 (team st) st) ∧ (nat1 3).native = true ∧
    (yesOf (nat1 1) brc1 ≠ 0 ∧ (nat1 1).active &&& ~~~yesOf (nat1 1) brc1 = 0) ∧
    (yesOf (nat1 2) brc1 = 0 ∧ (nat1 2).active &&& ~~~yesOf (nat1 2) brc1 ≠ 0) ∧
    (yesOf (nat1 3) brc1 ≠ 0 ∧ (nat1 3).active &&& ~~~yesOf (nat1 3) brc1 ≠ 0 ∧ yesOf (nat1 3) brc1 &&& (nat1 3).ended = 0 ∧
      (cxOf (nat1 3)).warg brc1 3 24 ≠ 0xFFFFFF ∧ (cxOf (nat1 3)).warg brc1 1 24 ≠ (cxOf (nat1 3)).warg brc1 3 24 ∧
      (cxOf (nat1 3)).warg brc1 2 24 ≠ (cxOf (nat1 3)).warg brc1 3 24 ∧ (nat1 3).stack = []) ∧
    (let st := group 1 [(tI1, [1])]
     st.native = false ∧ st.active ≠ 0 ∧ yesOf st brc1 = st.active ∧ brc1.attr.ctlByte.getLsbD 0 = false) ∧
    (nothingDue st0 ∧ at0.idx ≠ 32 ∧ popLive (st0.ended ||| st0.active) st0.stack = none) :=
  ⟨fun st => runs0 _ st rfl, rfl, by decide +kernel, by decide +kernel, by decide +kernel, by decide +kernel, ⟨rfl, rfl⟩, by decide, rfl⟩

/-- A team with some entries in queue 0, whose producer and consumer is group 0, and some tokens. -/
def queue (kind n : Nat) : StreamQueue := { kind := kind, prod := 0, cons := 0, entries := List.replicate n ([5], none) }
def withQueue (q : StreamQueue) (tokens : Nat) : Team :=
  { t0 with queues := q :: List.replicate 7 {}, lc := { count := tokens, links := List.replicate tokens none } }
theorem hyp_QueuesAndTokens :
    (∀ t, t.groups = t0.groups → Runs (machine t) at0 t st0 ∧ performed ⟨machine t, at0, t, st0⟩ (ctl 0 1)) ∧
    ((withQueue (queue 1 15) 7).queues[0]? = some (queue 1 15) ∧ (queue 1 15).kind ≠ 0 ∧ (queue 1 15).prod = at0.idx ∧
      (queue 1 15).cons = at0.idx ∧ (queue 1 15).entries.length < 16) ∧ 16 ≤ (queue 1 16).entries.length ∧ (queue 0 0).kind = 0 ∧
    { queue 1 0 with prod := 1 }.prod ≠ at0.idx ∧ { queue 1 0 with cons := 1 }.cons ≠ at0.idx ∧
    (queue 1 1).entries = ([5], none) :: [] ∧ (queue 1 0).entries = [] ∧
    ((withQueue (queue 1 0) 7).fifo 0).count < 8 ∧ 8 ≤ ((withQueue (queue 1 0) 8).fifo 0).count ∧
    ((withQueue (queue 1 0) 1).fifo 0).fresh < ((withQueue (queue 1 0) 1).fifo 0).count ∧
    ((withQueue (queue 1 0) 0).fifo 0).count ≤ ((withQueue (queue 1 0) 0).fifo 0).fresh ∧
    (let x : TokenFifo := { count := 1, fresh := 1, links := [none] }
     x.count ≤ x.fresh) :=
  ⟨fun t h => ⟨runs0 t st0 (by rw [h]; rfl), rfl⟩, by decide, by decide, by decide, by decide, by decide, by decide, by decide,
    by decide, by decide, by decide, by decide, by decide⟩

/-- A team whose group 0 has come so far at barriers. -/
def atBar (mark : Option Arrival) (stage : List Nat) (gen : BitVec 32) : Team :=
  { team { st0 with mark := mark, stage := stage, prod := some (1, 2) } with
    bars := { gen := gen } :: List.replicate 15 {}, rdv := { gen := gen } }
def cluster0 : Cluster := { key := 0, launch := 0, number := 4, cores := [⟨0, 0⟩], live := [0] }
def clustered (t : Team) : State :=
  { mapped t with walker := { launches := [{ key := 0, queue := 0, record := { flags := 4, phases := 2 }, asid := 7 }], clusters := [cluster0] } }
theorem hyp_BarriersRendezvousAndGenerations :
    (∀ t st, t.groups[0]? = some st → Runs (clustered t) at0 t st) ∧
    (let s := clustered t0
     -- no mark, with and without .nofence; nothing staged, and a fence that is complete
     st0.mark = none ∧ (ctl 0x10 1).attr.ctlByte.getLsbD 4 = true ∧ (ctl 0 1).attr.ctlByte.getLsbD 4 = false ∧ st0.stage = [] ∧
       (∃ id rest, { st0 with stage := [9] }.stage = id :: rest ∧ s.acc? id = none) ∧ nothingDue st0 ∧ st0.cp = [] ∧ st0.mx = [] ∧
       (∃ x, s.cluster? t0.cluster = some x)) ∧
    -- a generation that is over
    ((atBar (some (.bar 0 0)) [] 1).bar 0).gen ≠ 0 ∧ (atBar (some (.rdv 0)) [] 1).rdv.gen ≠ 0 ∧
    (∃ x, (clustered t0).cluster? t0.cluster = some x ∧ (x.bar 0).gen ≠ 7) ∧
    -- bar.wt of a generation that is over, with its producer, and of the current one
    ((atBar none [] 1).bar 0).gen ≠ BitVec.ofNat 32 (c0.warg (ctl 0 1) 0 32) ∧
    (∃ p, { st0 with prod := some (1, 2) }.prod = some p) ∧
    ((atBar none [] 6).bar 0).gen = BitVec.ofNat 32 (c0.warg (ctl 0 1) 0 32) ∧
    -- arrivals: the last of two, and the first
    (∃ b, (atBar none [] 1).bars[0]? = some b ∧
      b.arrived + 1 ≠ (if b.arrived = 0 then (if 1 ≤ 2 ∧ 2 ≤ 1 + t0.groups.length then 2 else 1 + t0.groups.length) else b.target)) ∧
    (let t := { t0 with bars := [{ arrived := 1, target := 2 }], groups := [{ st0 with wait := some (.bar 0 0) }] }
     ∃ b, t.bars[0]? = some b ∧ b.arrived + 1 = (if b.arrived = 0 then 0 else b.target) ∧
       ∃ st, t.groups[0]? = some st ∧ st.wait = some (.bar 0 b.gen)) :=
  ⟨fun t st h => ⟨rfl, rfl, h⟩, ⟨rfl, by decide, by decide, rfl, ⟨9, [], rfl, by decide +kernel⟩, ⟨rfl, rfl⟩, rfl, rfl, cluster0, rfl⟩,
    by decide +kernel, by decide +kernel, ⟨cluster0, rfl, by decide +kernel⟩, by decide +kernel, ⟨_, rfl⟩, by decide +kernel, ⟨_, rfl, by decide +kernel⟩,
    ⟨_, rfl, by decide, _, rfl, rfl⟩⟩

/-- wait on GL and on ST with counts at the threshold and above it. -/
theorem hyp_ModeCountersAndSpecialRegisters :
    Runs s0 at0 t0 st0 ∧ performed c0 (ctl 1 1) ∧ nothingDue st0 ∧
    (((ctl 1 1).attr.ctlByte.extractLsb' 0 3).toNat ≠ 2 ∧ ({ st0 with gl := full.take 6 }.path 1).length ≤ c0.warg (ctl 1 1) 0 32 ∧
      c0.warg (ctl 1 1) 0 32 < ({ st0 with gl := full.take 7 }.path 1).length) ∧
    (((ctl 2 1).attr.ctlByte.extractLsb' 0 3).toNat = 2 ∧ st0.ackLost = false ∧
      ({ st0 with st := full.take 6 }.path 2).length ≤ c0.warg (ctl 2 1) 0 32) ∧
    (∀ x ∈ st0.landings, x.flags = 0) ∧ (∃ k, (clustered t0).cluster? t0.cluster = some k) ∧ (∃ x, t0.idx[5]? = some x) :=
  ⟨runs_s0, rfl, ⟨rfl, rfl⟩, by decide +kernel, by decide +kernel, by simp [st0, group], ⟨cluster0, rfl⟩, ⟨0, rfl⟩⟩

/-- Kernel debug for the job of the tests. -/
def debugged (s : State) : State := { s with trace := { kdbg := true, kdbgAsid := 7 } }
theorem hyp_TrapsAndBreakpoints : Runs s0 at0 t0 st0 ∧ performed c0 (ctl 5 1) ∧ Runs (debugged s0) at0 t0 st0 ∧
    (debugged s0).kdbgFor t0.asid = true ∧ s0.kdbgFor t0.asid = false := ⟨runs_s0, rfl, ⟨rfl, rfl, rfl⟩, by decide, by decide⟩
theorem hyp_TakingATrap :
    s0.team? (coreOf at0) = some t0 ∧ t0.stream? at0.idx = some st0 ∧ st0.issuing = false ∧ t0.capture = none ∧
    ((debugged s0).kdbgFor t0.asid = true ∧ holdsTeam 0x18 = true) ∧ (s0.kdbgFor t0.asid = false ∧ holdsTeam 0x21 = false) ∧
    (∀ k ∈ s0.cores, ∀ u, k.team = some u → u.asid = t0.asid → u.atRest = true) ∧
    (let k : TrapRecord := { stream := 0, code := 0x18, pos := ⟨0, 0⟩ }
     { t0 with trapped := some k }.trapped = some k ∧ k.stream = at0.idx ∧
       (machine { t0 with trapped := some k }).team? (coreOf at0) = some { t0 with trapped := some k }) :=
  ⟨rfl, rfl, rfl, rfl, ⟨by decide, by decide⟩, ⟨by decide, by decide⟩, by
    intro k hk u hu _
    simp only [s0, machine, List.mem_singleton] at hk
    subst hk
    cases hu
    rfl, rfl, rfl, rfl⟩

/-- phase: a launch without EXCL, a phase beyond the plan, the current phase, another phase. launch: a record that is not
aligned, a queue that is off, a full ring, and a ring with room and a record in the team's own memory. -/
theorem hyp_PhasesAndLaunches :
    let ph (p : Nat) : Team := team (group 1 [(tI32, [p]), (tPtrL, [0x100])])
    let q : LaunchQueue := { en := true, asid := 7, log2n := 1 }
    let st : Stream := { group 1 [(tI32, [0]), (tI64, [0x10100])] with stage := [9] }
    let c : Cx := ⟨{ mapped (team st) with walker := { queues := [q] } }, at0, team st, st⟩
    (∃ l, (clustered (ph 0)).launch? 0 = some l ∧ l.record.flags / 4 % 2 = 1 ∧ l.record.phases ≤ 2 ∧ 1 < l.record.phases ∧
      (ph 0).phase = 0 ∧ (ph 0).change = none ∧ 1 ≠ (ph 0).phase) ∧
    (∃ l, (mapped (ph 0)).launch? 0 = some l ∧ l.record.flags / 4 % 2 = 0) ∧
    (c.warg (ctl 0 2) 1 64 % 64 = 0 ∧ c0.warg (ctl 0 2) 1 64 % 64 ≠ 0 ∧ (∃ id rest, st.stage = id :: rest ∧ c.s.acc? id = none) ∧
      c.s.walker.queues[c.warg (ctl 0 2) 0 32]? = some q ∧ ({} : LaunchQueue).en = false ∧ q.asid.toNat = c.t.asid ∧
      (q.tail - q.head).toNat < q.size ∧ q.size ≤ ({ q with tail := 32 }.tail - q.head).toNat ∧
      ∃ s' bytes, ∀ go, c.readRecord true 256 64 (c.warg (ctl 0 2) 1 64) go = go s' bytes) := by
  intro ph q st c
  exact
  ⟨⟨_, rfl, by decide, by decide, by decide, rfl, rfl, by decide⟩, ⟨_, rfl, by decide⟩, by decide +kernel, by decide +kernel,
    ⟨9, [], rfl, by decide +kernel⟩, by decide +kernel, rfl, rfl, by decide +kernel, by decide +kernel,
    Cx.readRecord_reads (by decide +kernel) (by decide +kernel) (by decide +kernel) (by decide +kernel)⟩

/-- A team of a group with three i32 values, and its state in a machine with the page, the job and the sail. -/
def stW (ws : List Nat) : Stream := group 1 (ws.map fun n => (tI32, [n]))
def cxM (t : Team) (st : Stream) : Cx := ⟨mapped t, at0, t, st⟩
/-- A group with a number and a pointer to 0x100 of its own memory. -/
def stR (n : Nat) : Stream := group 1 [(tI32, [n]), (tPtrL, [0x100])]
def mxTeam (st : Stream) (m : MatrixEngine) : Team := { team st with matrix := m }
def nest0 : MxOp := .nest 0 {}
def mxc (op : MxOp) : MxCmd := { id := 1, op := op, pos := ⟨0, 0⟩ }

theorem hyp_MatrixInstructions :
    (∀ t st, t.groups[0]? = some st → Runs (mapped t) at0 t st ∧ performed (cxM t st) (ctl 0 2)) ∧
    -- a command: tile 11 and room, tile 12, and a full MXQ
    (let c := cxM (team (stW [11, 0])) (stW [11, 0])
     (Instr.mxZero (ctl 0 1), [c.warg (ctl 0 1) 0 32], false, false, MxOp.zero (c.warg (ctl 0 1) 0 32)) ∈ matrixCommands c (ctl 0 1) ∧
       (∀ k ∈ [c.warg (ctl 0 1) 0 32], k ≤ 11) ∧ c.st.hasRoom 5 = true ∧ c.t.matrix.queue.length < 32 ∧
       11 < (cxM (team (stW [12, 0])) (stW [12, 0])).warg (ctl 0 1) 0 32 ∧
       32 ≤ (mxTeam c.st { queue := List.replicate 32 (mxc nest0) }).matrix.queue.length) ∧
    -- mx.lay
    (∃ s' bytes, ∀ go, (cxM (team (stR 0)) (stR 0)).readRecord false 32 32 ((cxM (team (stR 0)) (stR 0)).warg (ctl 0 2) 1 32) go = go s' bytes) ∧
    (cxM (team (stR 0)) (stR 0)).isGlobal (ctl 0 2) 1 = false ∧
    -- mx.spec: tiles 0 and 1, tiles of both, and an open region
    (tilesOf 1 = [0] ∧ tilesOf 2 = [1] ∧ (∀ k ∈ tilesOf 1 ++ tilesOf 2, k ≤ 11) ∧ (tilesOf 1).length = (tilesOf 2).length ∧
      (∀ k ∈ tilesOf 1, k ∉ tilesOf 2) ∧ (team (stW [1, 2])).matrix.region = none ∧ (tilesOf 3).length ≠ (tilesOf 4).length ∧
      (∃ k ∈ tilesOf 3, k ∈ tilesOf 6) ∧ (mxTeam (stW [1, 2]) { region := some ⟨0, 0, []⟩ }).matrix.region.isSome = true) ∧
    -- mx.commit and mx.drop: the open region's tag, and another
    (∃ g, (mxTeam (stW []) { region := some ⟨0, 0, []⟩ }).matrix.region = some g ∧ g.tag = ((ctl 0 0).attr.ctlByte.extractLsb' 0 3).toNat ∧
      g.tag ≠ ((ctl 1 0).attr.ctlByte.extractLsb' 0 3).toNat) ∧
    -- mx.fw and mx.stat
    (mxTeam (stW [5]) { fwq := List.replicate 15 0 }).matrix.fwq.length < 16 ∧ 16 ≤ (mxTeam (stW [5]) { fwq := List.replicate 16 0 }).matrix.fwq.length ∧
    (ctl 2 0).attr.ctlByte.getLsbD 0 = false ∧ (ctl 1 0).attr.ctlByte.getLsbD 0 = true :=
  ⟨fun t st h => ⟨runsM t st h, rfl⟩, ⟨by simp [matrixCommands, ctl, Attr.ctlByte], by decide +kernel, by decide +kernel, by decide, by decide +kernel, by decide⟩,
    Cx.readRecord_reads (by decide +kernel) (by decide +kernel) (by decide +kernel) (by decide +kernel), by decide +kernel,
    by decide +kernel, ⟨_, rfl, by decide, by decide⟩, by decide, by decide, by decide, by decide⟩

/-- A descriptor of one row of four i32 elements, and a load that moves it from 0x10100 to 0x200. -/
def desc0 : Descriptor :=
  { ext := [4, 1, 1, 1], sstr := [0, 0, 0], dstr := [0, 0, 0], stype := tI32, dtype := tI32, cvtRm := 1, cvtSat := false, sfw := 0, dfw := 0
    sscale := 0, dscale := 0 }
def cpc : CopyCmd :=
  { id := 1, op := .load, stream := 0, pos := ⟨0, 0⟩, desc := some desc0, slot := 0, dst := 0x200, src := 0x10100, dstG := false, srcG := true
    push := true, pop := false, scope := 0, ef := false, spec := none, release := none }
def withLdq (k : List CopyCmd) : Team := { team (stR 0) with copy := { ldq := { cmds := k } } }

theorem hyp_CopyInstructions :
    (∀ t st, t.groups[0]? = some st → Runs (mapped t) at0 t st ∧ performed (cxM t st) (ctl 0 2)) ∧
    (let c := cxM (team (stR 0)) (stR 0)
     c.t.copy.names (c.warg (ctl 0 2) 0 32) = false ∧ c.isGlobal (ctl 0 2) 1 = false ∧
       ∃ s' bytes, ∀ go, c.readRecord false 128 128 (c.warg (ctl 0 2) 1 32) go = go s' bytes) ∧
    (let c := cxM (withLdq (List.replicate 63 cpc)) (stR 0)
     (Instr.cpSt (ctl 0 3), 1, 2, true, false, CopyOp.store) ∈ copyCommands c (ctl 0 3) ∧
     (Instr.cpLd (ctl 0 3), 0, 2, false, c.isGlobal (ctl 0 3) 1, CopyOp.load) ∈ copyCommands c (ctl 0 3) ∧ nothingDue c.st ∧
       c.st.hasRoom 4 = true ∧ (c.t.copy.queue 0).cmds.length < 64 ∧ (c.t.copy.queue 1).cmds.length < 64 ∧
       (ctl 0 3).attr.ctlByte.getLsbD 7 = false) :=
  ⟨fun t st h => ⟨runsM t st h, rfl⟩, ⟨by decide +kernel, by decide +kernel,
    Cx.readRecord_reads (by decide +kernel) (by decide +kernel) (by decide +kernel) (by decide +kernel)⟩,
    by simp [copyCommands], by simp [copyCommands], ⟨rfl, rfl⟩, by decide +kernel, by decide, by decide, by decide⟩

/-- The machine whose job holds the sail privilege, with a sail of two panels. -/
def privileged (t : Team) : State :=
  { mapped t with
    sails := [{ sail0 with parts := [{ die := 0, panels := [(0, 5120), (0, 5121)] }] }], sailRegs := { pasid := [(7, true)] } }
/-- A cluster sail with a dirty line whose home sail, 5, is replicated. -/
def dirtySails : List Sail :=
  [{ id := 9, kind := 2, lineCode := 0, waysCode := 0, policy := 0, cluster := some 0
     parts := [{ die := 255, panels := [(0, 0)], lines := [{ entry := 0, set := 0, line := 1, valid := 1, dirty := 1, data := List.replicate 64 3,
                                                              homeSail := 5 }] }] },
   { sail0 with id := 5, kind := 1 }]
/-- Host memory in which the trace context gives the job the buffer of 64 KiB at 0x10000, enabled and sampled. -/
def traced (t : Team) (pin : Bool) : State :=
  { mapped t with
    trace := { ctx := 0x1000 }, mem := [(flatHost 0x10E2, 1), (flatHost 0x10E8, 1), (flatHost 0x10EC, 3)]
    cores := [{ at_ := ⟨0, 0⟩, team := some t, split := { locBytes := 4096 }, tlb := [{ leaf0 with entry := if pin then 0x3F else 0x1F }] }] }

theorem hyp_ObservationAndSailInstructions :
    (∀ t st, t.groups[0]? = some st → (Runs (privileged t) at0 t st ∧ performed ⟨privileged t, at0, t, st⟩ (ctl 1 3)) ∧ Runs (mapped t) at0 t st) ∧
    (∃ p ∈ (privileged t0).sailRegs.pasid, p.2 = true ∧ p.1.toNat = t0.asid) ∧
    (¬ ∃ p ∈ (mapped t0).sailRegs.pasid, p.2 = true ∧ p.1.toNat = t0.asid) ∧
    -- sail.def
    (let st := group 1 [(tPtrL, [0x100])]
     let c : Cx := ⟨privileged (team st), at0, team st, st⟩
     c.isGlobal (ctl 0 1) 0 = false ∧ ∃ s' bytes, ∀ go, c.readRecord false 64 64 (c.warg (ctl 0 1) 0 32) go = go s' bytes) ∧
    -- a change that begins, and one that is refused; .wait and not; the key of a system sail
    (let c : Cx := ⟨privileged (team (stW [0, 0, 1])), at0, team (stW [0, 0, 1]), stW [0, 0, 1]⟩
     c.st.stage = [] ∧ c.st.st = [] ∧ (c.s.sailReef (c.sailKey 0) 0 0 1 c.core).1 = 0 ∧ (c.s.sailReef (c.sailKey 0) 0 0 0 c.core).1 ≠ 0 ∧
       c.sailKey 0 = .sys 0 ∧ (ctl 0 3).attr.ctlByte.getLsbD 0 = false ∧ (ctl 1 3).attr.ctlByte.getLsbD 0 = true ∧
       (c.s.sailWriteBack (c.sailKey 0) c.core false).2 = [] ∧ (∃ p, { c.st with prod := some (1, 2) }.prod = some p)) ∧
    (let c : Cx := ⟨{ privileged (team (stW [9])) with sails := dirtySails }, at0, team (stW [9]), stW [9]⟩
     (c.s.sailWriteBack (c.sailKey (c.warg (ctl 0 1) 0 32)) c.core false).2 ≠ []) ∧
    -- tr.start, with the window closed and open
    ((traced t0 true).traceBuf t0.asid = some (0x10000, 65536, true) ∧
      (traced t0 true).bufferPinned ⟨0, 0⟩ t0.asid 0x10000 65536 = true ∧ t0.capture = none ∧ { t0 with capture := some {} }.capture.isSome = true) :=
  ⟨fun t st h => ⟨⟨⟨rfl, rfl, h⟩, rfl⟩, rfl, rfl, h⟩, by decide, by decide,
    ⟨by decide +kernel, Cx.readRecord_reads (by decide +kernel) (by decide +kernel) (by decide +kernel) (by decide +kernel)⟩,
    ⟨rfl, rfl, by decide +kernel, by decide +kernel, by decide +kernel, by decide, by decide, by decide +kernel, _, rfl⟩,
    by decide +kernel, by decide +kernel, by decide +kernel, rfl, rfl⟩

/-- The result of a step that may fail, when it does not. -/
theorem is_ok {ε α : Type} {e : Except ε α} (h : e.toBool = true) : ∃ a, e = .ok a := by
  cases e with
  | error => cases h
  | ok a => exact ⟨a, rfl⟩

/-- A latch of reset's slots; and a command that has started. -/
def latch0 : MxLatch := { slots := List.replicate 8 {}, fwb := 0, nest := List.replicate 6 {} }
def going (op : MxOp) (index : Nat) : MatrixEngine :=
  { queue := [{ mxc op with started := true, index := index }], latch := some latch0 }
/-- A nest of one level and two steps, at its first. -/
def latch2 : MxLatch := { latch0 with nest := { ext := 2 } :: List.replicate 5 {} }
def go2 : MatrixEngine := { going (.go 0x2000 1 false) 0 with latch := some latch2 }
def mapT (m : MatrixEngine) : State := mapped (mxTeam (stR 0) m)
/-- An optional value that passes a test. -/
theorem some_such {α : Type} {o : Option α} {P : α → Prop} [DecidablePred P] (h : (o.any fun a => decide (P a)) = true) :
    ∃ a, o = some a ∧ P a := by
  cases o with
  | none => cases h
  | some a => exact ⟨a, rfl, of_decide_eq_true h⟩
theorem all_such {α : Type} {o : Option α} {P : α → Prop} [DecidablePred P] (h : (o.all fun a => decide (P a)) = true) :
    ∀ a, o = some a → P a := by
  rintro a rfl
  exact of_decide_eq_true h

/-- A copy command whose first chunk is in flight: not moved yet, or with its bytes acknowledged. -/
def ch0 : Chunk := { num := 0, row := 0, first := 0, count := 4, pages := [⟨0x1F, 0x10000, 65536, none⟩] }
def flown (m : Bool) : CopyCmd := { cpc with started := true, row := 1, flying := [{ ch0 with moved := m }] }
def haul0 : Haul := ⟨⟨0, 0⟩, withLdq [flown false], flown false, desc0, ch0⟩
/-- The result that the place of that chunk keeps. -/
def kept0 : ResultEntry :=
  let s := mapped (withLdq [flown false])
  let w := s.requester (s.haulRequest haul0 0).1 (s.haulRequest haul0 0).2
  { place := 0, unit := 0, addr := 0, dev := w.1, ref := w.2.1, inc := w.2.2.1, lane := w.2.2.2, tag := 0, result := [] }
/-- The parts in the order of the statement: completion of a matrix command; of a copy command; the head of MXQ for a setup
command, for a tile command without and with its word and with a release on its way; the running command at its effect, at a
step, the team resident or being saved, and after its last; the start of a chunk; the landing of a chunk, moved, applied
already, and neither. -/
theorem hyp_EngineSteps :
    (∀ m, (mapT m).team? ⟨0, 0⟩ = some (mxTeam (stR 0) m)) ∧ (∀ l, (mapped (withLdq l)).team? ⟨0, 0⟩ = some (withLdq l)) ∧
    (let k : MxCmd := { mxc (.zero 0) with started := true, finished := true, push := true }
     k.finished = true ∧ k.dead = false ∧ ({ team (stR 0) with cs := { count := 7 } } : Team).cs.count < 8) ∧
    (let k := { cpc with started := true, row := 1 }
     (∀ n, k.op ≠ .fence n) ∧ k.allStarted = true ∧ k.flying = [] ∧ ((withLdq [k]).copy.queue 0).cmds = k :: [] ∧
       (∀ f, ((withLdq [k]).copy.queue 0).halted = some f → f.cmd ≠ k.id) ∧ ((withLdq [k]).fifo 0).count < 8) ∧
    (let m : MatrixEngine := { queue := [mxc nest0] }
     m.stopped = false ∧ (mapT m).mxHeld (mxTeam (stR 0) m) = false ∧ (mxTeam (stR 0) m).change = none ∧
       (m.queue.find? fun k => !k.started) = some (mxc nest0) ∧ (∀ id, (mxc nest0).release = some id → (mapT m).acc? id = none) ∧
       (mxc nest0).op.isSetup = true) ∧
    (let m : MatrixEngine := { queue := [mxc (.mma 0)] }
     (m.queue.find? fun k => !k.started) = some (mxc (.mma 0)) ∧ (mxc (.mma 0)).op.isSetup = false ∧ (mxc (.mma 0)).op.isTile = true ∧
       (∀ o ∈ m.queue, o.started = true → o.finished = true) ∧ (mxc (.mma 0)).regionWaits m.shadow = false ∧ m.fwq = [] ∧
       { m with fwq := [0] }.fwq ≠ [] ∧ (mxc (.mma 0)).pop = false) ∧
    (∃ id, { mxc nest0 with release := some 1 }.release = some id ∧ ((flying (acc .store lane0)).acc? id).isSome = true) ∧
    (let run (op : MxOp) (n : Nat) : Prop := ∃ k, ((going op n).queue.find? fun k => k.started && !k.finished) = some k ∧
       (going op n).latch = some latch0 ∧ (going op n).busy = 0 ∧ k.failed = false ∧ k.paused = false ∧ k.dead = false ∧ k.index = n ∧ k.op = op
     run (.zero 0) 0 ∧ (MxOp.zero 0).steps latch0 = 0 ∧ run (.mma 0) 0 ∧ 0 < (MxOp.mma 0).steps latch0 ∧ run (.mma 0) 1 ∧
       (MxOp.mma 0).steps latch0 ≠ 0 ∧ (MxOp.mma 0).steps latch0 ≤ 1) ∧
    (let k : MxCmd := { mxc (.go 0x2000 1 false) with started := true }
     let u := (mapT go2).runStep ⟨0, 0⟩ go2 k latch2
     (go2.queue.find? fun k => k.started && !k.finished) = some k ∧ go2.latch = some latch2 ∧ 0 + 1 < k.op.steps latch2 ∧
       u.mxHeld (mxTeam (stR 0) go2) = false ∧ u.mxHeld { mxTeam (stR 0) go2 with saving := true } = true) ∧
    (let k := { cpc with started := true }
     let s := (mapped (withLdq [k])).settleCopies ⟨0, 0⟩ 0
     let k' := { k with headAt := some (k.headAt.getD s.now) }
     let s' := s.setCmd ⟨0, 0⟩ 0 k'
     let ch : Chunk := { num := 0, row := 0, first := 0, count := k'.chunkCount desc0 0 0 none }
     let r := s'.checkChunk ⟨0, 0⟩ (withLdq [k]) k' desc0 ch
     s.team? ⟨0, 0⟩ = some (withLdq [k]) ∧ (withLdq [k]).saving = false ∧ (withLdq [k]).trapped = none ∧ (withLdq [k]).change = none ∧
       (∀ l, s.launch? (withLdq [k]).launch = some l → l.status = none) ∧ ((withLdq [k]).copy.queue 0).halted = none ∧
       (((withLdq [k]).copy.queue 0).cmds.find? fun k => !k.allStarted) = some k ∧
       s'.mustWait ⟨0, 0⟩ (withLdq [k]) [] (s'.chunkSpans ⟨0, 0⟩ (withLdq [k]) k' desc0 0 0 ch.count none) = false ∧
       s'.mustWait ⟨0, 0⟩ (withLdq [k]) [k] (s'.chunkSpans ⟨0, 0⟩ (withLdq [k]) k' desc0 0 0 ch.count none) = true ∧
       r.bad = [] ∧ r.missed = [] ∧ r.moving = false) ∧
    (let t := withLdq [flown false]
     let s := mapped t
     let r := s.haulRequest haul0 0
     ((t.copy.queue 0).cmds.find? fun k => k.id == 1) = some (flown false) ∧ (flown false).chunk? 0 = some ch0 ∧
       (flown true).chunk? 0 = some { ch0 with moved := true } ∧ (∀ a ∈ s.flights, a.id ∉ ch0.acks) ∧ ch0.moved = false ∧
       (flown false).orderOk desc0 ch0 = true ∧ ch0.lostAt = none ∧ s.storedResult r.1 r.2 = none ∧
       (({ s with results := [kept0] } : State).storedResult r.1 r.2).isSome = true ∧ ∃ q, s.haul haul0 = .ok q) := by
  refine ⟨fun m => rfl, fun l => rfl, by decide, ⟨by simp [cpc], by decide, rfl, rfl, by decide, by decide⟩,
    ⟨rfl, by decide +kernel, rfl, rfl, by decide, rfl⟩, ⟨rfl, rfl, rfl, by decide, by decide +kernel, rfl, by decide, rfl⟩,
    ⟨1, rfl, by decide +kernel⟩,
    ⟨⟨_, rfl, rfl, rfl, rfl, rfl, rfl, rfl, rfl⟩, by decide, ⟨_, rfl, rfl, rfl, rfl, rfl, rfl, rfl, rfl⟩, by decide,
      ⟨_, rfl, rfl, rfl, rfl, rfl, rfl, rfl, rfl⟩, by decide, by decide⟩, ⟨rfl, rfl, by decide +kernel, by decide +kernel, by decide +kernel⟩,
    ⟨by decide +kernel, by decide +kernel, by decide +kernel, by decide +kernel, all_such (by decide +kernel), by decide +kernel,
      by decide +kernel, by decide +kernel, by decide +kernel, by decide +kernel, by decide +kernel, by decide +kernel⟩,
    ⟨rfl, rfl, rfl, by decide, rfl, by decide +kernel, rfl, by decide +kernel, by decide +kernel, is_ok (by decide +kernel)⟩⟩


/-- A launch record in order: one iteration on one core with 32 KiB of L1. -/
def recBytes : List Byte :=
  let at_ (k : Nat) (v : List Byte) (bs : List Byte) : List Byte := bs.take k ++ v ++ bs.drop (k + v.length)
  (at_ 4 [1, 0] ∘ at_ 42 [0xFF, 0xFF] ∘ at_ 44 [1] ∘ at_ 71 [1] ∘ at_ 74 [8] ∘ at_ 85 [0x80] ∘ at_ 88 [1, 1] ∘
    at_ 148 [0xFF, 0xFF, 0xFF, 0xFF] ∘ at_ 154 [1]) (List.replicate 256 0)
/-- The module after bring-up with a queue of two records, one to copy; the hub has the page at 0x10000. -/
def queued (bs : List Byte) (tlb : List TlbEntry) : State :=
  ({ State.reset with
    board := { ready := true, zeroed := true }, sails := [sail0], cores := [{ at_ := hubCore, tlb := tlb }]
    walker := { queues := [{ base := 0x10000, en := true, log2n := 0, asid := 7, head := 0, tail := 1 }] } } : State).writeBytes
      (flatHbm 0 0) bs
def readAt (s : State) : State × Option (List Byte) :=
  s.ringRecord (s.queue 0).asid.toNat ((s.queue 0).base.toNat + 256 * ((s.queue 0).head.toNat % (s.queue 0).size))
def readsRecord (s : State) (P : List Byte → Bool) : Prop :=
  s.board.ready = true ∧ (s.queue 0).en = true ∧ (s.queue 0).ringFault = false ∧ (s.queue 0).head ≠ (s.queue 0).tail ∧ s.heldOf 0 < 8 ∧
    (readAt s).1.board.thermOff = false ∧ ∃ bs, (readAt s).2 = some bs ∧ P bs = true
/-- A record that is admitted, one of no version, which is rejected, and one on no page; the last of the counters. -/
theorem hyp_QueuesRecordsAndCounters :
    readsRecord (queued recBytes [leaf0]) (fun bs => rejection bs (launchRecOf bs) == none) ∧
    readsRecord (queued [] [leaf0]) (fun bs => rejection bs (launchRecOf bs) == some 1) ∧
    (readAt (queued recBytes [])).2 = none ∧
    (queued [] []).walker.queues[0]?.isSome = true ∧ 4095 < 4096 :=
  ⟨⟨by decide +kernel, by decide +kernel, by decide +kernel, by decide +kernel, by decide +kernel, by decide +kernel,
      some_such (by decide +kernel)⟩,
    ⟨by decide +kernel, by decide +kernel, by decide +kernel, by decide +kernel, by decide +kernel, by decide +kernel,
      some_such (by decide +kernel)⟩,
    by decide +kernel, by decide +kernel, by decide⟩

/-- The module with a launch of the record, of some priority, class and flags, which has waited for a time. -/
def lrec : LaunchRec := { launchRecOf recBytes with localBytes := 4096 }
def launched (l : Launch) (ks : List Cluster) (cs : List Core) : State :=
  { State.reset with
    board := { ready := true, zeroed := true }, sails := [sail0], cores := cs, walker := { launches := [l], clusters := ks } }
def one1 : Launch := { key := 3, queue := 0, record := lrec, asid := 7, cursor := 5 }
/-- A stream that has ended. -/
def done1 : Stream := { active := 1, finished := true }
def tDone : Team := { launch := 3, cluster := 9, asid := 7, control := done1 }
def k9 : Cluster := { key := 9, launch := 3, number := 0, cores := [⟨0, 0⟩], live := [0] }
def held1 (t : Team) : Core := { at_ := ⟨0, 0⟩, team := some t, split := { locBytes := 4096 } }
/-- A saved cluster of the launch. -/
def saved9 : Cluster :=
  { k9 with cores := [], saved := [{ member := 0, ident := 0, team := { tDone with control := { active := 1 } }, split := {}, slot := 0, accs := [] }] }
/-- A launch of class 2 whose cluster runs on every usable core, and one of higher priority that has waited 1 ms. -/
def rec2 : LaunchRec := { lrec with cls := 2, saveBase := 65536, saveSlots := 1000, priority := 1, dieMask := 1 }
def crowded : State :=
  let cs := (List.range 159).map fun c => { at_ := ⟨0, c⟩, team := some { tDone with control := { active := 1 } } : Core }
  { launched one1 [] cs with walker :=
    { launches := [{ one1 with record := rec2, next := 1 }, { one1 with key := 4, queue := 1, record := { rec2 with priority := 2 }, waitFrom := some (2 ^ 64 - 1000000) }]
      clusters := [k9] } }

theorem crowded_waits : ∃ l, crowded.launch? 4 = some l ∧ crowded.eligible l = true ∧
    (∃ at_, l.waitFrom = some at_ ∧ 1000000 ≤ crowded.since at_) ∧ (∀ k ∈ crowded.walker.clusters, k.preempting = false) ∧
    crowded.serve l = none ∧
    crowded.lowestPriority (fun m k => decide (m.record.priority < l.record.priority) && k.cores.any fun c => l.record.dies.contains c.die)
      = some 1 :=
  ⟨_, rfl, by decide +kernel, ⟨_, rfl, by decide +kernel⟩, by decide +kernel, by decide +kernel, by decide +kernel⟩
/-- A cluster placed, one whose sail's id is taken, one resumed, and one whose sail's id is taken meanwhile; a team retired, one saved; LW_PREEMPT of queue 63 and 255
clusters; a launch that has waited exactly 1 ms. A stall at 2^28 cycles, a sleep's last cycle, a change of phase. -/
theorem hyp_ClustersAreServedStallAndDrain :
    (∃ r, (launched one1 [] []).settleDeps.serveFirst = some r ∧ r.1.key = 3 ∧ (launched one1 [] []).settleDeps.savedOf r.1.key = none ∧
      (launched one1 [] []).settleDeps.sailClash r.1 = false) ∧
    (let l := { one1 with record := { lrec with flags := 16, sailId := 0, sailGeom := 0, sailPanels := 1 } }
     ∃ r, (launched l [] []).settleDeps.serveFirst = some r ∧ r.1.key = 3 ∧ (launched l [] []).settleDeps.savedOf r.1.key = none ∧
      (launched l [] []).settleDeps.sailClash r.1 = true) ∧
    (let s := launched { one1 with next := 1, record := { lrec with cls := 2 } } [saved9] []
     ∃ r, s.serveFirst = some r ∧ s.savedOf r.1.key = some saved9 ∧ saved9.key = 9 ∧ s.sailClash r.1 = false) ∧
    (let l := { one1 with next := 1, record := { lrec with cls := 2, flags := 16, sailId := 0, sailGeom := 0, sailPanels := 1 } }
     let s := launched l [saved9] []
     ∃ r, s.serveFirst = some r ∧ s.savedOf r.1.key = some saved9 ∧ s.sailClash r.1 = true) ∧
    (let s := launched one1 [k9] [held1 tDone]
     s.team? ⟨0, 0⟩ = some tDone ∧ s.cluster? tDone.cluster = some k9 ∧ tDone.drained = true ∧ tDone.trapped = none ∧
       (∀ l, s.launch? k9.launch = some l → l.status = none) ∧
       (let s' := if k9.live = [tDone.teamid] then (s.flushCore ⟨0, 0⟩).clusterFlush k9.key ⟨0, 0⟩ else s.flushCore ⟨0, 0⟩
        s'.writingBackFrom k9.cores = false)) ∧
    ((launched one1 [] []).board.ready = true ∧ (0x8000FF3F : BitVec 32).getLsbD 31 = true) ∧
    (∃ l, crowded.launch? 4 = some l ∧ crowded.eligible l = true ∧ (∃ at_, l.waitFrom = some at_ ∧ 1000000 ≤ crowded.since at_) ∧
      (∀ k ∈ crowded.walker.clusters, k.preempting = false) ∧ crowded.serve l = none ∧
      crowded.lowestPriority (fun m k => decide (m.record.priority < l.record.priority) && k.cores.any fun c => l.record.dies.contains c.die)
        = some 1) ∧
    (let k := { k9 with preempting := true }
     let t := { tDone with control := { active := 1 } }
     let l := { one1 with record := rec2 }
     let s := launched l [k] [held1 t]
     s.team? ⟨0, 0⟩ = some t ∧ s.cluster? t.cluster = some k ∧ s.launch? t.launch = some l ∧ k.preempting = true ∧ t.drained = false ∧
       (∀ g ∈ s.takenWith l k, ∀ x ∈ s.teamsOf g, s.quiet x.1 x.2 l.record.cls = true) ∧ s.noFarMessage k.key = true ∧
       (((s.teamsOf k).foldl (fun s x => s.flushCore x.1) s).clusterFlush k.key ⟨0, 0⟩).writingBackFrom k.cores = false) ∧
    (∀ t, (launched one1 [k9] [held1 t]).team? ⟨0, 0⟩ = some t) ∧
    (let t := { tDone with control := { active := 1, wait := some .translation }, still := 2 ^ 28 }
     t.stallRaised = false ∧ t.allBlocked = true ∧ 2 ^ 28 ≤ t.still) ∧
    (∃ st, ({ tDone with control := { active := 1, sleep := 1 } } : Team).stream? 32 = some st ∧ st.sleep = 1) ∧
    (let t := { tDone with change := some ⟨1, none⟩ }
     t.change = some ⟨1, none⟩ ∧ (launched one1 [k9] [held1 t]).launch? t.launch = some one1 ∧ t.phaseQuiet = true) ∧
    ({ tDone with change := some ⟨1, some 0⟩ }).change = some ⟨1, some 0⟩ :=
  ⟨some_such (by decide +kernel), some_such (by decide +kernel), some_such (by decide +kernel), some_such (by decide +kernel),
    ⟨by decide +kernel, by decide +kernel, by decide +kernel, by decide +kernel, all_such (by decide +kernel), by decide +kernel⟩, ⟨by decide +kernel, by decide +kernel⟩,
    crowded_waits, by decide +kernel,
    fun t => rfl, by decide +kernel, some_such (by decide +kernel), by decide +kernel, by decide +kernel⟩
/-- The module after bring-up with messages on the channel from die 0 to die 1, sails and accesses in flight. -/
def fabric0 (ms : List Msg) (sails : List Sail) (accs : List Acc) : State :=
  { State.reset with board := { ready := true, zeroed := true }, sails := sails, flights := accs, fabric := { msgs := ms } }
def msg0 (chan : Nat) (b : Body) : Msg := { chan := chan, src := 0, dst := 1, at_ := 1, inc := 0, body := b }
def mails (chan : Nat) (b : Body) (sails : List Sail := []) (accs : List Acc := []) : State := fabric0 [msg0 chan b] sails accs
def headed (s : State) (chan : Nat) (b : Body) : Prop := ∃ m, s.headMsg chan 0 1 = some m ∧ m.body = b
/-- A replicated sail with a round on line 2. -/
def round1 (waiting : List Nat) : Sail :=
  { sail0 with id := 5, kind := 1, rounds := [{ id := 8, acc := 3, lane := 0, line := 2, off := 0, bytes := [1], waiting := waiting }] }
def acc3 : Acc := { id := 3, ref := at0, asid := 7, kind := .store, pos := ⟨0, 0⟩ }

/-- A message of each kind; a round that waits for one die and for two; the ends of the timeouts: 200 µs, and the eighth resend. -/
theorem hyp_FabricMessages :
    (let crosses (src dst : Nat) (m : Msg) : Bool := m.chan == 0 && m.at_ == src && !m.arrived && nextHop m.at_ m.dst == dst
     let m : Msg := { msg0 0 (.syncRequest 3) with dst := 5, at_ := 0 }
     let s := fabric0 [m, { m with inc := 1, src := 2, at_ := 2 }] [] []
     s.fabric.msgs.find? (crosses 0 1) = some m ∧ m.inc = s.incOf m.src ∧
       s.fabric.msgs.find? (crosses 2 5) = some { m with inc := 1, src := 2, at_ := 2 } ∧ 1 ≠ s.incOf 2) ∧
    (let s := mails 0 (.fetch 5 2) [round1 [0]]
     headed s 0 (.fetch 5 2) ∧ (s.takeHead 0 0 1).roundOpen 5 2 = true) ∧
    (let s := mails 0 (.fetch 0 2) [sail0]
     headed s 0 (.fetch 0 2) ∧ (s.takeHead 0 0 1).roundOpen 0 2 = false ∧ (s.takeHead 0 0 1).sail? (.sys 0) = some sail0) ∧
    headed (mails 3 (.fetchResponse 5 2 [])) 3 (.fetchResponse 5 2 []) ∧
    (∀ w ∈ [(round1 [0], true), (sail0, false)], let s := mails 0 (.hold 5 2 8 0 [1]) [w.1]
     headed s 0 (.hold 5 2 8 0 [1]) ∧ (s.takeHead 0 0 1).roundLives 5 8 = w.2) ∧
    (∀ w ∈ [[0], [0, 2]], let s := mails 2 (.holdAck 5 2 8) [round1 w]
     headed s 2 (.holdAck 5 2 8) ∧ (s.takeHead 2 0 1).sail? (.sys 5) = some (round1 w) ∧
       ((round1 w).rounds.find? fun r => r.id == 8).isSome = true ∧ ((w.filter fun d => d != 0) = [] ↔ w = [0])) ∧
    headed (mails 3 (.openLine 5 2 8 0 [1])) 3 (.openLine 5 2 8 0 [1]) ∧ headed (mails 3 (.invalidate 5 2)) 3 (.invalidate 5 2) ∧
    headed (mails 3 (.efUpdate 5 2 0 [1])) 3 (.efUpdate 5 2 0 [1]) ∧ headed (mails 0 (.syncRequest 3)) 0 (.syncRequest 3) ∧
    headed (mails 3 (.syncMarker 3) [] [acc3]) 3 (.syncMarker 3) ∧
    ({ mails 2 (.barrier 9 3 0 none) with walker := { clusters := [k9] } } : State).farArrival 9 3 1 = some (0, 0) ∧
    (let s := fabric0 [] [{ round1 [0] with rounds := (round1 [0]).rounds.map fun r => { r with start := 2 ^ 64 - 200000 } }] []
     (∃ x, (s.sails.find? fun x => x.rounds.any fun r => r.id == 8) = some x ∧ ∃ r, (x.rounds.find? fun r => r.id == 8) = some r ∧
       1000 * Nat.max 10 s.fabric.timeout.toNat ≤ s.since r.start)) ∧
    (∀ n ∈ [7, 8], let a := { acc3 with markers := [1], resends := n, born := 2 ^ 64 - 200000 * (n + 1) }
     let s := fabric0 [] [] [a]
     s.acc? 3 = some a ∧ a.markers ≠ [] ∧ 1000 * Nat.max 10 s.fabric.timeout.toNat * (a.resends + 1) ≤ s.since a.born ∧
       (8 ≤ a.resends ∨ a.resends < 8)) ∧
    -- a request that has left, and one that a missing page keeps back
    (let a := { acc3 with lanes := [{ lane := 0, va := 0, home := 1 }] }
     (fabric0 [] [] [a]).requestLeft a = true ∧ ∃ l ∈ a.lanes, a.crosses l = true) ∧
    (let a := { acc3 with lanes := [{ lane := 0, va := 0, home := 1, stage := .parked }] }
     (fabric0 [] [] [a]).acc? 3 = some a ∧ a.markers = [] ∧ (fabric0 [] [] [a]).requestLeft a = false) :=
  ⟨by decide +kernel, ⟨some_such (by decide +kernel), by decide +kernel⟩, ⟨some_such (by decide +kernel), by decide +kernel⟩,
    some_such (by decide +kernel),
    by simp only [List.forall_mem_cons, List.not_mem_nil, false_implies, implies_true, and_true]
       exact ⟨⟨some_such (by decide +kernel), by decide +kernel⟩, some_such (by decide +kernel), by decide +kernel⟩,
    by simp only [List.forall_mem_cons, List.not_mem_nil, false_implies, implies_true, and_true]
       exact ⟨⟨some_such (by decide +kernel), by decide +kernel⟩, some_such (by decide +kernel), by decide +kernel⟩,
    some_such (by decide +kernel), some_such (by decide +kernel), some_such (by decide +kernel), some_such (by decide +kernel),
    some_such (by decide +kernel), by decide +kernel, ⟨_, rfl, some_such (by decide +kernel)⟩, by decide +kernel, by decide +kernel, by decide +kernel⟩

/-- A flit with the sequence number expected, of an incarnation, for a device. -/
def flit0 (inc : BitVec 8) (dst : BitVec 12) : Flit :=
  { seq := 0, vc := 0, cls := false, ackSeq := 0, nak := false, dst := dst, srcDev := 0, inc := inc, payload := [], link := [] }
/-- Ports 0 and 1 up; device 5 is reached through port 1, and device 4 may do what its byte says. -/
def linked (p : Port) (allow : Byte) : State :=
  { fabric0 [] [] [] with
    mem := [(flatHost 0x1005, 1), (flatHost 0x2004, allow)], fabric := { route := 0x1000, pacl := 0x2000, ports := [p, { up := true }] } }
/-- An atomic of a peer's group. -/
def peerAdd : PeerOp := .atomic 0x98 3 0 false [1] 0 at0 0 0 0
theorem hyp_LinksPeersAndDieResets :
    (let p : Port := { up := true, en := true }
     let s := linked p 7
     (s.port 0).up = true ∧ (flit0 0 0).seq = (s.port 0).expect ∧ (flit0 1 0).inc ≠ (s.port 0).nbrInc ∧
       ((flit0 0 0).inc = (s.port 0).nbrInc ∧ (flit0 0 0).dst = s.fabric.devid) ∧ (flit0 0 5).dst ≠ s.fabric.devid ∧
       (let a := s.modPort 0 fun p => p.acked (flit0 0 5).ackSeq s.ticks
        let s' := (if (flit0 0 5).nak && (a.port 0).replayBuf != [] then a.resendFlits 0 else a).modPort 0 fun p => { p with expect := p.expect + 1 }
        s'.routePort (flit0 0 5).dst.toNat = some 1 ∧ (s'.port 1).full = false) ∧ 11 < 12 ∧ (s.port 0).en = true) ∧
    (let s := { linked { up := true, replayBuf := [flit0 0 5], since := 2 ^ 64 - 2000 } 0 with cur := none }
     (s.port 0).up = true ∧ (s.port 0).replayBuf ≠ [] ∧ 2000 ≤ s.since (s.port 0).since) ∧
    (∀ op ∈ [PeerOp.read 8, .write [1] false, peerAdd],
      (linked {} 0).peerAllows 4 op = false ∧ (linked {} 7).peerAllows 4 op = true) ∧
    (linked {} 7).peerAllows 4 (.notice 0 at0 0) = true ∧
    (let s := linked {} 7
     let flat := s.peerFlat 0
     let r := s.peerRoute flat
     let place := (3, s.bankOf (.sys r.sail) r.home flat, 64)
     let who := (4, at0, (0 : Nat), (0 : Nat))
     let f (s : State) : State := s.freeBelow place who 0
     (f s).resultFor who 0 = none ∧ (f s).storeHasRoom place = true ∧ (f s).lineBusy r flat = false ∧
       ((f (s.keepResult place flat who 0 [7])).resultFor who 0).isSome = true ∧ (f s).isReplicated r.sail = false ∧
       ((f s).homeRead r flat 4).1.isReplicated r.sail = false) ∧
    (∀ old, ∃ v, atomicNew 0x98 0 3 false old [1] = some v) ∧
    (let s := { linked {} 0 with
       fabric := { atsCache := [(1, 1)] }, flights := [{ acc3 with lanes := [{ lane := 0, va := 0, pa := flatHost 0x3000, loc := 2 }] }] }
     ∀ a ∈ s.flights, ∀ l ∈ a.lanes, ∀ p ∈ s.fabric.atsCache,
       (decide (4096 * p.1 < 4096 + 4096) && decide (4096 < 4096 * p.1 + 4096)) = true → a.isLocal = false → l.loc = 2 → l.pending = true →
         flatHost (4096 * p.2) / 4096 ≠ l.pa / 4096) ∧
    (let w : BitVec 32 := 0x80000005
     (linked {} 0).board.ready = true ∧ w.getLsbD 31 = true ∧ w.toNat % 8 < 6 ∧ (linked {} 0).fabric.resetBusy = false) :=
  ⟨by decide +kernel, by decide +kernel, by decide +kernel, by decide +kernel, by decide +kernel, fun _ => ⟨_, rfl⟩, by decide +kernel,
    by decide +kernel⟩

/-- A record: the operation, of a number of pages from 0x10000, and the target. -/
def pgRec (op pages : Nat) (va : Nat := 0x10000) (target : Nat := 0x01000000) : List Byte :=
  toBytes 2 op ++ toBytes 2 7 ++ toBytes 4 pages ++ toBytes 8 va ++ toBytes 8 target
def fault0 (who : Requester) : PageFault := { asid := 7, block := 1, kinds := 1, who := who, time := 0 }
def batch0 (n : Nat) (c w : Bool) (start : Nat) : Batch :=
  { die := 0, faults := List.replicate n (fault0 (.stream 3)), closed := c, written := w, start := start }
/-- An access whose one lane waits for a page, or whose page has been mapped or left unmapped. -/
def replaying (stage : LaneStage) : State :=
  { mapped t0 with flights := [{ acc3 with lanes := [{ lane := 0, va := 0x10000, stage := stage }] }] }
def leavesOf (s : State) : List (Option (Leaf × Nat)) :=
  let r := s.pageRecord 0x5000
  s.leavesIn r.asid (r.va + 65536 * r.pages) r.pages r.va

/-- A batch that is closed, one that is written and one that is not; 500 ms after; a fault of each kind of requester; an access whose
lanes have been answered, with a lane left unmapped and without. -/
theorem hyp_PageBatches :
    (let p := (tables 0x1F [] { fqBase := 0x101, batches := [batch0 1 true false 0], tail := 63 }).pages
     ∃ b, (p.batches.find? fun b => b.die == 0 && b.closed && !b.written) = some b ∧ entryV p.fqBase.toNat = true ∧
       (p.tail - p.head).toNat + b.fused.length ≤ p.ringSize) ∧
    (let s := tables 0x1F [] { batches := [batch0 1 true true (2 ^ 64 - 500000000)] }
     let w : BitVec 32 := 0
     s.board.ready = true ∧
     (∃ b, (s.pages.batches.find? fun b => b.die == (w.extractLsb' 16 3).toNat && b.number == w.extractLsb' 0 16 && b.written) = some b) ∧
     ((s.pages.batches.find? fun b => b.die == ((1 : BitVec 32).extractLsb' 16 3).toNat && b.number == (1 : BitVec 32).extractLsb' 0 16 &&
       b.written) = none) ∧
     ∃ b, (s.pages.batches.find? fun b => b.die == 0 && b.number.toNat == 0 && b.written) = some b ∧ 500000000 ≤ s.since b.start) ∧
    (fault0 (.stream 3)).who = .stream 3 ∧ (fault0 (.knit 0 1)).who = .knit 0 1 ∧
    (∀ stage ∈ [LaneStage.mapped, .denied], ∃ a, (replaying stage).acc? 3 = some a ∧ (∀ l ∈ a.lanes, l.stage ≠ .parked) ∧
      (a.lanes.filter fun l => l.stage == stage) ≠ [] ∧ (stage = .mapped → ∀ l ∈ a.lanes, l.stage ≠ .denied)) ∧
    (∀ stage t, (replaying stage).team? (coreOf at0) = some t → t.trapped = none) := by
  refine ⟨some_such (by decide +kernel), ⟨rfl, ⟨_, rfl⟩, by decide +kernel, some_such (by decide +kernel)⟩, rfl, rfl, ?_, ?_⟩
  · simp only [List.forall_mem_cons, List.not_mem_nil, false_implies, implies_true, and_true]
    exact ⟨⟨_, rfl, by decide +kernel⟩, _, rfl, by decide +kernel⟩
  · rintro _ t ⟨⟩
    rfl

/-- The state of a command's record, and of the leaves of its range: in order or not, all mapped or not, pinned or not. -/
def commanded (s : State) (op : Nat) (ok hole pin : Bool) : Prop :=
  s.board.ready = true ∧ s.pages.cmd = none ∧ (s.pageRecord 0x5000).op = op ∧ (s.pageRecord 0x5000).ok = ok ∧
    (leavesOf s).contains none = hole ∧ (((leavesOf s).filterMap id).any fun f => leafPin f.1.entry) = pin
/-- The new leaves of a migration are in order. -/
def movable (s : State) : Bool :=
  let r := s.pageRecord 0x5000
  ((leavesOf s).filterMap id).all fun f => !s.badLeaf 3 (movedLeaf f.1.entry r.target f.1.bytes (f.1.base - r.va))
/-- A record that is not aligned, a hole, a pinned page, and one in order, for each operation; an operation beyond them; a
migration whose new leaf is in order, or not, or of no page; a command that runs, and the ends of the two kinds. -/
theorem hyp_PageCommands :
    (∀ op ∈ [0, 1, 2, 3, 4], commanded (tables 0x1F (pgRec op 1 0x10001) {}) op false false false) ∧
    (∀ op ∈ [1, 2, 3, 4], commanded (tables 0x1F (pgRec op 2) {}) op true true false) ∧
    (∀ op ∈ [1, 2], commanded (tables 0x3F (pgRec op 1) {}) op true false true) ∧
    (∀ op ∈ [0, 1, 2, 3, 4], commanded (tables 0x1F (pgRec op 1) {}) op true false false) ∧
    (let s := tables 0x1F (pgRec 5 1) {}
     s.board.ready = true ∧ s.pages.cmd = none ∧ 4 < (s.pageRecord 0x5000).op) ∧
    (movable (tables 0x1F (pgRec 1 1) {}) = true ∧ (leavesOf (tables 0x1F (pgRec 1 1) {})).filterMap id ≠ [] ∧
      movable (tables 0x1F (pgRec 1 1 0x10000 0x400) {}) = false ∧ commanded (tables 0x1F (pgRec 1 1 0x10000 0x400) {}) 1 true false false ∧
      commanded (tables 0x1F (pgRec 1 0) {}) 1 true false false ∧ (leavesOf (tables 0x1F (pgRec 1 0) {})).filterMap id = []) ∧
    (let k : PageCmd := { op := 2, asid := 7, va := 0x10000, pages := 1, recAddr := 0x5000 }
     let s := tables 0x1E [] { cmd := some k }
     s.pages.cmd.isSome = true ∧ s.pages.cmd = some k ∧ k.op ≠ 1 ∧ s.drained k k.va (k.va + 65536 * k.pages) = true) ∧
    (let k : PageCmd := { op := 1, asid := 7, va := 0x10000, pages := 1, target := 0x01000000, recAddr := 0x5000
                          todo := [(0x10000, flatDdr 0x1002008)] }
     let s := tables 0x5F [] { cmd := some k }
     s.pages.cmd = some k ∧ k.op = 1 ∧ ∃ f, (∃ w, s.walk 7 k.asid 0x10000 = (.leaf f (flatDdr 0x1002008), w)) ∧
       s.drained k 0x10000 (0x10000 + f.bytes) = true ∧
       (s.drainPage (leafFlat (s.natAt (flatDdr 0x1002008) 8)) f.bytes).pageBusy (leafFlat (s.natAt (flatDdr 0x1002008) 8)) f.bytes = false) := by
  refine ⟨?_, ?_, ?_, ?_, by decide +kernel, ?_, by decide +kernel,
    by decide +kernel, rfl, ⟨0x5F, 0x10000, 65536, none⟩, ⟨_, Prod.ext (by decide +kernel) rfl⟩, by decide +kernel, by decide +kernel⟩ <;>
  unfold commanded <;> decide +kernel
/-- A sail of two panels on die 0 in a phase, `swept` of them swept; and a cluster's sail, 1000, with a dirty line that leaves. -/
def sweeping (ph : SailPhase) (swept : Nat) : State :=
  fabric0 [] [{ sail0 with parts := [{ die := 0, panels := [(0, 5120), (0, 5121)], phase := ph, next := [(0, 5120)], swept := swept }] }] []
def leaving (ph : SailPhase) : State :=
  fabric0 [] (dirtySails.map fun x => if x.cluster.isSome then { x with parts := x.parts.map fun p =>
    { p with phase := ph, panels := [(0, 0), (0, 1)], next := [(0, 0)], swept := 1, lines := p.lines.map fun l => { l with entry := 1 } } } else x) []
/-- The record of SL_CMD for sail 0 and the page at 0x10000, when sail 0 has a part on a die alone. -/
def slCmd (op die : Nat) : State :=
  { tables 0x1F (pgRec op 1) {} with sails := [{ sail0 with parts := [{ die := die, panels := [(die, 5120)] }] }] }
/-- The first and the last panel of a sweep, a part that drains, and either with a line whose bytes are on their way; each
operation and one beyond them; a page whose home the sail serves, and does not. -/
theorem hyp_SailCommandsAndSweeps :
    (∀ ph ∈ [SailPhase.shaking, .reefing], ∀ n ∈ [0, 1], ∃ x, (sweeping ph n).sail? (sailKeyOf 0) = some x ∧ ∃ p, x.part? 0 = some p ∧
      p.phase = ph ∧ p.panels.length = 2 ∧ p.swept = n) ∧
    (∀ n ∈ [0, 1], (((sweeping .shaking n).cleanLines (.sys 0) 0 ((sweeping .shaking n).sailCore (.sys 0)) fun _ _ => true).linesLeaving
      (.sys 0) 0 fun _ _ => true) = false) ∧
    (∃ x, (sweeping .draining 0).sail? (sailKeyOf 0) = some x ∧ ∃ p, x.part? 0 = some p ∧ p.phase = .draining ∧
      (sweeping .draining 0).flights = []) ∧
    (∀ ph ∈ [SailPhase.shaking, .draining], ∃ x, (leaving ph).sail? (sailKeyOf 1000) = some x ∧ ∃ p, x.part? 0 = some p ∧
      p.phase = ph ∧
      (((leaving ph).cleanLines (sailKeyOf 1000) 0 ((leaving ph).sailCore (sailKeyOf 1000)) fun p l => l.entry == p.swept &&
        l.line % (2 ^ 64 / x.lineBytes) / x.setsPerPanel % Nat.max 1 p.next.length != l.entry).linesLeaving (sailKeyOf 1000) 0
          fun p l => l.entry == p.swept &&
            l.line % (2 ^ 64 / x.lineBytes) / x.setsPerPanel % Nat.max 1 p.next.length != l.entry) = true) ∧
    (∀ op ∈ [0, 1, 2, 3, 4, 5], (slCmd op 0).board.ready = true ∧ (slCmd op 0).sailRegs.busy = false ∧
      (slCmd op 0).natAt (flatHost 0x5000) 2 = op) ∧
    (∀ d ∈ [0, 1], ∃ x, (slCmd 0 d).sail? (.sys ((slCmd 0 d).natAt (flatHost 0x5010) 1)) = some x ∧
      (leavesOf (slCmd 0 d)).filterMap id ≠ [] ∧ ∀ f ∈ (leavesOf (slCmd 0 d)).filterMap id,
        (slCmd 0 d).sailServes 0 (x.homeOf (entryLoc f.1.entry) (entryDie f.1.entry)) = (d == 0)) := by
  simp only [List.forall_mem_cons, List.not_mem_nil, false_implies, implies_true, and_true]
  refine ⟨⟨⟨⟨_, rfl, _, rfl, rfl, rfl, rfl⟩, _, rfl, _, rfl, rfl, rfl, rfl⟩, ⟨_, rfl, _, rfl, rfl, rfl, rfl⟩, _, rfl, _, rfl, rfl, rfl, rfl⟩,
    by decide +kernel, ⟨_, rfl, _, rfl, rfl, rfl⟩, ⟨⟨_, rfl, _, rfl, rfl, by decide +kernel⟩, _, rfl, _, rfl, rfl, by decide +kernel⟩,
    by decide +kernel, some_such (by decide +kernel), some_such (by decide +kernel)⟩


/-- A module file of one function, the entry of the control stream: its block opens and ends. -/
def file0 : List Byte :=
  [0x44, 0x4C, 0x4D, 0x31] ++ toBytes 4 1 ++ toBytes 8 0xABC ++ toBytes 4 1 ++ toBytes 4 128 ++ toBytes 4 192 ++ toBytes 4 6
    ++ List.replicate 96 0 ++ toBytes 4 0 ++ toBytes 4 6 ++ toBytes 4 0 ++ toBytes 4 1 ++ [0, 0, 1, 0] ++ List.replicate 108 0
def code0 : List Byte := [0xB8, 0x00, 0x00, 0x00, 0xBE, 0x00]
def job0 : KnitJob := { key := ⟨0xABC, 0, 0, 8⟩, asid := 7, code := 0x10000 }
/-- The module with the file and its code in the page at 0x10000, whose leaf is given, and a request on row 0 of die 0. -/
def knitting (leaf : Nat) (job : KnitJob) : State :=
  { (tables leaf [] { en := true }).writeBytes (flatHbm 0 0) code0 with
    modules := [file0], dies := modAt diesAtReset 0 fun d => { d with jobs := [(0, job)] } }
/-- Which case of its statement a request meets: made, refused, a byte that cannot be fetched, a missing page. -/
def caseOf : Except KnitFail (Translation × Nat) → Nat
  | .ok _ => 0
  | .error (.refuse ..) => 1
  | .error (.fetch ..) => 2
  | .error (.page _) => 3
/-- A walk of a stream, and a core with links. -/
def walk0 : Walk := { stream := 0, pos := ⟨0, 0⟩, id := 0, seq := 0, start := 0, stop := 0, dsts := [(.val 0 200, tI32)], lanes := 1 }
def link7 : Link := { seq := 7, bytes := List.replicate 64 0 }
/-- The four ends of a translation; one that is finished; the three kinds of stop, with and without results in flight; a walk;
a sample at its least interval; the commands of TR_KDBG and TR_DSTOP. -/
theorem hyp_KnitterAndObservationSteps :
    (∀ x ∈ [(0x1F, job0, 0), (0x1F, { job0 with key := ⟨0xABC, 1, 0, 8⟩ }, 1), (0x0F, job0, 2), (0x1F, { job0 with code := 0x20000 }, 3)],
      ((knitting x.1 x.2.1).die 0).knitting 0 = some x.2.1 ∧ x.2.1.waiting = false ∧ x.2.1.result = none ∧
        caseOf ((knitting x.1 x.2.1).translated 0 x.2.1) = x.2.2) ∧
    (∃ j, ((knitting 0x1F { job0 with result := some { key := job0.key, unit := [] } }).die 0).knitting 0 = some j ∧ j.result.isSome = true ∧ j.left = 0) ∧
    ((0x80000001 : BitVec 32).getLsbD 31 = true ∧ (0x80000001 : BitVec 32).toNat % 4 = 1 ∧ (0x80000002 : BitVec 32).getLsbD 31 = true ∧
      (0x80000002 : BitVec 32).toNat % 4 = 2) ∧
    (∀ k ∈ [0x73, 0x74, 0x10], let st : Stream := { active := 1, stop := .asked k }
     let t := { team st with trapped := none }
     (machine t).team? (coreOf at0) = some t ∧ t.stream? at0.idx = some st ∧ st.stop = .asked k ∧ st.finished = false ∧ st.pending = []) ∧
    (∀ p ∈ [(WalkPlace.waiting, 0, 0, []), (.reading ⟨0, 0⟩ 7, 3, 0, []), (.reading ⟨0, 0⟩ 7, 0, 0, [])
        , (.reading ⟨0, 0⟩ 7, 0, 1, [link7]), (.reading ⟨0, 0⟩ 7, 0, 0, [link7]), (.reading ⟨0, 0⟩ 7, 0, 0, [{ link7 with lost := true }]), (.ended 0, 0, 0, [])],
      let w := { walk0 with place := p.1, busy := p.2.1, start := p.2.2.1 }
      let s : State := { mapped t0 with cores := [{ at_ := ⟨0, 0⟩, team := some t0, walks := [w], links := p.2.2.2 }] }
      s.team? ⟨0, 0⟩ = some t0 ∧ (s.core ⟨0, 0⟩).walks = w :: [] ∧ w.links.length < 4095 ∧
        ((s.core ⟨0, 0⟩).links.find? fun l => l.seq == 7) = p.2.2.2.head?) ∧
    (link7.lost = false ∧ link7.stop < 1 ∧ ({ walk0 with links := List.replicate 4095 link7 } : Walk).links.length = 4095) ∧
    (let s := traced t0 true
     let s : State := { s with cores := s.cores.map fun k => { k with sampleAge := 65536 } }
     s.team? ⟨0, 0⟩ = some t0 ∧ s.traceBuf t0.asid = some (0x10000, 65536, true) ∧
       Nat.max s.trace.sample.toNat 4096 ≤ (s.core ⟨0, 0⟩).sampleAge ∧ t0.stream? (((List.range t0.groups.length ++ [32])[0]?).getD 32) = some st0) ∧
    31 < 32 ∧
    (let w : BitVec 32 := 0x80000000
     w.getLsbD 31 = true ∧ (debugged s0).team? ⟨(w.extractLsb' 0 3).toNat, (w.extractLsb' 3 8).toNat⟩ = some t0 ∧
       (debugged s0).trace.kdbg = true ∧ (debugged s0).trace.kdbgAsid.toNat = t0.asid ∧ t0.stream? (w.extractLsb' 11 6).toNat = some st0 ∧
       st0.stop = .running ∧ st0.finished = false) := by
  refine ⟨by decide +kernel, some_such (by decide +kernel), by decide +kernel, by decide +kernel, by decide +kernel, ⟨rfl, by decide +kernel, List.length_replicate⟩, by decide +kernel, by decide, by decide +kernel⟩

/-- The module at some point of its bring-up and after it. -/
def board0 (b : Board) : State := { State.reset with board := b }
def up0 : Board := { ready := true, step := 8 }
/-- Before power; each step and the failures it can have; nine measurements and ten; the temperatures at the limits; an address
for the report that is aligned, and one that is not; whichever way a signature turns out (`Config.debugSignature` is free). -/
theorem hyp_BringUpPowerAndSecurity :
    State.reset.board.step = 0 ∧
    (∀ n ∈ [1, 2, 3, 4, 5, 6, 7], 1 ≤ (board0 { step := n }).board.step ∧ (board0 { step := n }).board.step ≤ 7 ∧ (board0 { step := n }).board.err = 0) ∧
    (∀ n ∈ [1, 2, 3, 4, 5], ∃ e ∈ failuresOf n, e ≠ 0) ∧ (board0 up0).board.ready = true ∧
    (((0 : Nat) :: (board0 { up0 with samples := List.replicate 8 0 }).board.samples).length < 10 ∧
      ((0 :: (board0 { up0 with samples := List.replicate 9 0 }).board.samples).take 10).length = 10) ∧
    (board0 up0).board.thermOff = false ∧ 5 ≤ 5 ∧ (115 : Int) < 116 ∧ ((105 : Int) < 106 ∧ (115 : Int) ≤ 115) ∧ (94 : Int) < 95 ∧
    ((95 : Int) ≤ 95 ∧ (105 : Int) ≤ 105) ∧
    ((1 : BitVec 32).getLsbD 0 = true ∧ (board0 up0).security.job = none ∧ (board0 up0).security.repAddr.toNat % 4096 = 0 ∧
      ({ repAddr := 8 } : Security).repAddr.toNat % 4096 ≠ 0) ∧ (board0 up0).security.lockout = false ∧
    (∀ sig m, Config.debugSignature sig m = true ∨ Config.debugSignature sig m = false) ∧ ({ job := some (0, []) } : Security).job = some (0, []) ∧
    (let s : State := { State.reset with dies := modAt diesAtReset 0 fun d => { d with req := 1, relock := true } }
     s.relocking 0 = true ∧ s.landedOn 0 = true) ∧ 6143 < 6144 :=
  ⟨rfl, by decide +kernel, by decide +kernel, rfl, by decide +kernel, rfl, by decide, by decide, by decide, by decide, by decide,
    by decide +kernel, rfl, fun sig m => by cases Config.debugSignature sig m <;> simp, rfl, by decide +kernel, by decide⟩

/-- The first and the last of the plain registers. -/
theorem hyp_RegistersReadBack :
    State.reset.board.ready = false ∧ (4 : Nat) ≠ 0 ∧ (board0 up0).board.ready = true ∧ (board0 up0).security.nonce.length = 32 ∧
    (board0 up0).sailRegs.pasid.length = 8 ∧ (0x02040000, 0xFFFFFFFF) ∈ plainRegisters ∧ (0x203C, 0xFFFFFFFF) ∈ plainRegisters :=
  ⟨rfl, by decide, rfl, by decide, by decide, by decide +kernel, by decide +kernel⟩

/-- An instruction, and ret, whose operands are as many as its function's results; bytes that decode. -/
theorem hyp_EncodingsAreExact :
    (let i := Instr.add { form := 0x03, attr := .arith 0 false true 0, src := vs 2 }
     ∃ opc f, i.fields? = some (opc, f) ∧ i.wf = true ∧ (opc = 0xBD → f.src.length = 0) ∧ decode 0 [0x00, 0x03, 0x08, 0x03, 0x04] = .ok (i, [])) ∧
    (let i := Instr.ret { src := [.val 3] }
     ∃ f, i.fields? = some (0xBD, f) ∧ i.wf = true ∧ f.src.length = 1) :=
  ⟨⟨_, _, rfl, by decide +kernel, by decide, rfl⟩, _, rfl, by decide +kernel, rfl⟩

/-- A control stream that stands at some bytes: they decode, or they do not; nop; and an operand that is poisoned. -/
def standing (bs : List Byte) (poisoned : List PoisonMark) : State :=
  let s := State.reset.withFetchWord 0 0
  let c : Stream := { newStream 32 false true with poisoned := poisoned }
  { s with cores := [{ at_ := ⟨0, 0⟩, team := some { teamOfBytes bs with control := c } }] }
def stands (s : State) (bs : List Byte) : Prop :=
  (∀ d l, s.agenda = d :: l → ¬ (d.ticks = 0 ∧ d.steps = 0)) ∧ s.passStep.nextAct.isNone = true ∧ s.passStep.nextStream = some ⟨0, 0, 32⟩ ∧
    ∃ t, s.team? ⟨0, 0⟩ = some t ∧ ∃ st, t.stream? 32 = some st ∧ st.native = false ∧ ∃ u, t.unitOf 32 = some u ∧
      ∃ b, u.unit[st.blk]? = some b ∧ ∃ x, b.items[st.item]? = some x ∧ x.bytes = bs
def poison3 : PoisonMark := { loc := .val 0 3, lanes := 1, fate := 0, place := 0, addr := 0, tag := 0, issued := ⟨0, 0⟩ }
/-- The control stream as it issues the instruction. -/
def issuing (bs : List Byte) (poisoned : List PoisonMark) : Option Cx :=
  let s := standing bs poisoned
  let r : StreamRef := ⟨0, 0, 32⟩
  let s' := { ({ s.passStep with late := true }.modStream r fun st => st.issuingAt.atItem 0 { func := 0, off := 0, bytes := bs }).opening r with cur := some r }
  (s'.team? ⟨0, 0⟩).bind fun t => (t.stream? 32).map fun st => ⟨s', r, t, st⟩
theorem hyp_StepRunsTheDecodedInstruction :
    (let bs : List Byte := [0x2C, 0x03, 0x00, 0x03, 0x01]
     let i := Instr.addImm { form := 0x03, attr := .arith 0 false false 0, src := [.val 3, .int 1] }
     stands (standing bs []) bs ∧ decode 0 bs = .ok (i, []) ∧ ∃ opc f, i.fields? = some (opc, f) ∧
       (∃ c, issuing bs [] = some c ∧ (c.dueNow (c.readsOf opc f)).isNone = true) ∧
       (∃ c, issuing bs [poison3] = some c ∧ (c.dueNow (c.readsOf opc f)).isSome = true)) ∧
    (let bs : List Byte := [0x2F, 0x03, 0x00]
     stands (standing bs []) bs ∧ ∃ e, decode 0 bs = .error e) ∧
    (let bs : List Byte := encode (.nop {})
     stands (standing bs []) bs ∧ decode 0 bs = .ok (.nop {}, [])) := by
  refine ⟨⟨⟨(fun _ _ h => nomatch h), by decide +kernel, by decide +kernel, _, rfl, _, rfl, rfl, _, rfl, _, rfl, _, rfl, rfl⟩, rfl, _, _, rfl, some_such (by decide +kernel),
      some_such (by decide +kernel)⟩,
    ⟨⟨(fun _ _ h => nomatch h), by decide +kernel, by decide +kernel, _, rfl, _, rfl, rfl, _, rfl, _, rfl, _, rfl, rfl⟩, _, rfl⟩,
    ⟨(fun _ _ h => nomatch h), by decide +kernel, by decide +kernel, _, rfl, _, rfl, rfl, _, rfl, _, rfl, _, rfl, rfl⟩, rfl⟩

/-- A native control stream whose bundle 0 holds add r2 ← r3, r4 in its first slot, and nothing in the others. -/
def bundle0 : List Byte :=
  let empty : List Byte := toBytes 7 (13 * 2 ^ 37)
  [0, 0, 0, 0] ++ toBytes 7 (0x00 * 2 ^ 48 + 3 * 2 ^ 42 + 12 * 2 ^ 37 + 2 * 2 ^ 29 + 3 * 2 ^ 21 + 4 * 2 ^ 13) ++ empty ++ empty ++ empty ++ empty ++ [0]
def unit0 : Translation := { key := ⟨0, 0, 0, 8⟩, unit := [], bundles := [bundle0], attrs := [0], ravels := [{ off := 0, func := 0, pkind := 0 }] }
def stN : Stream := { newStream 32 true true with link := some 0 }
def native0 : State :=
  let t : Team := { teamOfBytes [] with control := stN, ctlUnit := some unit0 }
  { State.reset.withFetchWord 0 0 with cores := [{ at_ := ⟨0, 0⟩, team := some t }] }
def r32 : StreamRef := ⟨0, 0, 32⟩
/-- The stream as it issues the bundle. -/
def cxN (b : Bundle) : Option Cx :=
  let p := unit0.placeOf 0 b.ravel 5
  let o := (native0.modStream r32 fun _ => { stN.issuingAt with issuing := true, func := p.func, off := p.off }).opening r32
  (o.team? ⟨0, 0⟩).bind fun t => (o.stream? r32).map fun st => ⟨{ o with cur := some r32 }, r32, t, st⟩
/-- A bundle that issues; an agenda entry that is due; a device step's turn, and a cycle that passes. -/
theorem hyp_BundlesIssueAndDevicesTakeTurns :
    (native0.mayIssue r32 = true ∧ (∃ t, native0.team? ⟨0, 0⟩ = some t ∧ t.stream? 32 = some stN ∧ t.unitOf 32 = some unit0 ∧
      ∃ b, unit0.bundle stN.bundle = some b ∧ b.slots.length = 1 ∧ stN.native = true ∧ b.kind ≠ 5 ∧
        (∀ x ∈ b.slots, stN.stack.length + (Cx.mk native0 r32 t stN).pushes x ≤ 7) ∧ (Cx.mk native0 r32 t stN).stalled b = false ∧
        (Cx.mk native0 r32 t stN).fixedCount b ≤ 16 ∧ (∀ p, (Cx.mk native0 r32 t stN).portNeeded unit0 = some p → (native0.core ⟨0, 0⟩).admits (native0.die 0).isB p = true) ∧
        ((cxN b).any fun c =>
          (c.dueNow ((b.slots.map fun x => x.reads.map fun l => (l, if c.runs x then c.lanes x.ins else 0)).flatten
            ++ b.slots.filterMap fun x => x.guard.map fun g => (.pred g, c.st.active))).isNone &&
          (b.slots.all fun x => (c.s.runSlot r32 unit0 b x).trapCode ⟨0, 0⟩ == none) &&
          b.slots.all fun x => ((c.s.runSlot r32 unit0 b x).stream? r32).all fun y => y.wait == none) = true)) ∧
    State.reset.mayIssue r32 = false ∧
    (let d : Due := { act := some .powerGood }
     ({ State.reset with agenda := [d] } : State).agenda = d :: [] ∧ d.ticks = 0 ∧ d.steps = 0 ∧ d.load = none ∧ d.strike = none ∧
       d.assign = none ∧ d.reserve = none ∧ d.refused = none ∧ d.act = some .powerGood) ∧
    (State.reset.passStep.nextStream = none ∧ State.reset.passStep.late = false ∧
      (State.reset.passStep.acts[State.reset.passStep.turn]?).isSome = true ∧
      (let s := { State.reset with turn := 1000 }
       (s.passStep.acts[s.passStep.turn]?).isNone = true) ∧
      (let s := { State.reset with agenda := [{ steps := 2, manual := true }] }
       (∀ d l, s.agenda = d :: l → ¬ (d.ticks = 0 ∧ d.steps = 0)) ∧ s.passStep.nextStream = none ∧ ∃ d l, s.agenda = d :: l ∧ d.manual = true)) := by
  refine ⟨⟨by decide +kernel, _, rfl, rfl, rfl, some_such (by decide +kernel)⟩, by decide +kernel, ⟨rfl, rfl, rfl, rfl, rfl, rfl, rfl, rfl, rfl⟩, by decide +kernel, by decide +kernel,
    by decide +kernel, by decide +kernel, ?_, by decide +kernel, _, _, rfl, rfl⟩
  rintro d l ⟨rfl, rfl⟩
  decide

theorem hyp_MemoryStaysCanonical : State.reset.MemInv ∧ ∃ t, step State.reset = .next t := ⟨reset_memInv, by
  have e : (match step State.reset with
    | .next _ => true
    | .fault _ | .refused _ => false) = true := by decide +kernel
  cases h : step State.reset with
  | next t => exact ⟨t, rfl⟩
  | fault => rw [h] at e; cases e
  | refused => rw [h] at e; cases e⟩
theorem hyp_LaneInstructionsKeepTheRest :
    (Instr.add (i32 2)).fields? = some (0, i32 2) ∧ 0 < 0x80 ∧ Runs s0 at0 t0 st0 ∧ ∃ u, exec (.add (i32 2)) s0 = .next u ∧
      ∃ t', u.team? (coreOf at0) = some t' ∧ t'.trapped = none ∧ (t'.stream? at0.idx).isSome = true :=
  ⟨rfl, by decide, runs_s0, _, rfl, some_such (by decide +kernel)⟩
end Sys2Proof.Tests
end

section
/-! SUPPORT. Halves, fields and bytes of the 32-bit words in which registers are read and written (R7 to R9). -/
namespace Sys2Proof.Machine

/-! ### Halves of a 64-bit register -/

theorem half_putHalf_same (h : Bool) (w : BitVec 32) (x : BitVec 64) : half h (putHalf h w x) = w := by
  cases h
  · exact BitVec.extractLsb'_append_eq_right
  · exact BitVec.extractLsb'_append_eq_left

theorem half_putHalf_other {g h : Bool} (e : g ≠ h) (w : BitVec 32) (x : BitVec 64) :
    half g (putHalf h w x) = half g x := by
  cases h <;> cases g
  · exact absurd rfl e
  · exact BitVec.extractLsb'_append_eq_left
  · exact BitVec.extractLsb'_append_eq_right
  · exact absurd rfl e

/-! ### Fields -/

theorem getElem_regFlag (n : Nat) (b : Bool) {i : Nat} (hi : i < 32) : (regFlag n b)[i] = (b && decide (i = n)) := by
  cases b
  · simp [regFlag]
  · obtain rfl | e := Decidable.em (i = n)
    · simp [regFlag]
    · have h : n ≤ i → i - n ≠ 0 := by omega
      simpa [regFlag, e] using h

/-- A register of `n` low bits reads back the bits it implements. -/
theorem regField_extractLsb' (n : Nat) (w : BitVec 32) :
    regField 0 (w.extractLsb' 0 n) = w &&& (BitVec.allOnes n).setWidth 32 := by
  ext i hi
  simp [regField, hi, Bool.and_comm]

/-- A register of `n` low bits and a flag above them reads back the bits it implements. -/
theorem regField_or_regFlag (n : Nat) (w : BitVec 32) :
    regField 0 (w.extractLsb' 0 n) ||| regFlag n (w.getLsbD n) = w &&& (BitVec.allOnes (n + 1)).setWidth 32 := by
  rw [regField_extractLsb']
  ext i hi
  simp only [BitVec.getElem_or, BitVec.getElem_and, BitVec.getElem_setWidth, BitVec.getLsbD_allOnes, getElem_regFlag]
  obtain h | rfl | h := Nat.lt_trichotomy i n
  · have hne : i ≠ n := by omega
    have hlt : i < n + 1 := by omega
    simp only [h, hne, hlt, decide_true, decide_false, Bool.and_false, Bool.or_false]
  · have hlt : i < i + 1 := by omega
    simp only [Nat.lt_irrefl, hlt, BitVec.getLsbD_eq_getElem hi, decide_true, decide_false, Bool.and_false, Bool.false_or]
  · have hge : ¬ i < n := by omega
    have hne : i ≠ n := by omega
    have hgt : ¬ i < n + 1 := by omega
    simp only [hge, hne, hgt, decide_false, Bool.and_false, Bool.or_false]

/-! ### Bytes of a word -/

@[simp] theorem length_toBytes (n x : Nat) : (toBytes n x).length = n := by
  induction n generalizing x with
  | zero => rfl
  | succ n ih => simp [toBytes, ih]

theorem ofBytes_toBytes (n x : Nat) : ofBytes (toBytes n x) = x % 256 ^ n := by
  induction n generalizing x with
  | zero => simp [toBytes, ofBytes, Nat.mod_one]
  | succ n ih => simp [toBytes, ofBytes, ih, Nat.pow_succ', Nat.mod_mul]

theorem length_wordBytes (w : BitVec 32) : (wordBytes w).length = 4 := length_toBytes ..

theorem ofNat_ofBytes_wordBytes (w : BitVec 32) : BitVec.ofNat 32 (ofBytes (wordBytes w)) = w := by
  have : w.toNat % 256 ^ 4 = w.toNat := Nat.mod_eq_of_lt w.isLt
  rw [wordBytes, ofBytes_toBytes, this, BitVec.ofNat_toNat, BitVec.setWidth_eq]

theorem toNat_append_byte {n : Nat} (x : BitVec n) (b : Byte) : (x ++ b).toNat = b.toNat + 256 * x.toNat := by
  rw [BitVec.toNat_append, ← Nat.shiftLeft_add_eq_or_of_lt b.isLt, Nat.shiftLeft_eq]
  omega

/-- A register write takes its bytes in the order of memory. -/
theorem regWords_four (a b c d : Byte) : regWords [a, b, c, d] = [BitVec.ofNat 32 (ofBytes [a, b, c, d])] := by
  simp only [regWords, List.cons.injEq, and_true]
  apply BitVec.eq_of_toNat_eq
  simp only [toNat_append_byte, BitVec.toNat_ofNat, ofBytes]
  omega

theorem regWords_wordBytes (w : BitVec 32) : regWords (wordBytes w) = [w] :=
  (regWords_four ..).trans (congrArg (fun x => [x]) (ofNat_ofBytes_wordBytes w))

/-! ### Blocks of bytes -/

theorem take_drop_overlay_same {off : Nat} {bs xs : List Byte} (h : off ≤ xs.length) :
    ((overlay off bs xs).drop off).take bs.length = bs := by
  simp [overlay, h]

theorem take_drop_overlay_other {off o n : Nat} {bs xs : List Byte} (h : off + bs.length ≤ xs.length)
    (e : o + n ≤ off ∨ off + bs.length ≤ o) : ((overlay off bs xs).drop o).take n = (xs.drop o).take n := by
  refine List.ext_getElem? fun i => ?_
  simp only [overlay, List.getElem?_take, List.getElem?_drop, List.getElem?_append, List.length_take, List.length_append]
  grind

theorem wordAt_overlay_same {off : Nat} (w : BitVec 32) {xs : List Byte} (h : off ≤ xs.length) :
    wordAt (overlay off (wordBytes w) xs) off = w := by
  have := take_drop_overlay_same (bs := wordBytes w) h
  rw [length_wordBytes] at this
  rw [wordAt, this, ofNat_ofBytes_wordBytes]

theorem wordAt_overlay_other {off o : Nat} (w : BitVec 32) {xs : List Byte} (h : off + 4 ≤ xs.length)
    (e : o + 4 ≤ off ∨ off + 4 ≤ o) : wordAt (overlay off (wordBytes w) xs) o = wordAt xs o := by
  rw [wordAt, take_drop_overlay_other (by rwa [length_wordBytes]) (by rwa [length_wordBytes]), wordAt]

end Sys2Proof.Machine
end

section
/-! SUPPORT. BAR 0 as blocks of registers, one for each engine that has plain registers: each reads and writes its own
part of the state. -/
namespace Sys2Proof.Machine
open Sys2Proof.Claims

/-- The blocks of BAR 0 that hold plain registers. -/
inductive RegBlock where
  | pages | sails | fabric | knit | chain | trace | power | security

def RegBlock.all : List RegBlock := [.pages, .sails, .fabric, .knit, .chain, .trace, .power, .security]

/-- Where a block begins. -/
def RegBlock.base : RegBlock → Nat
  | .pages => 0x02040000
  | .sails => 0x02050000
  | .fabric => 0x02060000
  | .knit => 0x02070000
  | .chain => 0x02080000
  | .trace => 0x02090000
  | .power => 0x120
  | .security => 0x2000

/-- The offsets for which `RegBlock.read` and `RegBlock.write` speak; of the knitter's and the recorder's registers
and those of power, the plain ones alone. -/
def RegBlock.size : RegBlock → Nat
  | .pages | .sails | .fabric | .trace => 0x10000
  | .knit | .chain => 8
  | .power => 1
  | .security => 0x2000

/-- The plain registers of a block: offset in it and the bits implemented. -/
def RegBlock.plain : RegBlock → List (Nat × BitVec 32)
  | .pages =>
    [(0x00, 0xFFFFFFFF), (0x04, 0xFFFFFFFF), (0x08, 0xFFFFFFFF), (0x0C, 0xFFFFFFFF), (0x10, 0x1F), (0x18, 0xFFFFFFFF)]
  | .sails => (List.range 8).map fun k => (4 * k, 0x1FFFF)
  | .fabric => [(0x04, 0xFFFF)]
  | .knit | .chain => [(0x00, 0xFFFFFFFF), (0x04, 0xFFFFFFFF)]
  | .trace => [(0x00, 0xFFFFFFFF), (0x04, 0xFFFFFFFF), (0x08, 0x0FFFFFFF)]
  | .power => [(0x00, 0x1FFF)]
  | .security => [(0x08, 0xFFFFFFFF), (0x0C, 0xFFFFFFFF)] ++ (List.range 8).map fun k => (0x20 + 4 * k, 0xFFFFFFFF)

/-- What a read in a block finds. -/
def RegBlock.read (s : State) (o : Nat) : RegBlock → BitVec 32
  | .pages => s.pages.read o
  | .sails => s.readSails o
  | .fabric => s.readFabric o
  | .knit => s.readKnit o
  | .chain => if o % 4 = 0 then half (o == 4) s.chain.ctx else 0
  | .trace => s.readTrace o
  | .power => regField 0 s.board.pcap
  | .security => s.security.read o

/-- What a write in a block changes. -/
def RegBlock.write (s : State) (o : Nat) (w : BitVec 32) : RegBlock → State
  | .pages => { s with pages := s.pages.write o w }
  | .sails => { s with sailRegs := s.sailRegs.write o w }
  | .fabric => { s with fabric := s.fabric.write o w }
  | .knit => { s with knit := { s.knit with hash := putHalf (o == 4) w s.knit.hash } }
  | .chain => { s with chain := { s.chain with ctx := putHalf (o == 4) w s.chain.ctx } }
  | .trace => { s with trace := s.trace.write o w }
  | .power => { s with board := { s.board with pcap := w.extractLsb' 0 13 } }
  | .security => { s with security := s.security.write o w }

/-- The part of the state that a block's plain registers show is the same in two states. -/
def RegBlock.Same (s t : State) : RegBlock → Prop
  | .pages => s.pages = t.pages
  | .sails => s.sailRegs = t.sailRegs
  | .fabric => s.fabric = t.fabric
  | .knit => s.knit = t.knit
  | .chain => s.chain = t.chain
  | .trace => s.trace = t.trace
  | .power => s.board = t.board
  | .security => s.security = t.security

/-! ### The blocks in BAR 0 -/

theorem mem_plainRegisters {off : Nat} {mask : BitVec 32} (h : (off, mask) ∈ plainRegisters) :
    ∃ (b : RegBlock) (o : Nat), off = b.base + o ∧ (o, mask) ∈ b.plain := by
  have key : ∀ r ∈ plainRegisters, ∃ b ∈ RegBlock.all, ∃ p ∈ b.plain, r = (b.base + p.1, p.2) := by decide
  obtain ⟨b, -, ⟨o, m⟩, hm, e⟩ := key _ h
  obtain ⟨rfl, rfl⟩ := Prod.mk.inj e
  exact ⟨b, o, rfl, hm⟩

theorem RegBlock.lt_size_of_mem_plain {b : RegBlock} {o : Nat} {mask : BitVec 32} (h : (o, mask) ∈ b.plain) :
    o < b.size := by
  have key : ∀ p ∈ b.plain, p.1 < b.size := by cases b <;> decide
  exact key _ h

theorem RegBlock.aligned_of_mem_plain {b : RegBlock} {o : Nat} {mask : BitVec 32} (h : (o, mask) ∈ b.plain) :
    (b.base + o) % 4 = 0 ∧ b.base + o < 2 ^ 32 := by
  have key : ∀ p ∈ b.plain, (b.base + p.1) % 4 = 0 ∧ b.base + p.1 < 2 ^ 32 := by cases b <;> decide
  exact key _ h

/-- The 64 KiB page of BAR 0 in which an offset of a block lies, and its place there. -/
theorem RegBlock.page_eq (b : RegBlock) {o : Nat} (ho : o < b.size) :
    (b.base + o) / 0x10000 = b.base / 0x10000 ∧ (b.base + o) % 0x10000 = b.base % 0x10000 + o := by
  cases b <;> simp only [RegBlock.size, RegBlock.base] at ho ⊢ <;> omega

theorem RegBlock.writeWord_eq (b : RegBlock) {o : Nat} (ho : o < b.size) (s : State) (w : BitVec 32) :
    s.writeWord (b.base + o) w = b.write s o w := by
  obtain ⟨hq, hr⟩ := b.page_eq ho
  cases b <;> simp only [RegBlock.base, RegBlock.size] at ho hq hr ⊢
  case pages | sails | fabric | trace => simp [State.writeWord, RegBlock.write, hq, hr]
  case knit | chain => simp [State.writeWord, RegBlock.write, hq, hr, ho]
  case power =>
    obtain rfl : o = 0 := by omega
    rfl
  case security =>
    have h1 : 0x2000 + o ≠ 0x120 := by omega
    have h2 : 0x2000 + o < 0x4000 := by omega
    simp [State.writeWord, RegBlock.write, hq, h1, h2]

theorem RegBlock.readWord_eq (b : RegBlock) {o : Nat} (ho : o < b.size) {s : State} (h : s.board.ready = true) :
    s.readWord (b.base + o) = b.read s o := by
  obtain ⟨hq, hr⟩ := b.page_eq ho
  cases b <;> simp only [RegBlock.base, RegBlock.size] at ho hq hr ⊢
  case pages | sails | fabric | knit | trace => simp [State.readWord, RegBlock.read, hq, hr, h]
  case chain =>
    have hoff : 0x02080000 + o ≠ 0 := by omega
    have hmod : o ≠ 0 → o ≠ 4 → o % 4 ≠ 0 := by omega
    simp only [State.readWord, RegBlock.read, hq, hr, h, hoff, Nat.reduceDiv, Nat.reduceMod, Nat.zero_add,
      if_false, Bool.not_true, Bool.false_eq_true]
    split
    next => rfl
    next => rfl
    next => omega
    next => omega
    next h0 h4 _ _ => rw [if_neg (hmod h0 h4)]
  case power =>
    obtain rfl : o = 0 := by omega
    simp [State.readWord, RegBlock.read, h]
  case security =>
    have h1 : ¬ 0x2000 + o < 0x118 := by omega
    have h2 : 0x2000 + o ≠ 0x120 := by omega
    have h3 : 0x2000 + o ≠ 0x124 := by omega
    have h4 : 0x2000 + o < 0x4000 := by omega
    simp [State.readWord, RegBlock.read, hq, h, h1, h2, h3, h4]

/-! ### What a write in a block leaves alone -/

@[simp] theorem RegBlock.write_mem (b : RegBlock) (s : State) (o : Nat) (w : BitVec 32) : (b.write s o w).mem = s.mem := by
  cases b <;> rfl

@[simp] theorem RegBlock.write_cores (b : RegBlock) (s : State) (o : Nat) (w : BitVec 32) :
    (b.write s o w).cores = s.cores := by
  cases b <;> rfl

@[simp] theorem RegBlock.write_ready (b : RegBlock) (s : State) (o : Nat) (w : BitVec 32) :
    (b.write s o w).board.ready = s.board.ready := by
  cases b <;> rfl

theorem RegBlock.write_other {b c : RegBlock} (h : b ≠ c) (s : State) (o : Nat) (w : BitVec 32) :
    c.Same (b.write s o w) s := by
  cases b <;> cases c <;> simp [RegBlock.Same, RegBlock.write] at h ⊢

/-! ### The registers of each block -/

theorem RegBlock.mem_plain_sails {o : Nat} {mask : BitVec 32} (h : (o, mask) ∈ RegBlock.sails.plain) :
    ∃ k < 8, o = 4 * k ∧ mask = 0x1FFFF := by
  simp only [RegBlock.plain, List.mem_map, List.mem_range, Prod.mk.injEq] at h
  obtain ⟨k, hk, rfl, rfl⟩ := h
  exact ⟨k, hk, rfl, rfl⟩

theorem RegBlock.mem_plain_security {o : Nat} {mask : BitVec 32} (h : (o, mask) ∈ RegBlock.security.plain) :
    mask = 0xFFFFFFFF ∧ (o = 0x08 ∨ o = 0x0C ∨ ∃ k < 8, o = 0x20 + 4 * k) := by
  simp only [RegBlock.plain, List.mem_append, List.mem_cons, List.not_mem_nil, or_false, List.mem_map, List.mem_range,
    Prod.mk.injEq] at h
  obtain (⟨rfl, rfl⟩ | ⟨rfl, rfl⟩) | ⟨k, hk, rfl, rfl⟩ := h
  · exact ⟨rfl, .inl rfl⟩
  · exact ⟨rfl, .inr (.inl rfl)⟩
  · exact ⟨rfl, .inr (.inr ⟨k, hk, rfl⟩)⟩

theorem State.readSails_pasid (s : State) {k : Nat} (hk : k < 8) :
    s.readSails (4 * k) =
      regField 0 ((s.sailRegs.pasid[k]?).getD (0, false)).1 ||| regFlag 16 ((s.sailRegs.pasid[k]?).getD (0, false)).2 := by
  have h : 4 * k < 0x20 := by omega
  simp [State.readSails, h]

theorem SailRegs.write_pasid (r : SailRegs) {k : Nat} (hk : k < 8) (w : BitVec 32) :
    r.write (4 * k) w = { r with pasid := setAt r.pasid k (w.extractLsb' 0 16, w.getLsbD 16) } := by
  have h : 4 * k < 0x20 := by omega
  simp [SailRegs.write, h]

theorem Security.read_nonce (x : Security) {k : Nat} (hk : k < 8) : x.read (0x20 + 4 * k) = wordAt x.nonce (4 * k) := by
  unfold Security.read
  grind

theorem Security.write_nonce (x : Security) {k : Nat} (hk : k < 8) (w : BitVec 32) :
    x.write (0x20 + 4 * k) w = { x with nonce := overlay (4 * k) (wordBytes w) x.nonce } := by
  unfold Security.write
  grind

/-- The two words of one 64-bit register, as the knitter and the recorder have it. -/
theorem mem_halves {o : Nat} {mask : BitVec 32} (h : (o, mask) ∈ [(0x00, 0xFFFFFFFF#32), (0x04, 0xFFFFFFFF)]) :
    (o = 0x00 ∨ o = 0x04) ∧ mask = 0xFFFFFFFF := by
  simpa [← or_and_right] using h

theorem RegBlock.mem_plain_fabric {o : Nat} {mask : BitVec 32} (h : (o, mask) ∈ RegBlock.fabric.plain) :
    o = 0x04 ∧ mask = 0xFFFF := by
  simpa [RegBlock.plain] using h

theorem RegBlock.mem_plain_trace {o : Nat} {mask : BitVec 32} (h : (o, mask) ∈ RegBlock.trace.plain) :
    o = 0x00 ∧ mask = 0xFFFFFFFF ∨ o = 0x04 ∧ mask = 0xFFFFFFFF ∨ o = 0x08 ∧ mask = 0x0FFFFFFF := by
  simpa [RegBlock.plain] using h

/-- A block's plain registers show no other part of the state. -/
theorem RegBlock.Same.read_eq {b : RegBlock} {s t : State} (h : b.Same s t) {o : Nat} {mask : BitVec 32}
    (ho : (o, mask) ∈ b.plain) : b.read s o = b.read t o := by
  cases b <;> simp only [RegBlock.Same] at h
  case sails =>
    obtain ⟨k, hk, rfl, rfl⟩ := RegBlock.mem_plain_sails ho
    simp only [RegBlock.read, State.readSails_pasid _ hk, h]
  case fabric =>
    obtain ⟨rfl, rfl⟩ := RegBlock.mem_plain_fabric ho
    simp [RegBlock.read, State.readFabric, h]
  case knit =>
    have := RegBlock.lt_size_of_mem_plain ho
    simp_all [RegBlock.read, State.readKnit, RegBlock.size]
  case trace =>
    obtain ⟨rfl, rfl⟩ | ⟨rfl, rfl⟩ | ⟨rfl, rfl⟩ := RegBlock.mem_plain_trace ho
    all_goals simp [RegBlock.read, State.readTrace, h]
  case pages | chain | power | security => simp only [RegBlock.read, h]

/-! ### A register after a write in its own block -/

@[simp] theorem and_fullMask (w : BitVec 32) : w &&& 0xFFFFFFFF#32 = w := BitVec.and_allOnes

theorem PageEngine.read_write_same (p : PageEngine) {o : Nat} {mask : BitVec 32} (ho : (o, mask) ∈ RegBlock.pages.plain)
    (w : BitVec 32) : (p.write o w).read o = w &&& mask := by
  simp only [RegBlock.plain, List.mem_cons, List.not_mem_nil, or_false, Prod.mk.injEq] at ho
  obtain ⟨rfl, rfl⟩ | ⟨rfl, rfl⟩ | ⟨rfl, rfl⟩ | ⟨rfl, rfl⟩ | ⟨rfl, rfl⟩ | ⟨rfl, rfl⟩ := ho
  case inr.inr.inr.inr.inl => exact regField_or_regFlag 4 w
  all_goals simp [PageEngine.read, PageEngine.write, half_putHalf_same]

theorem PageEngine.read_write_other (p : PageEngine) {o o' : Nat} {mask mask' : BitVec 32}
    (ho : (o, mask) ∈ RegBlock.pages.plain) (ho' : (o', mask') ∈ RegBlock.pages.plain) (e : o' ≠ o) (w : BitVec 32) :
    (p.write o w).read o' = p.read o' := by
  simp only [RegBlock.plain, List.mem_cons, List.not_mem_nil, or_false, Prod.mk.injEq] at ho ho'
  obtain ⟨rfl, rfl⟩ | ⟨rfl, rfl⟩ | ⟨rfl, rfl⟩ | ⟨rfl, rfl⟩ | ⟨rfl, rfl⟩ | ⟨rfl, rfl⟩ := ho <;>
  obtain ⟨rfl, rfl⟩ | ⟨rfl, rfl⟩ | ⟨rfl, rfl⟩ | ⟨rfl, rfl⟩ | ⟨rfl, rfl⟩ | ⟨rfl, rfl⟩ := ho' <;>
  simp [PageEngine.read, PageEngine.write, half_putHalf_other] at e ⊢

theorem Security.read_write_same {x : Security} (hx : x.nonce.length = 32) {o : Nat} {mask : BitVec 32}
    (ho : (o, mask) ∈ RegBlock.security.plain) (w : BitVec 32) : (x.write o w).read o = w &&& mask := by
  obtain ⟨rfl, rfl | rfl | ⟨k, hk, rfl⟩⟩ := RegBlock.mem_plain_security ho
  · simp [Security.read, Security.write, half_putHalf_same]
  · simp [Security.read, Security.write, half_putHalf_same]
  · rw [Security.write_nonce x hk, Security.read_nonce _ hk, wordAt_overlay_same w (by omega)]
    exact (and_fullMask w).symm

theorem Security.read_write_other {x : Security} (hx : x.nonce.length = 32) {o o' : Nat} {mask mask' : BitVec 32}
    (ho : (o, mask) ∈ RegBlock.security.plain) (ho' : (o', mask') ∈ RegBlock.security.plain) (e : o' ≠ o)
    (w : BitVec 32) : (x.write o w).read o' = x.read o' := by
  obtain ⟨rfl, h⟩ := RegBlock.mem_plain_security ho
  obtain ⟨rfl, h'⟩ := RegBlock.mem_plain_security ho'
  obtain rfl | rfl | ⟨k, hk, rfl⟩ := h <;> obtain rfl | rfl | ⟨j, hj, rfl⟩ := h'
  case inr.inr.inr.inr =>
    rw [Security.write_nonce x hk, Security.read_nonce _ hj, Security.read_nonce x hj,
      wordAt_overlay_other w (by omega) (by omega)]
  case inr.inr.inl | inr.inr.inr.inl => rw [Security.write_nonce x hk]; rfl
  case inl.inr.inr | inr.inl.inr.inr => rw [Security.read_nonce _ hj, Security.read_nonce x hj]; rfl
  all_goals simp [Security.read, Security.write, half_putHalf_other] at e ⊢

/-- A plain register reads back the bits it implements. -/
theorem RegBlock.read_write_same (b : RegBlock) {s : State} (hn : s.security.nonce.length = 32)
    (hp : s.sailRegs.pasid.length = 8) {o : Nat} {mask : BitVec 32} (ho : (o, mask) ∈ b.plain) (w : BitVec 32) :
    b.read (b.write s o w) o = w &&& mask := by
  cases b
  case pages => exact s.pages.read_write_same ho w
  case sails =>
    obtain ⟨k, hk, rfl, rfl⟩ := RegBlock.mem_plain_sails ho
    rw [RegBlock.read, State.readSails_pasid _ hk, RegBlock.write, SailRegs.write_pasid _ hk]
    simp only [getElem?_setAt, hp, hk, List.getElem?_eq_getElem, if_true, Option.map_some, Option.getD_some]
    exact regField_or_regFlag 16 w
  case security => exact Security.read_write_same hn ho w
  case fabric =>
    obtain ⟨rfl, rfl⟩ := RegBlock.mem_plain_fabric ho
    exact regField_extractLsb' 16 w
  case power =>
    obtain ⟨rfl, rfl⟩ : o = 0 ∧ mask = 0x1FFF := by simpa [RegBlock.plain] using ho
    exact regField_extractLsb' 13 w
  case knit | chain =>
    obtain ⟨rfl | rfl, rfl⟩ := mem_halves ho <;>
    simp [RegBlock.read, RegBlock.write, State.readKnit, half_putHalf_same]
  case trace =>
    obtain ⟨rfl, rfl⟩ | ⟨rfl, rfl⟩ | ⟨rfl, rfl⟩ := RegBlock.mem_plain_trace ho
    case inr.inr => exact regField_extractLsb' 28 w
    all_goals simp [RegBlock.read, RegBlock.write, State.readTrace, TraceRegs.write, half_putHalf_same]

/-- No other plain register of the block changes. -/
theorem RegBlock.read_write_other (b : RegBlock) {s : State} (hn : s.security.nonce.length = 32)
    {o o' : Nat} {mask mask' : BitVec 32} (ho : (o, mask) ∈ b.plain) (ho' : (o', mask') ∈ b.plain) (e : o' ≠ o)
    (w : BitVec 32) : b.read (b.write s o w) o' = b.read s o' := by
  cases b
  case pages => exact s.pages.read_write_other ho ho' e w
  case sails =>
    obtain ⟨k, hk, rfl, rfl⟩ := RegBlock.mem_plain_sails ho
    obtain ⟨j, hj, rfl, rfl⟩ := RegBlock.mem_plain_sails ho'
    have hjk : j ≠ k := by omega
    simp only [RegBlock.read, RegBlock.write, State.readSails_pasid _ hj, SailRegs.write_pasid _ hk, getElem?_setAt,
      if_neg hjk]
  case security => exact Security.read_write_other hn ho ho' e w
  case fabric =>
    obtain ⟨rfl, -⟩ := RegBlock.mem_plain_fabric ho
    obtain ⟨rfl, -⟩ := RegBlock.mem_plain_fabric ho'
    exact absurd rfl e
  case power =>
    have := RegBlock.lt_size_of_mem_plain ho
    have := RegBlock.lt_size_of_mem_plain ho'
    simp only [RegBlock.size] at *
    omega
  case knit | chain =>
    obtain ⟨rfl | rfl, -⟩ := mem_halves ho <;> obtain ⟨rfl | rfl, -⟩ := mem_halves ho' <;>
    simp [RegBlock.read, RegBlock.write, State.readKnit, half_putHalf_other] at e ⊢
  case trace =>
    obtain ⟨rfl, rfl⟩ | ⟨rfl, rfl⟩ | ⟨rfl, rfl⟩ := RegBlock.mem_plain_trace ho <;>
    obtain ⟨rfl, rfl⟩ | ⟨rfl, rfl⟩ | ⟨rfl, rfl⟩ := RegBlock.mem_plain_trace ho' <;>
    simp [RegBlock.read, RegBlock.write, State.readTrace, TraceRegs.write, half_putHalf_other] at e ⊢

end Sys2Proof.Machine
end

section
/-! The statements of spec/00_scope.md: registers read back (R7 to R9); reset and the power-on sequence (R475 to R478). -/
namespace Sys2Proof.Machine
open Sys2Proof.Claims

/-! ### Registers -/

theorem exec_registerWrite_notReady {s : State} (h : s.board.ready = false) (off : Nat) (bytes : List Byte) :
    exec (.registerWrite off bytes) s = .next s := by
  change execRegisterWrite off bytes s = .next s
  simp [execRegisterWrite, h]

theorem exec_registerWrite_word {s : State} (h : s.board.ready = true) {off : Nat} (ha : off % 4 = 0) (hl : off < 2 ^ 32)
    (w : BitVec 32) : exec (.registerWrite off (wordBytes w)) s = .next (s.writeWord off w) := by
  have hq : off / 2 ^ 32 = 0 := Nat.div_eq_of_lt hl
  have hr : off % 2 ^ 32 = off := Nat.mod_eq_of_lt hl
  change execRegisterWrite off (wordBytes w) s = _
  simp only [execRegisterWrite, h, ha, regWords_wordBytes, hq, hr]
  simp [State.maps]

theorem State.readWord_notReady {s : State} (h : s.board.ready = false) {off : Nat} (ho : off ≠ 0) : s.readWord off = 0 := by
  simp [State.readWord, h, ho]

/-- The write at a plain register changes what that register reads, and no other plain register. -/
theorem RegBlock.read_write (b c : RegBlock) {s : State} (hn : s.security.nonce.length = 32) {o o' : Nat}
    {mask mask' : BitVec 32} (ho : (o, mask) ∈ b.plain) (ho' : (o', mask') ∈ c.plain) (e : c.base + o' ≠ b.base + o)
    (w : BitVec 32) : c.read (b.write s o w) o' = c.read s o' := by
  by_cases h : b = c
  · subst h
    exact b.read_write_other hn ho ho' (fun h => e (by rw [h])) w
  · exact (RegBlock.write_other h s o w).read_eq ho'

/-- Settles O53: a plain register lies in one block of BAR 0, which alone the write changes. -/
theorem registersReadBack : Obligations.RegistersReadBack := by
  unfold Obligations.RegistersReadBack
  intro s off w
  refine ⟨fun h => exec_registerWrite_notReady h off, fun h => State.readWord_notReady h, fun h hn hp mask hm => ?_⟩
  obtain ⟨b, o, rfl, ho⟩ := mem_plainRegisters hm
  obtain ⟨ha, hl⟩ := RegBlock.aligned_of_mem_plain ho
  have hlt := RegBlock.lt_size_of_mem_plain ho
  have hw : (b.write s o w).board.ready = true := by rw [RegBlock.write_ready, h]
  refine ⟨b.write s o w, ?_, ?_, fun off' mask' hm' e => ?_, b.write_mem s o w, b.write_cores s o w⟩
  · rw [← b.writeWord_eq hlt]
    exact exec_registerWrite_word h ha hl w
  · rw [b.readWord_eq hlt hw, b.read_write_same hn hp ho]
  · obtain ⟨c, o', rfl, ho'⟩ := mem_plainRegisters hm'
    have hlt' := RegBlock.lt_size_of_mem_plain ho'
    rw [c.readWord_eq hlt' hw, c.readWord_eq hlt' h, b.read_write c hn ho ho' e]

/-! ### Reset and the power-on sequence -/

/-- The module once the power-on sequence has run from reset without a failure. -/
def State.poweredOn : State :=
  { State.reset with
    sails := [sailZero]
    fabric := { minc := 1 }
    board := { ready := true, stage := 7, dieOk := 0x3F, step := 8 } }

/-- No step of the sequence reads a free value, so the run computes. -/
theorem after_bringUp : after bringUp State.reset = some State.poweredOn := rfl

/-- Before READY every register reads 0, HB_STATUS among them while no step has begun. -/
theorem State.readWord_reset (off : Nat) : State.reset.readWord off = 0 := by
  by_cases h : off = 0
  · subst h
    decide
  · exact State.readWord_notReady rfl h

/-- Sail 0's part on a die holds the ring panels of that die, and none of another. -/
theorem sailZeroPart_panelsOn (d e : Nat) :
    ((sailZeroPart d).held.filter fun q => q.1 == e).map Prod.snd = if d = e then ringPanels else [] := by
  by_cases h : d = e
  · have all : (sailZeroPart d).held.filter (fun q => q.1 == e) = (sailZeroPart d).held :=
      List.filter_eq_self.2 (by simp [sailZeroPart, SailPart.held, h])
    rw [all, if_pos h]
    simp [sailZeroPart, SailPart.held, ringPanels]
  · have none : (sailZeroPart d).held.filter (fun q => q.1 == e) = [] :=
      List.filter_eq_nil_iff.2 (by simp [sailZeroPart, SailPart.held, h])
    rw [none, if_neg h, List.map_nil]

theorem State.cutPanels_poweredOn : State.poweredOn.cutPanels 0 = ringPanels := by
  have hs : State.poweredOn.sails = [sailZero] := rfl
  have hp : sailZero.parts = [0, 1, 2, 3, 4, 5].map sailZeroPart := rfl
  simp [State.cutPanels, hs, hp, sailZeroPart_panelsOn]

theorem mem_ringPanels {n : Nat} : n ∈ ringPanels ↔ 5120 ≤ n ∧ n < 6144 := by
  simp only [ringPanels, List.mem_map, List.mem_range]
  exact ⟨fun ⟨k, hk, e⟩ => by omega, fun h => ⟨n - 5120, by omega, by omega⟩⟩

/-- With sail 0 on the ring, the panels that stand near the cores are free. -/
theorem State.freePanels_poweredOn : State.poweredOn.freePanels 0 (List.range 6144) = List.range 5120 := by
  have free : ∀ n, n < 6144 → ((!ringPanels.contains n && !([] : List Nat).contains n) = decide (n < 5120)) := by
    intro n hn
    rw [Bool.eq_iff_iff]
    simp [mem_ringPanels, hn]
  have hfail : (State.poweredOn.die 0).failed = [] := rfl
  have low : (List.range 5120).filter (fun n => decide (n < 5120)) = List.range 5120 := by simp
  have ring : ((List.range 1024).map (5120 + ·)).filter (fun n => decide (n < 5120)) = [] := by simp
  rw [State.freePanels, State.cutPanels_poweredOn, hfail, List.filter_congr fun n hn => free n (List.mem_range.1 hn),
    show 6144 = 5120 + 1024 from rfl, List.range_add, List.filter_append, low, ring, List.append_nil]

/-- A queue at its reset values reads as 0 in LW_QCFG and LW_QHEAD. -/
theorem Walker.read_queue {x : Walker} {q : Nat} (h : x.queues[q]? = some {}) (hq : q < 64) :
    x.read (64 * q + 8) = 0 ∧ x.read (64 * q + 16) = 0 := by
  have h1 : 64 * q + 8 < 0x1000 := by omega
  have h2 : 64 * q + 16 < 0x1000 := by omega
  have hd : (64 * q + 8) / 64 = q ∧ (64 * q + 16) / 64 = q := by omega
  have hm : (64 * q + 8) % 64 = 8 ∧ (64 * q + 16) % 64 = 16 := by omega
  simp [Walker.read, h, h1, h2, hd, hm, regField, regFlag]

/-- A counter that nothing has set reads as 0. -/
theorem Walker.read_counter {x : Walker} (h : x.counters = []) {k : Nat} (hk : k < 4096) :
    x.read (0x10000 + 8 * k) = 0 ∧ x.read (0x10000 + 8 * k + 4) = 0 := by
  have h1 : 0x10000 + 8 * k < 0x18000 ∧ 0x10000 + 8 * k + 4 < 0x18000 := by omega
  have h2 : ¬ 0x10000 + 8 * k < 0x1000 ∧ ¬ 0x10000 + 8 * k + 4 < 0x1000 := by omega
  simp [Walker.read, h, h1, h2, regField, regFlag]

/-- The queue registers and the completion counters are the walker's. -/
theorem State.readWord_walker {s : State} (h : s.board.ready = true) {o : Nat} (ho : o < 0x20000) :
    s.readWord (0x02000000 + o) = s.walker.read o := by
  have hq : (0x02000000 + o) / 0x10000 = 0x0200 ∨ (0x02000000 + o) / 0x10000 = 0x0201 := by omega
  obtain hq | hq := hq <;> simp [State.readWord, h, hq]

theorem State.readSails_free (s : State) : s.readSails 0x30 = BitVec.ofNat 32 (s.freeCount 0) := rfl

/-- Settles O59: the sequence is computed, and the registers are read from the state it ends in. -/
theorem resetAndBringUp : Obligations.ResetAndBringUp := by
  unfold Obligations.ResetAndBringUp
  have hr : State.poweredOn.board.ready = true := rfl
  refine ⟨reset_memInv, rfl, rfl, rfl, rfl, State.readWord_reset, State.poweredOn, after_bringUp, reset_memInv, rfl, rfl, rfl,
    rfl, rfl, rfl, rfl, rfl, ?_, fun q hq => ?_, fun k hk => ?_⟩
  · have := RegBlock.readWord_eq .sails (o := 0x30) (by decide) hr
    rw [RegBlock.base, RegBlock.read, State.readSails_free, State.freeCount, State.freePanels_poweredOn,
      List.length_range] at this
    exact this
  · rw [Nat.add_assoc, Nat.add_assoc, State.readWord_walker hr (by omega), State.readWord_walker hr (by omega)]
    exact Walker.read_queue (List.getElem?_replicate_of_lt hq) hq
  · rw [show 0x02010000 + 8 * k = 0x02000000 + (0x10000 + 8 * k) by omega, Nat.add_assoc 0x02000000,
      State.readWord_walker hr (by omega), State.readWord_walker hr (by omega)]
    exact Walker.read_counter rfl hk

end Sys2Proof.Machine
end

section
/-! The statements of spec/03_launch_walker.md: the launch queues' registers (R76, R77), the copying of records (R77, R80, R81) and
completion counters (R91, R92). -/
namespace Sys2Proof.Machine

/-! ### Queue registers -/

theorem modAt_eq_setAt {α : Type} {xs : List α} {n : Nat} {x : α} (h : xs[n]? = some x) (f : α → α) :
    modAt xs n f = setAt xs n (f x) := by
  induction xs generalizing n with
  | nil => simp at h
  | cons y ys ih =>
    cases n with
    | zero => simp_all [modAt, setAt]
    | succ n => simpa [modAt, setAt] using ih (by simpa using h)

/-- Replaces the registers of a queue. -/
def State.setLq (s : State) (q : Nat) (x : LaunchQueue) : State :=
  { s with walker := { s.walker with queues := setAt s.walker.queues q x } }

theorem State.modLq_eq_setLq {s : State} {q : Nat} {x : LaunchQueue} (h : s.walker.queues[q]? = some x)
    (f : LaunchQueue → LaunchQueue) : s.modLq q f = s.setLq q (f x) := by
  rw [State.modLq, modAt_eq_setAt h, State.setLq]

theorem exec_lwQdb {s : State} (hr : s.board.ready = true) {q : Nat} {x : LaunchQueue}
    (hx : s.walker.queues[q]? = some x) (tail : BitVec 32) :
    exec (.lwQdb q tail) s = .next (s.setLq q
      (if (tail - x.head).toNat ≤ x.size then { x with tail := tail } else { x with overrun := true })) := by
  change execLwQdb q tail s = _
  simp only [execLwQdb, hr, State.modLq_eq_setLq hx, Bool.not_true, Bool.false_eq_true, if_false]

/-- While EN is 1 only EN is written; HEAD and the tail go to 0 when EN does from 0 to 1. -/
theorem exec_lwQcfg {s : State} (hr : s.board.ready = true) {q : Nat} {x : LaunchQueue}
    (hx : s.walker.queues[q]? = some x) (w : BitVec 32) :
    exec (.lwQcfg q w) s = .next (s.setLq q
      (if x.en then { x with en := w.getLsbD 0 }
       else { x with en := w.getLsbD 0, log2n := w.extractLsb' 1 4, fn := w.extractLsb' 8 4, asid := w.extractLsb' 16 16
                     head := if w.getLsbD 0 then 0 else x.head, tail := if w.getLsbD 0 then 0 else x.tail })) := by
  change execLwQcfg q w s = _
  simp only [execLwQcfg, hr, State.modLq_eq_setLq hx, Bool.not_true, Bool.false_eq_true, if_false]
  cases w.getLsbD 0 <;> rfl

theorem exec_lwQstat {s : State} (hr : s.board.ready = true) {q : Nat} {x : LaunchQueue}
    (hx : s.walker.queues[q]? = some x) (w : BitVec 32) :
    exec (.lwQstat q w) s = .next (s.setLq q
      { x with overrun := x.overrun && !w.getLsbD 0, ringFault := x.ringFault && !w.getLsbD 1 }) := by
  change execLwQstat q w s = _
  simp only [execLwQstat, hr, State.modLq_eq_setLq hx, Bool.not_true, Bool.false_eq_true, if_false]

/-! ### Copying records -/

/-- The walker copies the record at HEAD of the queue (R77): the queue is enabled and has not stopped, its ring is not empty,
and the walker holds fewer than 8 of its launches. -/
structure State.Copies (s : State) (q : Nat) : Prop where
  ready : s.board.ready = true
  en : (s.queue q).en = true
  running : (s.queue q).ringFault = false
  filled : (s.queue q).head ≠ (s.queue q).tail
  room : s.heldOf q < 8

/-- The record at HEAD of a queue, as the walker reads it. -/
def State.headRecord (s : State) (q : Nat) : State × Option (List Byte) :=
  s.ringRecord (s.queue q).asid.toNat ((s.queue q).base.toNat + 256 * ((s.queue q).head.toNat % (s.queue q).size))

/-- HEAD of a queue moves past a record that has been copied. -/
def State.pastHead (s : State) (q : Nat) : State := s.modLq q fun x => { x with head := x.head + 1 }

/-- The launch of a record that a queue's walker has just copied. -/
def State.copiedLaunch (s : State) (q asid : Nat) (bs : List Byte) : Launch :=
  { key := s.walker.nextKey, queue := q, record := launchRecOf bs, asid := asid, copyTime := s.now
    cursor := 5, budget := (launchRecOf bs).budgetInUse.getD 8 }

section
variable {s s' : State} {q : Nat} {bs : List Byte}

/-- The condition under which LAUNCH_RECORD_COPY does nothing. -/
theorem State.Copies.guard (h : s.Copies q) : (!s.board.ready || !(s.queue q).en || (s.queue q).ringFault ||
    (s.queue q).head == (s.queue q).tail || decide (8 ≤ s.heldOf q)) = false := by
  simp [h.ready, h.en, h.running, h.filled, h.room]

theorem exec_launchRecordCopy_unreadable (h : s.Copies q) (hrec : s.headRecord q = (s', none)) :
    exec (.launchRecordCopy q) s = .next (s'.modLq q fun x => { x with ringFault := true }) := by
  rw [State.headRecord] at hrec
  change execLaunchRecordCopy q s = _
  simp only [execLaunchRecordCopy, h.guard, hrec, Bool.false_eq_true, if_false]

/-- With the thermal stop on, every record is refused with status 0x55. -/
theorem exec_launchRecordCopy_thermOff (h : s.Copies q) (hrec : s.headRecord q = (s', some bs))
    (ht : (s'.pastHead q).board.thermOff = true) : exec (.launchRecordCopy q) s =
      .next ((s'.pastHead q).reportLaunch (s'.copiedLaunch q (s.queue q).asid.toNat bs) 0x55 0) := by
  rw [State.headRecord] at hrec
  rw [State.pastHead] at ht
  change execLaunchRecordCopy q s = _
  simp only [execLaunchRecordCopy, h.guard, hrec, ht, Bool.false_eq_true, if_false, if_true]
  rfl

theorem exec_launchRecordCopy_admitted (h : s.Copies q) (hrec : s.headRecord q = (s', some bs))
    (ht : (s'.pastHead q).board.thermOff = false) (hj : rejection bs (launchRecOf bs) = none) :
    let t := s'.pastHead q
    exec (.launchRecordCopy q) s = .next { t with walker := { t.walker with
      nextKey := t.walker.nextKey + 1, launches := t.walker.launches ++ [s'.copiedLaunch q (s.queue q).asid.toNat bs] } } := by
  rw [State.headRecord] at hrec
  rw [State.pastHead] at ht
  change execLaunchRecordCopy q s = _
  simp only [execLaunchRecordCopy, h.guard, hrec, ht, hj, Bool.false_eq_true, if_false]
  rfl

theorem exec_launchRecordCopy_rejected (h : s.Copies q) (hrec : s.headRecord q = (s', some bs))
    (ht : (s'.pastHead q).board.thermOff = false) {why : Nat} (hj : rejection bs (launchRecOf bs) = some why) :
    exec (.launchRecordCopy q) s = .next ((((s'.pastHead q).modLq q fun x => { x with lastReason := BitVec.ofNat 8 why }).walkerEvent
      q 0x10).reportLaunch (s'.copiedLaunch q (s.queue q).asid.toNat bs) 0x10 why) := by
  rw [State.headRecord] at hrec
  rw [State.pastHead] at ht
  change execLaunchRecordCopy q s = _
  simp only [execLaunchRecordCopy, h.guard, hrec, ht, hj, Bool.false_eq_true, if_false]
  rfl

end

/-! ### Completion counters -/

theorem exec_lwCcCount_write {s : State} (hr : s.board.ready = true) {k : Nat} (hk : k < 4096) (w : BitVec 32) :
    exec (.lwCcCount k (.write w)) s = .next (s.setCounter { s.counter k with
      count := w.extractLsb' 0 31, err := (s.counter k).err && !w.getLsbD 31 }).settleDeps := by
  have hk : ¬ 4096 ≤ k := by omega
  change execLwCcCount k (.write w) s = _
  simp [execLwCcCount, hr, hk]

theorem exec_lwCcCount_signal {s : State} (hr : s.board.ready = true) {k : Nat} (hk : k < 4096) (err : Bool) :
    exec (.lwCcCount k (.signal err)) s = .next (s.signal k err).settleDeps := by
  have hk : ¬ 4096 ≤ k := by omega
  change execLwCcCount k (.signal err) s = _
  simp [execLwCcCount, hr, hk]

/-- A signal of a counter that is there adds 1, up to the largest COUNT (R92). -/
theorem State.signal_of_lt {k : Nat} (hk : k < 4096) (s : State) (err : Bool) :
    s.signal k err = s.setCounter { s.counter k with
      count := if (s.counter k).count = BitVec.allOnes 31 then BitVec.allOnes 31 else (s.counter k).count + 1
      err := (s.counter k).err || err } := by
  have hk : k ≠ 0xFFFF := by omega
  have saturates (n top : BitVec 31) : (if n = top then n else n + 1) = if n = top then top else n + 1 :=
    ite_congr rfl id fun _ => rfl
  simp only [State.signal, if_neg hk, saturates]

/-- Settles O44: each register write and each fate of a record has its own equation. -/
theorem queuesRecordsAndCounters : Obligations.QueuesRecordsAndCounters := by
  unfold Obligations.QueuesRecordsAndCounters
  intro s hr
  refine ⟨fun q tail x hx => exec_lwQdb hr hx tail, fun q w x hx => exec_lwQcfg hr hx w,
    fun q w x hx => exec_lwQstat hr hx w, fun q hen hrun hfill hroom => ?_,
    fun k w hk => exec_lwCcCount_write hr hk w, fun k err hk => ?_⟩
  · have hc : s.Copies q := ⟨hr, hen, hrun, hfill, hroom⟩
    exact ⟨fun s' hrec => exec_launchRecordCopy_unreadable hc hrec, fun s' bs hrec =>
      ⟨exec_launchRecordCopy_thermOff hc hrec, exec_launchRecordCopy_admitted hc hrec,
        fun ht why => exec_launchRecordCopy_rejected hc hrec ht⟩⟩
  · rw [exec_lwCcCount_signal hr hk, State.signal_of_lt hk]

end Sys2Proof.Machine
end

section
/-! SUPPORT. A meaning in the current stream (R59, R105, R106): what it changes there, what is due to the stream, and the
fence that a stream-wide instruction issues first. -/
namespace Sys2Proof.Machine
open Sys2Proof.Claims

variable {c : Cx}

/-! ### The current stream -/

/-- The stream of `c` is current in its state. -/
def Cx.Runs (c : Cx) : Prop := Claims.Runs c.s c.r c.t c.st

theorem Cx.Runs.withCx (h : c.Runs) (f : Cx → Out) : withCx c.s f = f c := by
  obtain ⟨hc, ht, hs⟩ := h
  exact withCx_runs hc ht hs f

theorem Cx.Runs.stream_eq (h : c.Runs) : c.s.stream? c.r = some c.st := by
  obtain ⟨-, ht, hs⟩ := h
  rw [State.stream?, ht, Option.bind_some, hs]

/-- A change of the current stream matters at that stream alone. -/
theorem Cx.Runs.modStream_congr (h : c.Runs) {f g : Stream → Stream} (e : f c.st = g c.st) :
    c.s.modStream c.r f = c.s.modStream c.r g := by
  obtain ⟨-, ht, hs⟩ := h
  rw [State.modStream_some ht hs, State.modStream_some ht hs, e]

theorem Cx.Runs.stream_modStream (h : c.Runs) (f : Stream → Stream) :
    (c.s.modStream c.r f).stream? c.r = some (f c.st) := by
  obtain ⟨-, ht, hs⟩ := h
  rw [State.stream?, State.team_modStream_same ht hs, Option.bind_some, Team.stream_setStream_same (f c.st) hs]

@[simp] theorem State.modTeam_now (s : State) (k : CoreRef) (f : Team → Team) : (s.modTeam k f).now = s.now := by
  simp [State.now]

@[simp] theorem State.modStream_now (s : State) (r : StreamRef) (f : Stream → Stream) : (s.modStream r f).now = s.now :=
  State.modTeam_now ..

/-- The reference a stream hands on depends on its latest link alone. -/
theorem Cx.Runs.arrival_modStream (h : c.Runs) {f : Stream → Stream} (hl : (f c.st).link = c.st.link)
    (last : Option (Nat × Nat)) : (c.s.modStream c.r f).arrival c.r last = c.s.arrival c.r last := by
  have hf : (c.s.modStream c.r f).fabric = c.s.fabric := State.modTeam_fabric ..
  simp only [State.arrival, State.streamRef, h.stream_modStream, h.stream_eq, Option.bind_some, hl, hf, State.modStream_now]

/-! ### What is due, and guards that do not hold -/

theorem Cx.unlessDue_nothing (h : nothingDue c.st) (paths : List Nat) (go : Out) : c.unlessDue paths go = go := by
  obtain ⟨hp, hd⟩ := h
  simp only [Cx.unlessDue, hp, hd, ite_self, List.find?_nil]

/-- No lane executes, so none raises an exception: the fallbacks are written and the stream moves on (R59). -/
theorem Cx.guardedOff_eq (c : Cx) (opc : Nat) (i : Ins) (tys : List Nat) :
    c.guardedOff opc i tys = .next (c.update (c.written opc i tys 0 [])) := by
  rw [Cx.guardedOff, Cx.finish, Cx.trapping_nil c [] (List.forall_mem_nil _), if_pos rfl]

/-! ### Fences -/

/-- The fence that the stream has issued is complete. -/
def Cx.FenceDone (c : Cx) : Prop := ∃ id rest, c.st.stage = id :: rest ∧ c.s.acc? id = none

/-- The stream has issued a full fence over every class, and waits for it. -/
def Cx.fenced (c : Cx) (acq : Bool) (scope : Nat) : State :=
  (c.fenceOf acq true scope (BitVec.allOnes 16) c.st.active).1.modStream c.r fun st =>
    { st.blocked c.s.now (.fence c.s.nextId) with stage := [c.s.nextId] }

theorem Cx.afterFence_issues {skip : Bool} (hk : skip = false) (h : c.st.stage = []) (acq : Bool) (scope : Nat) (go : Out) :
    c.afterFence skip acq scope go = .next (c.fenced acq scope) := by
  simp only [Cx.afterFence, hk, h, Bool.false_eq_true, if_false]
  rfl

theorem Cx.afterFence_passes {skip : Bool} (h : skip = true ∨ c.FenceDone) (acq : Bool) (scope : Nat) (go : Out) :
    c.afterFence skip acq scope go = go := by
  obtain rfl | ⟨id, rest, hs, ha⟩ := h
  · rfl
  · simp only [Cx.afterFence, hs, ha, Option.isNone_none, if_true, ite_self]

end Sys2Proof.Machine
end

section
/-! The statements of spec/04_control_engine.md on traps and breakpoints (R130, R131). -/
namespace Sys2Proof.Machine

variable {i : Ins} {c : Cx}

theorem exec_trap (h : c.Runs) (hp : c.performs i = true) :
    exec (.trap i) c.s = .next (c.s.takeTrap c.r { c.st.trapAt c.r.idx 0x18 with arg := i.attr.ctlByte.toNat }) := by
  change execTrap i c.s = _
  rw [execTrap, h.withCx]
  exact if_pos hp

theorem exec_trapValue (h : c.Runs) (hp : c.performs i = true) :
    exec (.trapValue i) c.s = .next (c.s.takeTrap c.r { c.st.trapAt c.r.idx 0x18 with
      arg := i.attr.ctlByte.toNat, value := c.warg i 0 32 }) := by
  change execTrapValue i c.s = _
  rw [execTrapValue, h.withCx]
  exact if_pos hp

theorem exec_brk_unlocked (h : c.Runs) (hp : c.performs i = true) (hk : c.s.kdbgFor c.t.asid = true) :
    exec (.brk i) c.s = .next (c.s.takeTrap c.r { c.st.trapAt c.r.idx 0x19 with arg := i.attr.ctlByte.toNat }) := by
  change execBrk i c.s = _
  rw [execBrk, h.withCx]
  exact if_pos (Bool.and_eq_true_iff.2 ⟨hp, hk⟩)

theorem exec_brk_locked (h : c.Runs) (hk : c.s.kdbgFor c.t.asid = false) :
    exec (.brk i) c.s = .next (c.update (c.written 0xCD i [] 0 [])) := by
  change execBrk i c.s = _
  rw [execBrk, h.withCx, ← c.guardedOff_eq]
  exact if_neg (by simp [hk])

/-- Settles O37: with its guard on, each takes the trap that its code names; without kernel debug `brk` is guarded off. -/
theorem trapsAndBreakpoints : Obligations.TrapsAndBreakpoints := by
  unfold Obligations.TrapsAndBreakpoints
  intro i s r t st h hp
  have h : Cx.Runs ⟨s, r, t, st⟩ := h
  exact ⟨exec_trap h hp, exec_trapValue h hp, exec_brk_unlocked h hp, exec_brk_locked h⟩

end Sys2Proof.Machine
end

section
/-! The statements of spec/04_control_engine.md on branches, calls and the end of a stream (R107 to R112, R399, R400). -/
namespace Sys2Proof.Machine
open Sys2Proof.Claims

/-! ### Paths -/

variable {st : Stream}

/-- What an instruction waited for is forgotten. -/
def Stream.cleared (st : Stream) : Stream := { st with wait := none, stage := [], mark := none, headAt := none, prod := none }

theorem Stream.goto_native (h : st.native = true) (b : Nat) : st.goto b = { st with jump := some b } := if_pos h

theorem Stream.goto_portable (h : st.native = false) (b : Nat) : st.goto b = { st with blk := b, item := 0 } :=
  if_neg (by simp [h])

/-- A native stream that takes a branch has its next bundle, and goes on. -/
theorem Stream.branched_goto_native (h : st.native = true) (b : Nat) :
    (st.goto b).branched = { st.cleared with jump := some b } := by
  rw [Stream.goto_native h]
  exact if_pos h

theorem Stream.resume_ended (h : popLive st.ended st.stack = none) :
    st.resume = { st with active := 0, stack := [], finished := true } := by
  rw [Stream.resume, h]

theorem and_not_of_and_eq_zero {w : Nat} {x y : BitVec w} (h : x &&& y = 0#w) : x &&& ~~~y = x := by
  ext k hk
  have hxy : (x &&& y)[k] = false := by simp [h]
  revert hxy
  simp only [BitVec.getElem_and, BitVec.getElem_not]
  cases x[k] <;> simp

/-- A path of lanes that have not ended runs next. -/
theorem popLive_cons {ended m : BitVec 32} (hm : m ≠ 0#32) (he : m &&& ended = 0#32) (pc : Nat) (b : Bool)
    (rest : List MaskEntry) : popLive ended (⟨m, pc, b⟩ :: rest) = some (m, pc, rest) := by
  rw [popLive, and_not_of_and_eq_zero he]
  exact if_neg hm

/-! ### Splitting -/

variable {m n : BitVec 32} {a b : Nat}

theorem Stream.split_of_filter {paths : List (BitVec 32 × Nat)} {p : BitVec 32 × Nat}
    (h : paths.filter (fun q => q.1 != 0) = [p]) (rc : Option Nat) : st.split rc paths = st.goto p.2 := by
  simp only [Stream.split, h]

theorem Stream.split_single (hm : m ≠ 0#32) (rc : Option Nat) : st.split rc [(m, a)] = st.goto a :=
  Stream.split_of_filter (p := (m, a)) (by simp [hm]) rc

theorem Stream.split_first (hm : m ≠ 0#32) (rc : Option Nat) : st.split rc [(m, a), (0, b)] = st.goto a :=
  Stream.split_of_filter (p := (m, a)) (by simp [hm]) rc

theorem Stream.split_second (hn : n ≠ 0#32) (rc : Option Nat) : st.split rc [(0, a), (n, b)] = st.goto b :=
  Stream.split_of_filter (p := (n, b)) (by simp [hn]) rc

/-- Lanes that differ run the first path, with the other path and the reconvergence entry on the mask stack (R400). -/
theorem Stream.split_diverges {p : Nat} (hm : m ≠ 0#32) (hn : n ≠ 0#32) (he : m &&& st.ended = 0#32) (ha : a ≠ p)
    (hb : b ≠ p) (hs : ∀ e rest, st.stack = e :: rest → (e.recon && e.pc == p) = false) :
    st.split (some p) [(m, a), (n, b)] =
      { st with active := m, stack := ⟨n, b, false⟩ :: ⟨st.active, p, true⟩ :: st.stack }.goto a := by
  have hlive : [(m, a), (n, b)].filter (fun q => q.1 != 0) = [(m, a), (n, b)] := by simp [hm, hn]
  have hpaths : [(m, a), (n, b)].filter (fun q => some p != some q.2) = [(m, a), (n, b)] := by simp [ha.symm, hb.symm]
  rw [Stream.split, hlive]
  simp only [hpaths]
  cases hstack : st.stack with
  | nil => simp only [Stream.resume, List.map_cons, List.map_nil, List.cons_append, List.nil_append, popLive_cons hm he]
  | cons e rest =>
    simp only [Stream.resume, List.map_cons, List.map_nil, List.cons_append, List.nil_append, popLive_cons hm he, hs e rest hstack,
      Bool.false_eq_true, if_false]

/-! ### Passing arguments -/

variable {c : Cx}

/-- Passing arguments writes values alone. -/
theorem Cx.passArgs_keeps {α : Type} (f : Stream → α) (hf : ∀ st l m v, f (st.put l m v) = f st) (b : Nat) (args : List Nat)
    (m : BitVec 32) (st : Stream) : f (c.passArgs b args m st) = f st := by
  have keeps : ∀ (frame base : Nat) (vs : List (TVal × Nat)) (st : Stream),
      f (vs.foldl (fun st v => st.put (.val frame (base + v.2)) m v.1) st) = f st := by
    intro frame base vs
    induction vs with
    | nil => exact fun _ => rfl
    | cons v vs ih => exact fun st => (ih _).trans (hf ..)
  rw [Cx.passArgs]
  cases c.unit[b]? with
  | none => rfl
  | some u => exact keeps ..

@[simp] theorem Cx.passArgs_native (b : Nat) (args : List Nat) (m : BitVec 32) (st : Stream) :
    (c.passArgs b args m st).native = st.native :=
  Cx.passArgs_keeps Stream.native (fun _ _ _ _ => rfl) ..

/-- The place that target `k` of the current instruction names in the unit. -/
def Stream.target (st : Stream) (k : Nat) : Nat := (st.succ[k]?).getD 0

@[simp] theorem Cx.passArgs_target (b : Nat) (args : List Nat) (m : BitVec 32) (st : Stream) (k : Nat) :
    (c.passArgs b args m st).target k = st.target k :=
  Cx.passArgs_keeps (fun st => st.target k) (fun _ _ _ _ => rfl) ..

/-! ### Branches -/

variable {i : Ins}

/-- The arguments that the instruction passes to target `k`. -/
def targetArgs (i : Ins) (k : Nat) : List Nat := ((i.succ[k]?).map Target.args).getD []

/-- The active lanes whose condition is true. -/
def Cx.trueLanes (c : Cx) (i : Ins) : BitVec 32 := maskOf fun l => c.st.active.getLsbD l && c.arg i 0 1 l == 1

/-- The lanes of the path that the hint names first (R108). -/
def Cx.firstLanes (c : Cx) (i : Ins) : BitVec 32 :=
  if i.attr.ctlByte.getLsbD 0 then c.st.active &&& ~~~c.trueLanes i else c.trueLanes i

/-- The active lanes of the other path. -/
def Cx.otherLanes (c : Cx) (i : Ins) : BitVec 32 := c.st.active &&& ~~~c.firstLanes i

theorem exec_blk (h : c.Runs) : exec (.blk i) c.s = .next (moveOn c.s c.r) := by
  change execBlk i c.s = _
  rw [execBlk, h.withCx, Cx.update]

theorem exec_br_native (h : c.Runs) (hn : c.st.native = true) :
    exec (.br i) c.s = .next (c.update fun _ => { c.st.cleared with jump := some (c.warg i 0 24) }) := by
  change execBr i c.s = _
  rw [execBr, h.withCx, if_pos hn]
  exact congrArg _ (h.modStream_congr (Stream.branched_goto_native hn _))

theorem exec_brc_native (h : c.Runs) (hn : c.st.native = true) :
    exec (.brc i) c.s = .next (c.update fun st => (st.split (if c.warg i 3 24 = 0xFFFFFF then none else some (c.warg i 3 24))
      [(c.firstLanes i, c.warg i 1 24), (c.otherLanes i, c.warg i 2 24)]).branched) := by
  change execBrc i c.s = _
  rw [execBrc, h.withCx]
  exact if_pos hn

theorem exec_brc_native_first (h : c.Runs) (hn : c.st.native = true) (hr : c.firstLanes i ≠ 0) (ho : c.otherLanes i = 0) :
    exec (.brc i) c.s = .next (c.update fun _ => { c.st.cleared with jump := some (c.warg i 1 24) }) := by
  rw [exec_brc_native h hn, ho]
  refine congrArg _ (h.modStream_congr ?_)
  rw [Stream.split_first hr, Stream.branched_goto_native hn]

theorem exec_brc_native_second (h : c.Runs) (hn : c.st.native = true) (hr : c.firstLanes i = 0) (ho : c.otherLanes i ≠ 0) :
    exec (.brc i) c.s = .next (c.update fun _ => { c.st.cleared with jump := some (c.warg i 2 24) }) := by
  rw [exec_brc_native h hn, hr]
  refine congrArg _ (h.modStream_congr ?_)
  rw [Stream.split_second ho, Stream.branched_goto_native hn]

theorem exec_brc_native_diverges (h : c.Runs) (hn : c.st.native = true) (hr : c.firstLanes i ≠ 0) (ho : c.otherLanes i ≠ 0)
    (he : c.firstLanes i &&& c.st.ended = 0) (hp : c.warg i 3 24 ≠ 0xFFFFFF) (ha : c.warg i 1 24 ≠ c.warg i 3 24)
    (hb : c.warg i 2 24 ≠ c.warg i 3 24)
    (hs : ∀ e rest, c.st.stack = e :: rest → (e.recon && e.pc == c.warg i 3 24) = false) :
    exec (.brc i) c.s = .next (c.update fun _ => { c.st.cleared with
      active := c.firstLanes i, jump := some (c.warg i 1 24)
      stack := ⟨c.otherLanes i, c.warg i 2 24, false⟩ :: ⟨c.st.active, c.warg i 3 24, true⟩ :: c.st.stack }) := by
  rw [exec_brc_native h hn, if_neg hp]
  refine congrArg _ (h.modStream_congr ?_)
  rw [Stream.split_diverges hr ho he ha hb hs, Stream.branched_goto_native (by exact hn)]
  rfl

/-- A branch with one target passes its arguments there. -/
theorem Cx.branch_single (h : c.Runs) (hn : c.st.native = false) (ha : c.st.active ≠ 0) :
    c.branch i [0] (fun _ => c.st.active) = .next (c.update fun st =>
      ({ c.passArgs (st.target 0) (targetArgs i 0) st.active st with blk := st.target 0, item := 0 }).branched) := by
  refine congrArg _ (h.modStream_congr ?_)
  change ((c.passArgs _ _ c.st.active c.st).split _ [(c.st.active, c.st.target 0)]).branched = _
  rw [Stream.split_single ha, Stream.goto_portable ((Cx.passArgs_native ..).trans hn)]
  rfl

theorem exec_br_portable (h : c.Runs) (hn : c.st.native = false) :
    exec (.br i) c.s = c.branch i [0] fun _ => c.st.active := by
  change execBr i c.s = _
  rw [execBr, h.withCx, if_neg (by simp [hn])]

theorem exec_call (h : c.Runs) : exec (.call i) c.s = c.branch i [0] fun _ => c.st.active := by
  change execCall i c.s = _
  rw [execCall, h.withCx]

theorem exec_ret_portable (h : c.Runs) (hn : c.st.native = false) :
    exec (.ret i) c.s = .next (c.update fun st =>
      ({ c.passArgs (st.target 0) (i.src.map Opnd.num) st.active st with blk := st.target 0, item := 0 }).branched) := by
  change execRet i c.s = _
  rw [execRet, h.withCx]
  refine congrArg _ (h.modStream_congr ?_)
  rw [Stream.goto_portable ((Cx.passArgs_native ..).trans hn)]
  rfl

/-- A branch of two targets all of whose lanes take the first passes the arguments of both, to no lane at the second. -/
theorem Cx.branch_first (h : c.Runs) (hn : c.st.native = false) {takes : Nat → BitVec 32} (h0 : takes 0 ≠ 0)
    (h1 : takes 1 = 0) :
    c.branch i [0, 1] takes = .next (c.update fun st =>
      ({ c.passArgs (c.st.target 1) (targetArgs i 1) 0 (c.passArgs (c.st.target 0) (targetArgs i 0) (takes 0) st) with
        blk := c.st.target 0, item := 0 }).branched) := by
  refine congrArg _ (h.modStream_congr ?_)
  change ((c.passArgs (Stream.target _ 1) (targetArgs i 1) (takes 1) (c.passArgs _ _ (takes 0) c.st)).split _
    [(takes 0, c.st.target 0), (takes 1, c.st.target 1)]).branched = _
  rw [h1, Stream.split_first h0, Stream.goto_portable (by simpa using hn), Cx.passArgs_target]
  rfl

theorem exec_brc_portable_true (h : c.Runs) (hn : c.st.native = false) (hy : c.trueLanes i = c.st.active) (ha : c.st.active ≠ 0)
    (hi : i.attr.ctlByte.getLsbD 0 = false) :
    exec (.brc i) c.s = .next (c.update fun st =>
      ({ c.passArgs (c.st.target 1) (targetArgs i 1) 0 (c.passArgs (c.st.target 0) (targetArgs i 0) (c.trueLanes i) st) with
        blk := c.st.target 0, item := 0 }).branched) := by
  change execBrc i c.s = _
  simp only [execBrc, h.withCx, hn, hi, Bool.false_eq_true, if_false]
  refine Cx.branch_first h hn (by rwa [← hy] at ha) ?_
  have hno : c.st.active &&& ~~~c.trueLanes i = 0 := by rw [hy, BitVec.and_not_self]
  exact hno

theorem exec_brt (h : c.Runs) : exec (.brt i) c.s = c.branch i (List.range (i.succ.length - 1 + 1)) fun k =>
    maskOf fun l => c.st.active.getLsbD l && Nat.min (c.arg i 0 32 l) (i.succ.length - 1) == k := by
  change execBrt i c.s = _
  rw [execBrt, h.withCx]

/-! ### The end of a stream -/

/-- With no path left, the lanes have ended and so has the stream (R110). -/
theorem exec_endStream (h : c.Runs) (hd : nothingDue c.st) (hi : c.r.idx ≠ 32)
    (hp : popLive (c.st.ended ||| c.st.active) c.st.stack = none) :
    exec (.endStream i) c.s = .next (((c.update fun st => { st.cleared with
      ended := st.ended ||| st.active, active := 0, stack := [], finished := true }).modTeam c.core Team.rdvCheck).regroupCheck
        c.core) := by
  change execEndStream i c.s = _
  rw [execEndStream, h.withCx, Cx.unlessDue_nothing hd]
  simp only [beq_false_of_ne hi, Bool.and_false, Bool.false_eq_true, if_false]
  refine congrArg (fun s : State => (.next ((s.modTeam c.core Team.rdvCheck).regroupCheck c.core) : Out))
    (h.modStream_congr ?_)
  rw [Stream.resume_ended (by exact hp)]
  rfl

theorem branchesAndCalls : BranchesAndCalls := by
  unfold BranchesAndCalls
  intro i s r t st h c still yes no inv run other rc
  have h : c.Runs := h
  refine ⟨exec_blk h, exec_br_native h, exec_brc_native_first h, exec_brc_native_second h, exec_brc_native_diverges h,
    fun hn ha x hx => ?_, exec_ret_portable h, exec_brc_portable_true h, fun _ => exec_brt h⟩
  obtain rfl | rfl := hx
  · exact (exec_br_portable h hn).trans (Cx.branch_single h hn ha)
  · exact (exec_call h).trans (Cx.branch_single h hn ha)

theorem endOfAStream : EndOfAStream := by
  unfold EndOfAStream
  intro i s r t st h
  exact exec_endStream (c := ⟨s, r, t, st⟩) h

/-- Settles O33: branches and calls, and the end of a stream. -/
theorem branchesCallsAndEnds : Obligations.BranchesCallsAndEnds := ⟨branchesAndCalls, endOfAStream⟩

end Sys2Proof.Machine
end

section
/-! The statements of spec/04_control_engine.md on barriers, the rendezvous and cluster barriers (R115 to R119). -/
namespace Sys2Proof.Machine
open Sys2Proof.Claims

variable {i : Ins} {c : Cx}

/-! ### Barriers -/

/-- The stream has arrived at its barrier, and waits for the generation that is under way (R115). -/
def Cx.atBar (c : Cx) (i : Ins) : State :=
  let k := barIndex i
  let b := c.t.bar k
  (c.update fun st => { st.blocked c.s.now (.bar k b.gen) with mark := some (.bar k b.gen) }).modTeam c.core fun t =>
    t.arrive k (c.warg i 0 32) (c.s.arrival c.r b.last)

theorem exec_bar_unmarked (h : c.Runs) (hm : c.st.mark = none) :
    exec (.bar i) c.s = c.afterFence (nofence i) true 0 (.next (c.atBar i)) := by
  change execBar i c.s = _
  simp only [execBar, h.withCx, hm]
  rw [h.arrival_modStream (by rfl)]
  rfl

theorem exec_bar_passes (h : c.Runs) {k : Nat} {gen : BitVec 32} (hm : c.st.mark = some (.bar k gen))
    (hg : (c.t.bar k).gen ≠ gen) :
    exec (.bar i) c.s = c.passed 0x02 k gen.toNat c.st.prod (if nofence i then none else some 0) := by
  change execBar i c.s = _
  simp only [execBar, h.withCx, hm, if_neg hg]

theorem exec_barArv_arrives (h : c.Runs) (hf : nofence i = true ∨ c.FenceDone) :
    exec (.barArv i) c.s = .next (wide c 0xD6 i [tI32] [(c.t.bar (barIndex i)).gen.toNat]
      ((c.s.streamLink c.r 0x03 (barIndex i) 0 none none).modTeam c.core fun t =>
        t.arrive (barIndex i) (c.warg i 0 32) (c.s.arrival c.r (c.t.bar (barIndex i)).last))) := by
  change execBarArv i c.s = _
  rw [execBarArv, h.withCx, Cx.afterFence_passes hf]
  rfl

theorem exec_barWt_over (h : c.Runs) (hg : (c.t.bar (barIndex i)).gen ≠ BitVec.ofNat 32 (c.warg i 0 32)) {p : Nat × Nat}
    (hp : c.st.prod = some p) :
    exec (.barWt i) c.s = c.passed 0x02 (barIndex i) (c.warg i 0 32 % 2 ^ 32) (some p) (if nofence i then none else some 0) := by
  change execBarWt i c.s = _
  simp only [execBarWt, h.withCx, if_neg hg, hp, BitVec.toNat_ofNat]

theorem exec_barWt_waits (h : c.Runs) (hg : (c.t.bar (barIndex i)).gen = BitVec.ofNat 32 (c.warg i 0 32)) :
    exec (.barWt i) c.s = c.block (.bar (barIndex i) (BitVec.ofNat 32 (c.warg i 0 32))) := by
  change execBarWt i c.s = _
  rw [execBarWt, h.withCx]
  exact if_pos hg

/-! ### The rendezvous -/

/-- The stream has arrived at the rendezvous, which may complete it (R117). -/
def Cx.atRdv (c : Cx) : State :=
  (c.update fun st => { st.blocked c.s.now (.rdv c.t.rdv.gen) with mark := some (.rdv c.t.rdv.gen) }).modTeam c.core fun t =>
    { t with rdv := { t.rdv with
      arrived := t.rdv.arrived ++ [c.r.idx], last := some (c.s.arrival c.r c.t.rdv.last) } }.rdvCheck

theorem exec_rdv_unmarked (h : c.Runs) (hm : c.st.mark = none) (hd : nothingDue c.st) :
    exec (.rdv i) c.s = c.afterFence false true 0
      (if c.st.count 4 = 0 ∧ c.st.count 5 = 0 then .next c.atRdv else c.block .copyMatrix) := by
  change execRdv i c.s = _
  simp only [execRdv, h.withCx, hm, Cx.unlessDue_nothing hd]
  rfl

theorem exec_rdv_arrives (h : c.Runs) (hm : c.st.mark = none) (hd : nothingDue c.st) (hf : c.FenceDone) (hcp : c.st.cp = [])
    (hmx : c.st.mx = []) : exec (.rdv i) c.s = .next c.atRdv := by
  rw [exec_rdv_unmarked h hm hd, Cx.afterFence_passes (.inr hf)]
  exact if_pos ⟨congrArg List.length hcp, congrArg List.length hmx⟩

theorem exec_rdv_passes (h : c.Runs) {gen : BitVec 32} (hm : c.st.mark = some (.rdv gen)) (hg : c.t.rdv.gen ≠ gen) :
    exec (.rdv i) c.s = c.passed 0x01 0 gen.toNat c.st.prod (some 0) := by
  change execRdv i c.s = _
  simp only [execRdv, h.withCx, hm, if_neg hg]

/-! ### Cluster barriers -/

/-- The generation of a barrier of the stream's cluster; 0 without a cluster. -/
def Cx.cbarGen (c : Cx) (b : Nat) : BitVec 32 := ((c.s.cluster? c.t.cluster).map fun k => (k.bar b).gen).getD 0

theorem Cx.cbarGen_eq {x : Cluster} (h : c.s.cluster? c.t.cluster = some x) (b : Nat) : c.cbarGen b = (x.bar b).gen := by
  rw [Cx.cbarGen, h, Option.map_some, Option.getD_some]

/-- The stream has arrived at a cluster barrier in a generation, and waits for it (R118). -/
def Cx.atCbar (c : Cx) (i : Ins) (gen : BitVec 32) : State :=
  c.cbarArrive (cbarIndex i) (c.warg i 0 32) (c.update fun st =>
    { st.blocked c.s.now (.cbar (cbarIndex i) gen) with mark := some (.cbar (cbarIndex i) gen) })

theorem exec_cbar_unmarked (h : c.Runs) (hm : c.st.mark = none) :
    exec (.cbar i) c.s = c.afterFence (nofence i) true 1 (.next (c.atCbar i (c.cbarGen (cbarIndex i)))) := by
  change execCbar i c.s = _
  simp only [execCbar, h.withCx, hm]
  rfl

theorem exec_cbar_arrives (h : c.Runs) (hm : c.st.mark = none) (hf : nofence i = true ∨ c.FenceDone) {x : Cluster}
    (hx : c.s.cluster? c.t.cluster = some x) : exec (.cbar i) c.s = .next (c.atCbar i (x.bar (cbarIndex i)).gen) := by
  rw [exec_cbar_unmarked h hm, Cx.afterFence_passes hf, Cx.cbarGen_eq hx]

theorem exec_cbar_passes (h : c.Runs) {b : Nat} {gen : BitVec 32} (hm : c.st.mark = some (.cbar b gen)) (hg : c.cbarGen b ≠ gen) :
    exec (.cbar i) c.s = c.passed 0x04 b gen.toNat c.st.prod (if nofence i then none else some 1) := by
  change execCbar i c.s = _
  rw [Cx.cbarGen] at hg
  simp only [execCbar, h.withCx, hm, if_neg hg]

theorem barriersAndRendezvous : BarriersAndRendezvous := by
  unfold BarriersAndRendezvous
  intro i s r t st h c k b plain fence settled passed
  have h : c.Runs := h
  exact ⟨fun hm hf => (exec_bar_unmarked h hm).trans (Cx.afterFence_passes hf ..),
    fun hm hp hs => (exec_bar_unmarked h hm).trans (Cx.afterFence_issues hp hs ..),
    fun k' gen => exec_bar_passes h, exec_barArv_arrives h, fun hg p => exec_barWt_over h hg, exec_barWt_waits h,
    fun hm hd hs => (exec_rdv_unmarked h hm hd).trans (Cx.afterFence_issues rfl hs ..), exec_rdv_arrives h,
    fun gen => exec_rdv_passes h, fun hm hp hs => (exec_cbar_unmarked h hm).trans (Cx.afterFence_issues hp hs ..),
    fun b' g x hm hx hg => exec_cbar_passes h hm (by rwa [Cx.cbarGen_eq hx]),
    fun x hm hf => exec_cbar_arrives h hm hf⟩

/-! ### The last arrival -/

/-- The number of arrivals that a generation waits for is taken from its first arrival (R115). -/
def Team.targetAt (t : Team) (b : Barrier) (n : Nat) : Nat := if b.arrived = 0 then t.target n else b.target

section
variable {t : Team} {k n : Nat} {p : Nat × Nat} {b : Barrier}

theorem Team.arrive_completes (hb : t.bar k = b) (h : b.arrived + 1 = t.targetAt b n) :
    t.arrive k n p = { t.handOut (.bar k b.gen) (some p) with
      bars := setAt t.bars k { gen := b.gen + 1, target := t.targetAt b n, done := some p } } := by
  rw [Team.arrive, hb]
  exact if_pos h

theorem Team.arrive_counts (hb : t.bar k = b) (h : b.arrived + 1 ≠ t.targetAt b n) :
    t.arrive k n p = { t with
      bars := setAt t.bars k { b with target := t.targetAt b n, arrived := b.arrived + 1, last := some p } } := by
  rw [Team.arrive, hb]
  exact if_neg h

/-- A group that waits for what is handed out takes it. -/
theorem Team.handOut_waiting {g : Nat} {st : Stream} {w : Wait} (hs : t.groups[g]? = some st) (hw : st.wait = some w)
    (p : Option (Nat × Nat)) : (t.handOut w p).groups[g]? = some { st with prod := p } := by
  simp only [Team.handOut, List.getElem?_map, hs, Option.map_some, if_pos hw]

theorem Team.arrive_bars_other {j : Nat} (hj : j ≠ k) : (t.arrive k n p).bars[j]? = t.bars[j]? := by
  by_cases h : (t.bar k).arrived + 1 = t.targetAt (t.bar k) n
  · rw [Team.arrive_completes rfl h, getElem?_setAt, if_neg hj]
  · rw [Team.arrive_counts rfl h, getElem?_setAt, if_neg hj]

end

theorem lastArrivalAdvancesTheGeneration : LastArrivalAdvancesTheGeneration := by
  unfold LastArrivalAdvancesTheGeneration
  intro t k n p b hk target
  have hb : t.bar k = b := by rw [Team.bar, hk, Option.getD_some]
  refine ⟨fun h => ?_, fun h => ?_, fun j => Team.arrive_bars_other⟩
  · rw [Team.arrive_completes hb h]
    refine ⟨?_, fun g st hs hw => ⟨_, Team.handOut_waiting hs hw _, rfl⟩⟩
    rw [getElem?_setAt, if_pos rfl, hk]
    rfl
  · rw [Team.arrive_counts hb h]
    refine ⟨?_, rfl⟩
    rw [getElem?_setAt, if_pos rfl, hk]
    rfl

/-- Settles O35: what each instruction does, and what an arrival does to its barrier. -/
theorem barriersRendezvousAndGenerations : Obligations.BarriersRendezvousAndGenerations :=
  ⟨barriersAndRendezvous, lastArrivalAdvancesTheGeneration⟩

end Sys2Proof.Machine
end

section
/-! The statements of spec/04_control_engine.md on phase (R128) and launch (R129). -/
namespace Sys2Proof.Machine
open Sys2Proof.Claims

variable {i : Ins} {c : Cx}

/-! ### phase -/

/-- The launch has EXCL set and a plan with the phase in it (R128). -/
def LaunchRec.HasPhase (x : LaunchRec) (p : Nat) : Prop := x.flags / 4 % 2 = 1 ∧ p < x.phases

theorem LaunchRec.HasPhase.not_denied {x : LaunchRec} {p : Nat} (h : x.HasPhase p) :
    ¬ (x.flags / 4 % 2 = 0 ∨ x.phases = 0 ∨ x.phases ≤ p) := by
  obtain ⟨he, hp⟩ := h
  omega

theorem Cx.record_eq {l : Launch} (h : c.s.launch? c.t.launch = some l) : c.record = l.record := by
  rw [Cx.record, h, Option.map_some, Option.getD_some]

theorem exec_phase_denied (h : c.Runs) {l : Launch} (hl : c.s.launch? c.t.launch = some l)
    (hd : l.record.flags / 4 % 2 = 0 ∨ l.record.phases ≤ c.warg i 0 32) :
    exec (.phase i) c.s = .next (c.s.takeTrap c.r (c.st.trapAt c.r.idx 0x1B)) := by
  change execPhase i c.s = _
  rw [execPhase, h.withCx, Cx.record_eq hl]
  exact if_pos (hd.imp_right .inr)

theorem exec_phase_current (h : c.Runs) {l : Launch} (hl : c.s.launch? c.t.launch = some l)
    (hph : l.record.HasPhase (c.warg i 0 32)) (hp : c.warg i 0 32 = c.t.phase) (hc : c.t.change = none) :
    exec (.phase i) c.s = .next (moveOn c.s c.r) := by
  change execPhase i c.s = _
  rw [execPhase, h.withCx, Cx.record_eq hl]
  exact (if_neg hph.not_denied).trans (if_pos ⟨hp, hc⟩)

theorem exec_phase_begins (h : c.Runs) {l : Launch} (hl : c.s.launch? c.t.launch = some l)
    (hph : l.record.HasPhase (c.warg i 0 32)) (hp : c.warg i 0 32 ≠ c.t.phase) :
    exec (.phase i) c.s = .next ((c.s.modTeam c.core fun t =>
      { t with change := some (t.change.getD { target := c.warg i 0 32 }) }).modStream c.r fun st =>
        st.blocked c.s.now .phase) := by
  change execPhase i c.s = _
  rw [execPhase, h.withCx, Cx.record_eq hl]
  refine (if_neg hph.not_denied).trans ((if_neg fun e => hp e.1).trans ?_)
  rw [Cx.block, Cx.update, State.modTeam_now]

/-! ### launch -/

theorem exec_launch_misaligned (h : c.Runs) (hp : c.warg i 1 64 % 64 ≠ 0) :
    exec (.launch i) c.s = .next (c.s.takeTrap c.r { c.st.trapAt c.r.idx 0x24 with
      value := c.warg i 1 64, lanes := maskOfList [c.lead] }) := by
  change execLaunch i c.s = _
  rw [execLaunch, h.withCx]
  exact if_pos hp

/-- A `launch` comes to its queue: its record is aligned, its release is complete, and the queue is there (R129). -/
structure Cx.Launches (c : Cx) (i : Ins) (q : LaunchQueue) : Prop where
  runs : c.Runs
  aligned : c.warg i 1 64 % 64 = 0
  released : c.FenceDone
  queue : c.s.walker.queues[c.warg i 0 32]? = some q

variable {q : LaunchQueue}

/-- The refusals by value and the append are left. -/
theorem exec_launch (h : c.Launches i q) :
    exec (.launch i) c.s =
      if !q.en || q.asid.toNat != c.t.asid then .next (wide c 0xCB i [tI32] [0xFFFFFFFF] c.s)
      else if q.size ≤ (q.tail - q.head).toNat then .next (wide c 0xCB i [tI32] [0xFFFFFFFE] c.s)
      else c.readRecord true 256 64 (c.warg i 1 64) fun s bytes =>
        .next (wide c 0xCB i [tI32] [q.tail.toNat % q.size] (s.appendRecord (c.warg i 0 32) q bytes)) := by
  change execLaunch i c.s = _
  rw [execLaunch, h.runs.withCx]
  refine (if_neg fun hne => hne h.aligned).trans ((Cx.afterFence_passes (.inr h.released) ..).trans ?_)
  simp only [h.queue]
  rfl

theorem exec_launch_refused (h : c.Launches i q) (hr : q.en = false ∨ q.asid.toNat ≠ c.t.asid) :
    exec (.launch i) c.s = .next (wide c 0xCB i [tI32] [0xFFFFFFFF] c.s) :=
  (exec_launch h).trans (if_pos (by simpa using hr))

/-- A queue that is enabled for the job refuses nothing but for want of room. -/
theorem exec_launch_own (h : c.Launches i q) (he : q.en = true) (ha : q.asid.toNat = c.t.asid) :
    exec (.launch i) c.s =
      if q.size ≤ (q.tail - q.head).toNat then .next (wide c 0xCB i [tI32] [0xFFFFFFFE] c.s)
      else c.readRecord true 256 64 (c.warg i 1 64) fun s bytes =>
        .next (wide c 0xCB i [tI32] [q.tail.toNat % q.size] (s.appendRecord (c.warg i 0 32) q bytes)) :=
  (exec_launch h).trans (if_neg (by simp [he, ha]))

theorem exec_launch_appends (h : c.Launches i q) (he : q.en = true) (ha : q.asid.toNat = c.t.asid)
    (hn : (q.tail - q.head).toNat < q.size) {s : State} {bytes : List Byte}
    (hb : ∀ go, c.readRecord true 256 64 (c.warg i 1 64) go = go s bytes) :
    exec (.launch i) c.s =
      .next (wide c 0xCB i [tI32] [q.tail.toNat % q.size] (s.appendRecord (c.warg i 0 32) q bytes)) :=
  (exec_launch_own h he ha).trans ((if_neg (Nat.not_le.2 hn)).trans (hb _))

/-- Settles O39: one equation for each fate of `phase` and of `launch`. -/
theorem phasesAndLaunches : Obligations.PhasesAndLaunches := by
  unfold Obligations.PhasesAndLaunches
  intro i s r t st h
  have h : Cx.Runs ⟨s, r, t, st⟩ := h
  refine ⟨fun l hl => ⟨exec_phase_denied h hl, fun he hp => exec_phase_current h hl ⟨he, hp⟩,
    fun he hp hn _ => exec_phase_begins h hl ⟨he, hp⟩ hn⟩, exec_launch_misaligned h, fun hp hf q hq => ?_⟩
  have hq : Cx.Launches ⟨s, r, t, st⟩ i q := ⟨h, hp, hf, hq⟩
  exact ⟨exec_launch_refused hq, fun he ha hn => (exec_launch_own hq he ha).trans (if_pos hn),
    fun he ha hn s' bytes => exec_launch_appends hq he ha hn⟩

end Sys2Proof.Machine
end

section
/-! The statements of spec/14_fabric_engine.md on messages between dies (R12, R253, R370 to R382). -/
namespace Sys2Proof.Machine

variable {s : State} {src dst : Nat}

/-! ### Arrival -/

/-- A message of a channel that crosses the bridge from one die to the next of its route (R12). -/
def Msg.crosses (m : Msg) (chan src dst : Nat) : Bool :=
  m.chan == chan && m.at_ == src && !m.arrived && nextHop m.at_ m.dst == dst

/-- What becomes of the oldest message that crosses a bridge. -/
def State.afterCrossing (s : State) (chan src dst : Nat) (f : Msg → List Msg) : State :=
  { s with fabric := { s.fabric with msgs := replaceFirst (fun m => m.crosses chan src dst) f s.fabric.msgs } }

section
variable {chan : Nat} {m : Msg}

theorem exec_bridgeFlitReceive (h : s.fabric.msgs.find? (fun m => m.crosses chan src dst) = some m) (good : Bool) :
    exec (.bridgeFlitReceive src dst chan good) s =
      if !good then .next s
      else .next (if m.inc != s.incOf m.src then (s.afterCrossing chan src dst fun _ => []).partEvent 0 0x54
        else s.afterCrossing chan src dst fun m => [{ m with at_ := dst }]) := by
  simp only [Msg.crosses] at h
  change execBridgeFlitReceive src dst chan good s = _
  simp only [execBridgeFlitReceive, h]
  cases m.inc != s.incOf m.src <;> rfl

theorem exec_bridgeFlitReceive_current (h : s.fabric.msgs.find? (fun m => m.crosses chan src dst) = some m)
    (hi : m.inc = s.incOf m.src) :
    exec (.bridgeFlitReceive src dst chan true) s = .next (s.afterCrossing chan src dst fun m => [{ m with at_ := dst }]) := by
  simp [exec_bridgeFlitReceive h, hi]

/-- A message of a stale incarnation is dropped (R372). -/
theorem exec_bridgeFlitReceive_stale (h : s.fabric.msgs.find? (fun m => m.crosses chan src dst) = some m)
    (hi : m.inc ≠ s.incOf m.src) :
    exec (.bridgeFlitReceive src dst chan true) s = .next ((s.afterCrossing chan src dst fun _ => []).partEvent 0 0x54) := by
  simp [exec_bridgeFlitReceive h, hi]

end

/-! ### Messages at the head of a channel -/

/-- A channel's oldest message has arrived, and says `b`. -/
def State.Heads (s : State) (chan src dst : Nat) (b : Body) : Prop := ∃ m, s.headMsg chan src dst = some m ∧ m.body = b

section
variable {id line round off : Nat} {bytes : List Byte} {m : Msg}

/-! ### Fetches -/

theorem exec_fetch (h : s.Heads 0 src dst (.fetch id line)) :
    exec (.fetch src dst) s =
      if s.lineSwept id dst line then .next s
      else if (s.takeHead 0 src dst).roundOpen id line then
        .next ((s.takeHead 0 src dst).modSail (.sys id) fun x => { x with rounds := x.rounds.map fun r =>
          if r.line = line then { r with fetches := r.fetches ++ [src] } else r })
      else .next ((s.takeHead 0 src dst).answerFetch id line dst src) := by
  obtain ⟨⟨_, _, _, _, _, _, _⟩, hm, rfl⟩ := h
  change execFetch src dst s = _
  simp only [execFetch, hm]

/-- What the home of a line reads for a fetch, with the state after it. -/
def State.readForFetch (s : State) (x : Sail) (id line home : Nat) : State × List Byte :=
  let flat := line * x.lineBytes
  s.homeRead { core := ⟨home, 255⟩, sail := id, loc := locOf flat, home := home } flat x.lineBytes

theorem State.answerFetch_eq {x : Sail} (h : s.sail? (.sys id) = some x) (home die : Nat) :
    s.answerFetch id line home die =
      ((s.readForFetch x id line home).1.modSail (.sys id) fun x =>
        { x with sharers := setSharers line (countOf line x.sharers ||| 2 ^ die) x.sharers }).send 3 home die
          (.fetchResponse id line (s.readForFetch x id line home).2)
          ((s.readForFetch x id line home).1.lineRef (.sys id) home (line * x.lineBytes)) := by
  simp only [State.answerFetch, h]
  rfl

/-- A replica makes room for a line: a full set drops its oldest line (R374). -/
def SailPart.roomFor (p : SailPart) (x : Sail) (line : Nat) : SailPart :=
  match p.find? line, p.victim x (placeOf x p (line * x.lineBytes)) with
  | none, some v => p.drop v.line
  | _, _ => p

theorem exec_fetchResponse {data : List Byte} (h : s.headMsg 3 src dst = some m)
    (hb : m.body = .fetchResponse id line data) :
    exec (.fetchResponse src dst) s = .next ((s.takeHead 3 src dst).modReplica id dst fun x p =>
      let pl := placeOf x p (line * x.lineBytes)
      (p.roomFor x line).putFirst { entry := pl.1, set := pl.2, line := line, valid := 2 ^ x.lineBytes - 1, data := data
                                    hidden := (p.find? line).bind SailLine.hidden, ref := m.ref }) := by
  obtain ⟨_, _, _, _, _, _, _⟩ := m
  subst hb
  change execFetchResponse src dst s = _
  simp only [execFetchResponse, h]
  rfl

/-! ### Rounds of HOLD -/

theorem exec_hold (h : s.Heads 0 src dst (.hold id line round off bytes)) :
    exec (.hold src dst) s = .next ((if (s.takeHead 0 src dst).roundLives id round then
      (s.takeHead 0 src dst).installHidden id dst line off bytes else s.takeHead 0 src dst).send 2 dst src
        (.holdAck id line round)) := by
  obtain ⟨⟨_, _, _, _, _, _, _⟩, hm, rfl⟩ := h
  change execHold src dst s = _
  simp only [execHold, hm]

theorem exec_holdAck (h : s.Heads 2 src dst (.holdAck id line round)) :
    exec (.holdAck src dst) s = .next ((s.takeHead 2 src dst).countAck id round src) := by
  obtain ⟨⟨_, _, _, _, _, _, _⟩, hm, rfl⟩ := h
  change execHoldAck src dst s = _
  simp only [execHoldAck, hm]

/-- A round that a die has acknowledged. -/
def HoldRound.ackedBy (r : HoldRound) (d : Nat) : HoldRound := { r with waiting := r.waiting.filter fun e => e != d }

theorem State.countAck_eq {x : Sail} (hx : s.sail? (.sys id) = some x) {r : HoldRound}
    (hr : (x.rounds.find? fun r => r.id == round) = some r) (d : Nat) :
    s.countAck id round d =
      if (r.ackedBy d).waiting = [] then (s.modAcc r.acc fun a => { a with acker := some d }).endRound x (r.ackedBy d) false
      else s.modSail (.sys id) fun x =>
        { x with rounds := x.rounds.map fun q => if q.id = round then r.ackedBy d else q } := by
  simp only [State.countAck, hx, hr]
  rfl

/-- A replica's line after an OPEN: it serves the new bytes, and goes where it has no valid data (R375). -/
def SailLine.opened (l : SailLine) (line off : Nat) (bytes : List Byte) (ref : Option Nat) : Option SailLine :=
  if l.line ≠ line then some l
  else if l.valid = 0 then none
  else some { l with data := patch l.data off bytes, hidden := none, ref := ref.orElse fun _ => l.ref }

theorem exec_openMsg (h : s.headMsg 3 src dst = some m) (hb : m.body = .openLine id line round off bytes) :
    exec (.openMsg src dst) s = .next ((s.takeHead 3 src dst).modReplica id dst fun _ p =>
      { p with lines := p.lines.filterMap fun l => l.opened line off bytes m.ref }) := by
  obtain ⟨_, _, _, _, _, _, _⟩ := m
  subst hb
  change execOpenMsg src dst s = _
  simp only [execOpenMsg, h, SailLine.opened, ne_eq, ite_not]

theorem exec_invalidate (h : s.Heads 3 src dst (.invalidate id line)) :
    exec (.invalidate src dst) s = .next ((s.takeHead 3 src dst).modReplica id dst fun _ p => p.drop line) := by
  obtain ⟨⟨_, _, _, _, _, _, _⟩, hm, rfl⟩ := h
  change execInvalidate src dst s = _
  simp only [execInvalidate, hm]

theorem exec_efUpdate (h : s.headMsg 3 src dst = some m) (hb : m.body = .efUpdate id line off bytes) :
    exec (.efUpdate src dst) s = .next ((s.takeHead 3 src dst).applyUpdate id dst line off bytes m.ref) := by
  obtain ⟨_, _, _, _, _, _, _⟩ := m
  subst hb
  change execEfUpdate src dst s = _
  simp only [execEfUpdate, h]

/-! ### Replica sync and cluster barriers -/

theorem exec_syncRequest (h : s.Heads 0 src dst (.syncRequest id)) :
    exec (.syncRequest src dst) s = .next ((s.takeHead 0 src dst).send 3 dst src (.syncMarker id)) := by
  obtain ⟨⟨_, _, _, _, _, _, _⟩, hm, rfl⟩ := h
  change execSyncRequest src dst s = _
  simp only [execSyncRequest, hm]

theorem exec_syncMarker (h : s.Heads 3 src dst (.syncMarker id)) :
    exec (.syncMarker src dst) s =
      .next ((s.takeHead 3 src dst).modAcc id fun a => { a with markers := a.markers.filter fun d => d != src }) := by
  obtain ⟨⟨_, _, _, _, _, _, _⟩, hm, rfl⟩ := h
  change execSyncMarker src dst s = _
  simp only [execSyncMarker, hm]

theorem exec_cbarFarMessage {k b : Nat} {gen : BitVec 32} (h : s.farArrival k b dst = some (src, gen)) :
    exec (.cbarFarMessage k b dst) s =
      .next (((s.takeHead 2 src dst).modCluster k fun q => { q with bars := modAt q.bars b fun x =>
        if x.gen = gen then { x with heard := x.heard ++ [dst] } else x }).cbarCheck k b) := by
  change execCbarFarMessage k b dst s = _
  simp only [execCbarFarMessage, h]

end

/-! ### Timeouts -/

section
variable {n : Nat}

theorem exec_holdTimeout {x : Sail} (hx : (s.sails.find? fun x => x.rounds.any fun r => r.id == n) = some x) {r : HoldRound}
    (hr : (x.rounds.find? fun r => r.id == n) = some r) (ht : 1000 * s.fabricUs ≤ s.since r.start) :
    exec (.holdTimeout n) s = .next (s.endRound x r true) := by
  change execHoldTimeout n s = _
  simp only [execHoldTimeout, hx, hr, if_neg (Nat.not_lt.2 ht)]

variable {a : Acc}

/-- The time of a request that has not left begins anew (R382; log entry 90). -/
theorem exec_fabricTimeout_notLeft (ha : s.acc? n = some a) (hm : a.markers = []) (hl : s.requestLeft a = false) :
    exec (.fabricTimeout n) s = .next (s.modAcc n fun a => { a with born := s.now, resends := 0 }) := by
  change execFabricTimeout n s = _
  simp [execFabricTimeout, ha, hm, hl]

/-- Markers of a sync are missing, or a request that has left crosses a bridge or a device link. -/
def State.Unanswered (s : State) (a : Acc) : Prop :=
  a.markers ≠ [] ∨ (s.requestLeft a = true ∧ ∃ l ∈ a.lanes, a.crosses l = true)

/-- A request without answer whose time is over is sent again, and after eight times its job ends (R382). -/
theorem exec_fabricTimeout (ha : s.acc? n = some a) (hw : s.Unanswered a)
    (ht : 1000 * s.fabricUs * (a.resends + 1) ≤ s.since a.born) :
    exec (.fabricTimeout n) s =
      if 8 ≤ a.resends then .next (s.jobFault a.asid 0x52)
      else .next (((a.markers.foldl (fun s d => s.send 0 a.ref.die d (.syncRequest n)) s).modAcc n fun a =>
        { a with resends := a.resends + 1 }).sendLanes a (a.lanes.filter fun l => l.stage == .applied || l.stage == .lost)) := by
  have hleft : ¬ (a.markers = [] ∧ (!s.requestLeft a) = true) := by
    rintro ⟨hm, hl⟩
    obtain hw | ⟨hw, -⟩ := hw
    · exact hw hm
    · simp [hw] at hl
  have hwaits : (a.markers != [] || a.lanes.any a.crosses) = true := by
    obtain hw | ⟨-, hw⟩ := hw
    · simp [hw]
    · simp [List.any_eq_true.2 hw]
  change execFabricTimeout n s = _
  simp only [execFabricTimeout, ha, if_neg hleft, hwaits, Nat.not_lt.2 ht, Bool.not_true, Bool.false_or, decide_false,
    Bool.false_eq_true, if_false]

end

/-- Settles O46: what each message and each timeout does. -/
theorem fabricMessages : Obligations.FabricMessages := by
  unfold Obligations.FabricMessages
  intro s src dst takes
  refine ⟨fun chan m hm =>
      ⟨exec_bridgeFlitReceive_current hm, exec_bridgeFlitReceive_stale hm, exec_bridgeFlitReceive hm false⟩,
    fun id line h hs => (exec_fetch h).trans (if_pos hs), fun id line h hs => ?fetch, fun id line data m => exec_fetchResponse,
    fun id line round off bytes h => ?hold, fun id line round x r h hx hr => ?holdAck,
    fun id line round off bytes m => exec_openMsg, fun id line => exec_invalidate, fun id line off bytes m => exec_efUpdate,
    fun id => exec_syncRequest, fun id => exec_syncMarker, fun k b gen => exec_cbarFarMessage,
    fun n x r hx hr => exec_holdTimeout hx hr, fun n a => exec_fabricTimeout_notLeft, fun n a ha hw ht => ?timeout⟩
  case fetch =>
    have hf := (exec_fetch h).trans (if_neg (by simp [hs]))
    refine ⟨fun ho => hf.trans (if_pos ho), fun x ho hx => hf.trans ((if_neg (by simp [ho])).trans ?_)⟩
    rw [State.answerFetch_eq hx]
    rfl
  case hold =>
    have hc := exec_hold h
    exact ⟨fun hl => by rw [if_pos hl] at hc; exact hc, fun hl => by rw [if_neg (by simp [hl])] at hc; exact hc⟩
  case holdAck =>
    have hc := exec_holdAck h
    rw [State.countAck_eq hx hr] at hc
    exact ⟨fun hw => hc.trans (congrArg _ (if_neg hw)), fun hw => hc.trans (congrArg _ (if_pos hw))⟩
  case timeout =>
    exact ⟨fun h8 => (exec_fabricTimeout ha hw ht).trans (if_pos h8),
      fun h8 => (exec_fabricTimeout ha hw ht).trans (if_neg (Nat.not_le.2 h8))⟩

end Sys2Proof.Machine
end

section
/-! The statements of spec/07_load_store_engine.md on the checks and the issue of accesses (R207, R209, R220 to R226, R234). -/
namespace Sys2Proof.Machine
open Sys2Proof.Claims

variable {c : Cx} {i : Ins} {glob pi : Bool} {n : Nat}

/-! ### The checks of one lane -/

section
variable {s : State} {core : CoreRef} {asid va align size p l : Nat} {need : Need}

theorem State.checkGlobal_misaligned (h : va % align ≠ 0) :
    s.checkGlobal core asid need align va l = (.bad 0x24 0, s) := if_pos h

theorem State.checkGlobal_high (ha : va % align = 0) (h : 2 ^ 56 ≤ va) :
    s.checkGlobal core asid need align va l = (.bad 0x21 5, s) := by
  have hhigh : va / 2 ^ 56 ≠ 0 := by omega
  rw [State.checkGlobal, if_neg (not_not_intro ha), if_pos hhigh]

/-- A pointer without fields names the stream's own core (R209). -/
theorem Cx.localCore_own (h : p < 2 ^ 24) : c.localCore p = some c.core := by
  have hfields : p / 2 ^ 30 = 0 ∧ p / 2 ^ 29 % 2 = 0 ∧ p / 2 ^ 24 % 32 = 0 := by omega
  obtain ⟨h30, h29, h24⟩ := hfields
  simp only [Cx.localCore, h30, h29, h24, ne_eq, not_true_eq_false, if_false, if_true]

theorem Cx.localCore_high (h : 2 ^ 30 ≤ p) : c.localCore p = none := by
  have hhigh : p / 2 ^ 30 ≠ 0 := by omega
  exact if_pos hhigh

theorem Cx.checkLocal_own (h : p < 2 ^ 24) : c.checkLocal size align p l =
    if (c.s.core c.core).split.locBytes < p + size then .bad 0x23 0
    else if p % align ≠ 0 then .bad 0x24 0
    else .lane { lane := l, va := p, pa := c.s.flatLocal c.core p, home := c.r.die } := by
  rw [Cx.checkLocal, Cx.localCore_own h, Nat.mod_eq_of_lt h]
  rfl

theorem Cx.checkLocal_high (h : 2 ^ 30 ≤ p) : c.checkLocal size align p l = .bad 0x23 0 := by
  rw [Cx.checkLocal, Cx.localCore_high h]

end

/-! ### Issue -/

section
variable {q : Tried} {a : Acc} {data : Nat → List Byte} {tys : List Nat} {kinds : Nat} {more : Stream → Stream}

/-- An access as it is sent: it names the cycle of its die, from which its latency counts (R408). -/
def Cx.sent (c : Cx) (q : Tried) (a : Acc) : Acc := { a with cycle := (q.s.die c.r.die).clock }

/-- Where no lane fails, the access is issued. -/
theorem Cx.launchAcc_passes (hb : q.bad = []) : c.launchAcc i (c.lanes i) q a data tys kinds more =
    .next (issued c i q (c.sent q (inFlight c i q a data tys)) tys kinds more) := by
  rw [Cx.launchAcc, if_neg (by simp [hb])]
  simp only [hb, List.map_nil, List.append_nil, ← List.map_filterMap]
  rfl

theorem leastRank_le {bad : List (Nat × Nat × Nat × Nat)} {b : Nat × Nat × Nat × Nat} (hb : b ∈ bad) :
    leastRank bad ≤ codeRank b.2.1 := by
  have below : ∀ (xs : List (Nat × Nat × Nat × Nat)) (r : Nat),
      xs.foldl (fun r b => Nat.min r (codeRank b.2.1)) r ≤ r ∧
        ∀ b ∈ xs, xs.foldl (fun r b => Nat.min r (codeRank b.2.1)) r ≤ codeRank b.2.1 := by
    intro xs
    induction xs with
    | nil => exact fun r => ⟨Nat.le_refl r, List.forall_mem_nil _⟩
    | cons x xs ih =>
      intro r
      obtain ⟨hr, hxs⟩ := ih (Nat.min r (codeRank x.2.1))
      exact ⟨Nat.le_trans hr (Nat.min_le_left ..), List.forall_mem_cons.2 ⟨Nat.le_trans hr (Nat.min_le_right ..), hxs⟩⟩
  exact (below bad 4).2 b hb

/-- No missing page comes before the faults of some lanes (R39). -/
theorem missFirst_eq_false {bad : List (Nat × Nat × Nat × Nat)} {missed : List AccLane}
    (h : missed = [] ∨ ∃ b ∈ bad, codeRank b.2.1 < 4) : missFirst bad missed = false := by
  obtain rfl | ⟨b, hb, hr⟩ := h
  · rfl
  · have : leastRank bad ≠ 4 := Nat.ne_of_lt (Nat.lt_of_le_of_lt (leastRank_le hb) hr)
    simp [missFirst, this]

/-- Where some lanes fail, and no missing page comes before, the instruction traps and issues nothing (R222). -/
theorem Cx.launchAcc_traps (hm : missFirst q.bad q.missed = false) {b : Nat × Nat × Nat × Nat}
    {rest : List (Nat × Nat × Nat × Nat)} (hb : (q.bad.filter fun b => codeRank b.2.1 == leastRank q.bad) = b :: rest) :
    c.launchAcc i (c.lanes i) q a data tys kinds more = .next (q.s.takeTrap c.r { c.st.trapAt c.r.idx b.2.1 with
      arg := b.2.2.1, value := b.2.2.2, lanes := maskOfList ((b :: rest).map Prod.fst) }) := by
  have hne : q.bad ≠ [] := by
    rintro h
    simp [h] at hb
  rw [Cx.launchAcc, if_pos (by simp [hne, hm])]
  simp only [Cx.laneTrap, TrapRecord.forLanes, hb]
  rfl

end

/-! ### Loads -/

/-- The checks of a load: its page is read at the point at which it binds. -/
abbrev loadChecks (c : Cx) (i : Ins) (glob : Bool) (n : Nat) : Tried :=
  checks c i glob { read := true, scope := (memAcc i.attr).bindScope } (n * tyBytes (ty i))

/-- The access of a load, before it joins the flights. -/
abbrev loadAcc (i : Ins) (glob : Bool) (n : Nat) : Acc :=
  { memAcc i.attr with kind := .load, isLocal := !glob, size := n * tyBytes (ty i) }

/-- The counter path of a load: GL or LL. -/
abbrev loadPath (glob : Bool) : Nat := if glob then 1 else 0

theorem exec_of_mem_loads {x : Instr} (h : (x, glob, n, pi) ∈ loads i) (s : State) : exec x s = loadOp glob n pi i s := by
  have each : ∀ e ∈ loads i, exec e.1 s = loadOp e.2.1 e.2.2.1 e.2.2.2 i s := by
    simp only [loads, List.forall_mem_cons]
    exact ⟨rfl, rfl, rfl, rfl, rfl, rfl, rfl, rfl, List.forall_mem_nil _⟩
  exact each _ h

theorem loadOp_noLane (h : c.Runs) (hl : c.lanes i = 0) : loadOp glob n pi i c.s =
    .next (c.update fun st => (bump c i glob pi n 1 (c.fallbacks i 0 (List.replicate n (ty i)) st)).retired) := by
  rw [loadOp, h.withCx, if_pos hl]
  simp only [bump, hl]
  rfl

theorem loadOp_full (h : c.Runs) (hl : c.lanes i ≠ 0) (hr : c.st.hasRoom (loadPath glob) = false) :
    loadOp glob n pi i c.s = c.block (.room (loadPath glob)) := by
  rw [loadOp, h.withCx, if_neg hl, hr]
  rfl

/-- The lanes of a load are checked, and it is issued or traps. -/
theorem loadOp_checked (h : c.Runs) (hl : c.lanes i ≠ 0) (hr : c.st.hasRoom (loadPath glob) = true) :
    loadOp glob n pi i c.s = c.launchAcc i (c.lanes i) (loadChecks c i glob n) (loadAcc i glob n) (fun _ => [])
      (List.replicate n (ty i)) kindRead (bump c i glob pi n 1) := by
  rw [loadOp, h.withCx, if_neg hl, hr]
  rfl

/-! ### Stores -/

/-- The checks of a store. -/
abbrev storeChecks (c : Cx) (i : Ins) (glob : Bool) (n : Nat) : Tried :=
  checks c i glob { write := true, scope := (memAcc i.attr).scope } (n * tyBytes (ty i))

/-- The access of a store, before it joins the flights. -/
abbrev storeAcc (c : Cx) (i : Ins) (glob : Bool) (n : Nat) : Acc :=
  { memAcc i.attr with
    kind := .store, isLocal := !glob, size := n * tyBytes (ty i)
    link := if (memAcc i.attr).rel then some (c.s.streamRef c.r) else none }

/-- The bytes that a lane stores: its elements, each little-endian. -/
abbrev storeData (c : Cx) (i : Ins) (n l : Nat) : List Byte :=
  ((List.range n).map fun k => toBytes (tyBytes (ty i)) (c.arg i (k + 1) (tyBits (ty i)) l)).flatten

theorem exec_of_mem_stores {x : Instr} (h : (x, glob, n, pi) ∈ stores i) (s : State) : exec x s = storeOp glob n pi i s := by
  have each : ∀ e ∈ stores i, exec e.1 s = storeOp e.2.1 e.2.2.1 e.2.2.2 i s := by
    simp only [stores, List.forall_mem_cons]
    exact ⟨rfl, rfl, rfl, rfl, rfl, rfl, rfl, rfl, List.forall_mem_nil _⟩
  exact each _ h

theorem storeOp_noLane (h : c.Runs) (hl : c.lanes i = 0) : storeOp glob n pi i c.s =
    .next (c.update fun st => (bump c i glob pi 0 2 st).retired) := by
  rw [storeOp, h.withCx, if_pos hl]
  rfl

theorem storeOp_full (h : c.Runs) (hl : c.lanes i ≠ 0) (hr : c.st.hasRoom 2 = false) :
    storeOp glob n pi i c.s = c.block (.room 2) := by
  rw [storeOp, h.withCx, if_neg hl, hr]
  rfl

/-- The lanes of a store are checked, and it is issued or traps. -/
theorem storeOp_checked (h : c.Runs) (hl : c.lanes i ≠ 0) (hr : c.st.hasRoom 2 = true) :
    storeOp glob n pi i c.s = c.launchAcc i (c.lanes i) (storeChecks c i glob n) (storeAcc c i glob n) (storeData c i n)
      [] kindWrite (bump c i glob pi 0 2) := by
  rw [storeOp, h.withCx, if_neg hl, hr]
  rfl

theorem not_mem_loads_of_mem_stores {e : Instr × Bool × Nat × Bool} (h : e ∈ stores i) : e ∉ loads i := by
  have each : ∀ e ∈ stores i, e ∉ loads i := by simp [stores, loads]
  exact each e h

/-- Settles O17: the checks of one lane by their order, and the trap of a load or a store from the faults they find. -/
theorem accessChecksAndTraps : Obligations.AccessChecksAndTraps := by
  unfold Obligations.AccessChecksAndTraps
  refine ⟨fun s core asid need align va l => State.checkGlobal_misaligned,
    fun s core asid need align va l => State.checkGlobal_high,
    fun c size align p l hp hb => (Cx.checkLocal_own hp).trans (if_pos hb),
    fun c size align p l hp hb ha => (Cx.checkLocal_own hp).trans ((if_neg (Nat.not_lt.2 hb)).trans (if_pos ha)),
    fun c size align p l hp hb ha =>
      (Cx.checkLocal_own hp).trans ((if_neg (Nat.not_lt.2 hb)).trans (if_neg (not_not_intro ha))),
    fun c size align p l => Cx.checkLocal_high, ?trap⟩
  case trap =>
    intro i x glob n pi hx s r t st h c load q hload hstore hm hl hrl hrs b rest hb
    have h : c.Runs := h
    have hm : missFirst q.bad q.missed = false := missFirst_eq_false hm
    obtain hx | hx := hx
    · obtain rfl := hload hx
      exact (exec_of_mem_loads hx s).trans ((loadOp_checked h hl (hrl hx)).trans (Cx.launchAcc_traps hm hb))
    · have hnot : ¬ load := not_mem_loads_of_mem_stores hx
      obtain rfl := hstore hnot
      exact (exec_of_mem_stores hx s).trans ((storeOp_checked h hl (hrs hnot)).trans (Cx.launchAcc_traps hm hb))

end Sys2Proof.Machine
end

section
/-! The statements of spec/07_load_store_engine.md on what an issued access is (R220, R222 to R226, R234, R404). An access that is
issued names the cycle of its die, from which its latency counts (R408). The accesses that O15, O16 and O18 state name cycle 0,
so that each of the three fails on a die whose clock has run. -/
namespace Sys2Proof.Machine
open Sys2Proof.Claims

variable {c : Cx} {i : Ins}

/-! ### The flights after issue -/

/-- What each step of a fold keeps, the fold keeps. -/
theorem foldl_keeps {σ α β : Type} {f : σ → α → σ} (g : σ → β) (h : ∀ s x, g (f s x) = g s) (xs : List α) (s : σ) :
    g (xs.foldl f s) = g s := by
  induction xs generalizing s with
  | nil => rfl
  | cons x xs ih => exact (ih _).trans (h s x)

@[simp] theorem State.lose_flights (s : State) (k : CoreRef) (req : Nat) (ls : List (Nat × Nat)) :
    (s.lose k req ls).flights = s.flights := by
  rw [State.lose]
  split <;> rfl

@[simp] theorem Cx.loseBanks_flights (c : Cx) (a : Acc) (s : State) : (c.loseBanks a s).flights = s.flights := by
  rw [Cx.loseBanks]
  split
  · exact foldl_keeps State.flights (fun s ls => foldl_keeps State.flights (fun s k => State.lose_flights ..) ..) ..
  · rfl

section
variable {q : Tried} {a : Acc} {tys : List Nat} {kinds : Nat} {more : Stream → Stream}

theorem issued_flights (hp : parkedBlocks a.lanes = []) : (issued c i q a tys kinds more).flights = q.s.flights ++ [a] := by
  rw [issued, State.modStream_flights, State.park, if_pos hp, Cx.loseBanks_flights]

/-- The cycle in which an access is sent tells the state after its issue from one in which the access names no cycle. -/
theorem not_issued_without_cycle {x : Instr} (hx : exec x c.s = .next (issued c i q (c.sent q a) tys kinds more))
    (hp : parkedBlocks a.lanes = []) (ha : a.cycle = 0) (hc : (q.s.die c.r.die).clock ≠ 0) :
    exec x c.s ≠ .next (issued c i q a tys kinds more) := by
  intro h
  have hflights := congrArg State.flights (Host.Outcome.next.inj (hx.symm.trans h))
  rw [issued_flights hp, issued_flights (by exact hp)] at hflights
  have hsent : c.sent q a = a := by simpa using hflights
  exact hc ((congrArg Acc.cycle hsent).trans ha)

@[simp] theorem memAcc_cycle (x : Attr) : (memAcc x).cycle = 0 := by
  cases x <;> rfl

end

/-- A machine whose team has one lane, which executes, on a die whose clock reads 1. -/
def oneLane : Stream := { active := 1 }
def soloTeam : Team := { launch := 0, cluster := 0, asid := 0, control := oneLane, groups := [oneLane] }
def ticked : State :=
  { State.reset with
    cur := some ⟨0, 0, 0⟩, dies := [{ ident := 0, clock := 1 }]
    cores := [{ at_ := ⟨0, 0⟩, team := some soloTeam, split := { locBytes := 4 } }] }
def tickedCx : Cx := ⟨ticked, ⟨0, 0, 0⟩, soloTeam, oneLane⟩

theorem tickedCx_runs : tickedCx.Runs := ⟨rfl, rfl, rfl⟩

/-- An access of the word at address 0: a load takes the first operand alone, a store puts 5 there. -/
def wordAtZero : Ins := { form := 0x03, attr := .mem 0 0 false false false false 0 false, src := [.int 0, .int 5] }

/-! ### Loads -/

section
variable {x : Instr} {glob pi : Bool} {n : Nat}

theorem exec_load_issued (hx : (x, glob, n, pi) ∈ loads i) (h : c.Runs) (hl : c.lanes i ≠ 0)
    (hr : c.st.hasRoom (loadPath glob) = true) (hb : (loadChecks c i glob n).bad = []) :
    exec x c.s = .next (issued c i (loadChecks c i glob n) (c.sent (loadChecks c i glob n)
      (inFlight c i (loadChecks c i glob n) (loadAcc i glob n) (fun _ => []) (List.replicate n (ty i))))
        (List.replicate n (ty i)) kindRead (bump c i glob pi n 1)) :=
  (exec_of_mem_loads hx c.s).trans ((loadOp_checked h hl hr).trans (Cx.launchAcc_passes hb))

/-- What holds where O15 fails: its three cases, with the access as it is sent. -/
theorem exec_load (hx : (x, glob, n, pi) ∈ loads i) (h : c.Runs) :
    (c.lanes i ≠ 0 → c.st.hasRoom (loadPath glob) = true → (loadChecks c i glob n).bad = [] →
      exec x c.s = .next (issued c i (loadChecks c i glob n) (c.sent (loadChecks c i glob n)
        (inFlight c i (loadChecks c i glob n) (loadAcc i glob n) (fun _ => []) (List.replicate n (ty i))))
          (List.replicate n (ty i)) kindRead (bump c i glob pi n 1))) ∧
    (c.lanes i = 0 → exec x c.s =
      .next (c.update fun st => (bump c i glob pi n 1 (c.fallbacks i 0 (List.replicate n (ty i)) st)).retired)) ∧
    (c.lanes i ≠ 0 → c.st.hasRoom (loadPath glob) = false → exec x c.s = c.block (.room (loadPath glob))) :=
  ⟨exec_load_issued hx h, fun hl => (exec_of_mem_loads hx c.s).trans (loadOp_noLane h hl),
    fun hl hr => (exec_of_mem_loads hx c.s).trans (loadOp_full h hl hr)⟩

/-- Refutes O15: the access of a load that is issued names the cycle of its die (R408), and the statement's names cycle 0. A
load of a word of local memory on a die whose clock reads 1 tells them apart. -/
theorem not_loadsAreIssued : ¬ Obligations.LoadsAreIssued := by
  unfold Obligations.LoadsAreIssued
  intro h
  have hx : (Instr.ldL wordAtZero, false, 1, false) ∈ loads wordAtZero := List.mem_cons_self
  have hl : tickedCx.lanes wordAtZero ≠ 0 := by decide
  have hb : (loadChecks tickedCx wordAtZero false 1).bad = [] := by decide +kernel
  obtain ⟨hissued, -, -⟩ := h wordAtZero _ _ _ _ hx ticked ⟨0, 0, 0⟩ soloTeam oneLane tickedCx_runs
  exact not_issued_without_cycle (exec_load_issued hx tickedCx_runs hl rfl hb) (by decide +kernel)
    (memAcc_cycle wordAtZero.attr) (by decide +kernel) (hissued hl rfl hb)

/-! ### Stores -/

theorem exec_store_issued (hx : (x, glob, n, pi) ∈ stores i) (h : c.Runs) (hl : c.lanes i ≠ 0)
    (hr : c.st.hasRoom 2 = true) (hb : (storeChecks c i glob n).bad = []) :
    exec x c.s = .next (issued c i (storeChecks c i glob n) (c.sent (storeChecks c i glob n)
      (inFlight c i (storeChecks c i glob n) (storeAcc c i glob n) (storeData c i n) []))
        [] kindWrite (bump c i glob pi 0 2)) :=
  (exec_of_mem_stores hx c.s).trans ((storeOp_checked h hl hr).trans (Cx.launchAcc_passes hb))

/-- What holds where O16 fails: its three cases, with the access as it is sent. -/
theorem exec_store (hx : (x, glob, n, pi) ∈ stores i) (h : c.Runs) :
    (c.lanes i ≠ 0 → c.st.hasRoom 2 = true → (storeChecks c i glob n).bad = [] →
      exec x c.s = .next (issued c i (storeChecks c i glob n) (c.sent (storeChecks c i glob n)
        (inFlight c i (storeChecks c i glob n) (storeAcc c i glob n) (storeData c i n) []))
          [] kindWrite (bump c i glob pi 0 2))) ∧
    (c.lanes i = 0 → exec x c.s = .next (c.update fun st => (bump c i glob pi 0 2 st).retired)) ∧
    (c.lanes i ≠ 0 → c.st.hasRoom 2 = false → exec x c.s = c.block (.room 2)) :=
  ⟨exec_store_issued hx h, fun hl => (exec_of_mem_stores hx c.s).trans (storeOp_noLane h hl),
    fun hl hr => (exec_of_mem_stores hx c.s).trans (storeOp_full h hl hr)⟩

/-- Refutes O16: as for O15, the access of a store that is issued names the cycle of its die. -/
theorem not_storesAreIssued : ¬ Obligations.StoresAreIssued := by
  unfold Obligations.StoresAreIssued
  intro h
  have hx : (Instr.stL wordAtZero, false, 1, false) ∈ stores wordAtZero := List.mem_cons_self
  have hl : tickedCx.lanes wordAtZero ≠ 0 := by decide
  have hb : (storeChecks tickedCx wordAtZero false 1).bad = [] := by decide +kernel
  obtain ⟨hissued, -, -⟩ := h wordAtZero _ _ _ _ hx ticked ⟨0, 0, 0⟩ soloTeam oneLane tickedCx_runs
  exact not_issued_without_cycle (exec_store_issued hx tickedCx_runs hl rfl hb) (by decide +kernel)
    (memAcc_cycle wordAtZero.attr) (by decide +kernel) (hissued hl rfl hb)

end

/-! ### Constant loads, prefetches, fences and l1.inv -/

/-- The base of the constants of the stream's launch (R223). -/
def Cx.constBase (c : Cx) : Nat :=
  match c.s.launch? c.t.launch with
  | some a => a.record.const
  | none => 0

/-- The checks of a constant load. -/
def ldcChecks (c : Cx) (i : Ins) : Tried :=
  c.tryLanes (lanesOf (c.lanes i)) (fun l => (c.constBase + c.arg i 0 32 l) % 2 ^ 64) fun s a l =>
    s.checkGlobal c.core c.t.asid { read := true, scope := (memAcc i.attr).bindScope } (tyBytes (ty i)) a l

/-- The lanes of a constant load are checked, and it is issued or traps. -/
theorem execLdc_checked (h : c.Runs) (hl : c.lanes i ≠ 0) (hr : c.st.hasRoom 1 = true) :
    execLdc i c.s = c.launchAcc i (c.lanes i) (ldcChecks c i)
      { memAcc i.attr with kind := .load, size := tyBytes (ty i), ro := true } (fun _ => []) [ty i] kindRead id := by
  have hbase : ((c.s.launch? c.t.launch).map fun a => a.record.const).getD 0 = c.constBase := by
    rw [Cx.constBase]
    cases c.s.launch? c.t.launch <;> rfl
  rw [execLdc, h.withCx, if_neg hl, hr, hbase]
  rfl

theorem exec_ldc_issued (h : c.Runs) (hl : c.lanes i ≠ 0) (hr : c.st.hasRoom 1 = true) (hb : (ldcChecks c i).bad = []) :
    exec (.ldc i) c.s = .next (issued c i (ldcChecks c i) (c.sent (ldcChecks c i) (inFlight c i (ldcChecks c i)
      { memAcc i.attr with kind := .load, size := tyBytes (ty i), ro := true } (fun _ => []) [ty i])) [ty i] kindRead id) :=
  (execLdc_checked h hl hr).trans (Cx.launchAcc_passes hb)

/-- The lanes of a prefetch that pass their checks: the others are dropped (R224). -/
def prefetchChecks (c : Cx) (i : Ins) : Tried :=
  { c.tryLanes (lanesOf (c.lanes i)) (c.arg i 0 64) fun s a l =>
      s.checkGlobal c.core c.t.asid { read := true, scope := (memAcc i.attr).scope } 1 a l with missed := [], bad := [] }

theorem prefetchOp_checked (h : c.Runs) (hl : c.lanes i ≠ 0) (hr : c.st.hasRoom 1 = true) (kind : AccKind) :
    prefetchOp kind i c.s = c.launchAcc i (c.lanes i) (prefetchChecks c i) { memAcc i.attr with kind := kind, size := 1 }
      (fun _ => []) [] kindRead id := by
  rw [prefetchOp, h.withCx, if_neg hl, hr]
  rfl

/-- A prefetch is issued whatever its lanes' checks say. -/
theorem exec_prefetch_issued {x : Instr} {k : AccKind}
    (hx : (x, k) = (Instr.pf i, AccKind.prefetch) ∨ (x, k) = (.pfL1 i, .prefetchL1)) (h : c.Runs) (hl : c.lanes i ≠ 0)
    (hr : c.st.hasRoom 1 = true) : exec x c.s = .next (issued c i (prefetchChecks c i) (c.sent (prefetchChecks c i)
      (inFlight c i (prefetchChecks c i) { memAcc i.attr with kind := k, size := 1 } (fun _ => []) [])) [] kindRead id) := by
  have hop : exec x c.s = prefetchOp k i c.s := by
    obtain ⟨rfl, rfl⟩ | ⟨rfl, rfl⟩ := hx.imp Prod.mk.inj Prod.mk.inj
    · rfl
    · rfl
  exact hop.trans ((prefetchOp_checked h hl hr k).trans (Cx.launchAcc_passes rfl))

theorem exec_fence_joins (h : c.Runs) (hl : c.lanes i ≠ 0) :
    let b := memAcc i.attr
    let a : Acc := { id := c.s.nextId, ref := c.r, asid := c.t.asid, kind := .fence (BitVec.ofNat 16 (c.warg i 0 16))
                     scope := b.scope, acq := b.acq, rel := b.rel, pos := ⟨c.st.func, c.st.off⟩, born := c.s.now
                     lanes := (lanesOf (c.lanes i)).map fun l => { lane := l, va := 0 }, link := some (c.s.streamRef c.r) }
    exec (.fence i) c.s =
      .next ({ c.s with nextId := c.s.nextId + 1, flights := c.s.flights ++ [a] }.modStream c.r Stream.retired) := by
  change execFence i c.s = _
  rw [execFence, h.withCx, if_neg hl]
  rfl

theorem exec_l1Inv_drops (h : c.Runs) (hl : c.lanes i ≠ 0) : exec (.l1Inv i) c.s =
    .next (((c.s.flushCore c.core).modCore c.core fun k => k.l1Clear true).modStream c.r Stream.retired) := by
  change execL1Inv i c.s = _
  rw [execL1Inv, h.withCx, if_neg hl]

theorem exec_noLane (h : c.Runs) (hl : c.lanes i = 0) {x : Instr} (hx : x ∈ [Instr.fence i, .pf i, .pfL1 i, .l1Inv i]) :
    exec x c.s = .next (c.update Stream.retired) := by
  have hfence : execFence i c.s = .next (c.update Stream.retired) := by rw [execFence, h.withCx, if_pos hl]
  have hprefetch (kind : AccKind) : prefetchOp kind i c.s = .next (c.update Stream.retired) := by
    rw [prefetchOp, h.withCx, if_pos hl]
  have hinv : execL1Inv i c.s = .next (c.update Stream.retired) := by
    rw [execL1Inv, h.withCx, if_pos hl]
    rfl
  revert x
  simp only [List.forall_mem_cons]
  exact ⟨hfence, hprefetch .prefetch, hprefetch .prefetchL1, hinv, List.forall_mem_nil _⟩

/-- Refutes O18, in its clause on prefetches: as for O15, the access of a prefetch that is issued names the cycle of its die. -/
theorem not_constantLoadsPrefetchesAndFences : ¬ Obligations.ConstantLoadsPrefetchesAndFences := by
  unfold Obligations.ConstantLoadsPrefetchesAndFences
  intro h
  have hl : tickedCx.lanes wordAtZero ≠ 0 := by decide
  obtain ⟨-, hprefetch, -⟩ := h wordAtZero ticked ⟨0, 0, 0⟩ soloTeam oneLane tickedCx_runs
  exact not_issued_without_cycle (exec_prefetch_issued (.inl rfl) tickedCx_runs hl rfl) (by decide +kernel)
    (memAcc_cycle wordAtZero.attr) (by decide +kernel) (hprefetch (.pf wordAtZero) .prefetch (.inl rfl) hl rfl)

end Sys2Proof.Machine
end

section
/-! The statements of spec/07_load_store_engine.md on the tag table (R213 to R216). -/
namespace Sys2Proof.Machine
open Sys2Proof.Claims

variable {c : Cx} {i : Ins}

/-! ### Results do not depend on the tags -/

/-- What an instruction writes depends on the time and the dies of its state alone. -/
theorem Cx.written_withState {s : State} (ht : s.ticks = c.s.ticks) (hd : s.dies = c.s.dies) (opc : Nat) (i : Ins)
    (tys : List Nat) (m : BitVec 32) (outs : List (Nat × LaneOut)) :
    ({ c with s := s } : Cx).written opc i tys m outs = c.written opc i tys m outs := by
  have hident : ({ c with s := s } : Cx).ident = c.ident := by simp only [Cx.ident, State.die, hd]
  have hdeliver (src : Nat) (ks : List Nat) : ∀ st k,
      ({ c with s := s } : Cx).deliverAll opc src i m outs st k ks = c.deliverAll opc src i m outs st k ks := by
    induction ks with
    | nil => exact fun _ _ => rfl
    | cons ty ks ih =>
      intro st k
      simp only [Cx.deliverAll, Cx.deliver, hident, ht, ih]
      rfl
  funext st
  simp only [Cx.written, Cx.raise, hdeliver, hident, ht]

/-- The tag table has changed, and one lane's results are written. -/
def Cx.tagged (c : Cx) (opc : Nat) (i : Ins) (l : Nat) (tys vals : List Nat) (tags : List TagSet) : State :=
  (c.s.modTeam c.core fun t => { t with tags := tags }).modStream c.r
    (c.written opc i tys (c.lanes i) [(l, { vals := vals })])

/-- A tag instruction that executes in one lane (R216). -/
theorem Cx.tagwise_single {l : Nat} (hl : lanesOf (c.lanes i) = [l]) (opc : Nat) (tys : List Nat)
    (f : Team → Nat → List Nat × Team) :
    c.tagwise opc i tys f = .next (c.tagged opc i l tys (f c.t l).1 (f c.t l).2.tags) := by
  have hquiet (d : Cx) : d.trapping [(l, { vals := (f c.t l).1 })] = [] := Cx.trapping_nil d _ (by simp)
  rw [Cx.tagwise, hl]
  refine (if_pos (hquiet _)).trans ?_
  rw [Cx.written_withState (by simp) (by simp)]
  rfl

/-! ### Looking a set up -/

/-- The first element that passes a test, found with its place. -/
theorem map_snd_find?_zipIdx {α : Type} (p : α → Bool) (xs : List α) :
    (xs.zipIdx.find? fun w => p w.1).map Prod.snd =
      if xs.findIdx p < xs.length then some (xs.findIdx p) else none := by
  have h := List.findIdx?_eq_fst_find?_zipIdx (p := p) (xs := xs)
  split
  next hlt => exact h.symm.trans (List.findIdx?_eq_some_iff_findIdx_eq.2 ⟨hlt, rfl⟩)
  next hge =>
    have hle : xs.findIdx p ≤ xs.length := List.findIdx_le_length
    exact h.symm.trans (List.findIdx?_eq_none_iff_findIdx_eq.2 (by omega))

/-- The way that holds a key, and the first invalid one; the number of ways where there is none. -/
def TagSet.hit (x : TagSet) (k : Nat) : Nat := x.ways.findIdx fun w => w.valid && w.key.toNat == k
def TagSet.free (x : TagSet) : Nat := x.ways.findIdx fun w => !w.valid

theorem TagSet.lookup_eq (x : TagSet) (n k : Nat) (nolru : Bool) : x.lookup n k nolru =
    if x.hit k < x.ways.length then (4 * n + x.hit k, if nolru then x else x.touch (x.hit k))
    else if x.free < x.ways.length then (2 ^ 31 + 4 * n + x.free, x)
    else (2 ^ 31 + 4 * n + (x.recency.getLast?).getD 0, x) := by
  have hhit := map_snd_find?_zipIdx (fun w : TagWay => w.valid && w.key.toNat == k) x.ways
  have hfree := map_snd_find?_zipIdx (fun w : TagWay => !w.valid) x.ways
  change _ = if x.hit k < x.ways.length then some (x.hit k) else none at hhit
  change _ = if x.free < x.ways.length then some x.free else none at hfree
  cases hh : x.ways.zipIdx.find? fun w => w.1.valid && w.1.key.toNat == k with
  | some w =>
    rw [hh, Option.map_some] at hhit
    obtain ⟨hlt, hw⟩ := Option.ite_none_right_eq_some.1 hhit.symm
    rw [if_pos hlt]
    simp only [TagSet.lookup, hh, Option.some.inj hw]
  | none =>
    rw [hh, Option.map_none] at hhit
    have hge : ¬ x.hit k < x.ways.length := by simpa using hhit
    rw [if_neg hge]
    cases hf : x.ways.zipIdx.find? fun w => !w.1.valid with
    | some w =>
      rw [hf, Option.map_some] at hfree
      obtain ⟨hlt, hw⟩ := Option.ite_none_right_eq_some.1 hfree.symm
      rw [if_pos hlt]
      simp only [TagSet.lookup, hh, hf, Option.some.inj hw]
    | none =>
      rw [hf, Option.map_none] at hfree
      have hfull : ¬ x.free < x.ways.length := by simpa using hfree
      rw [if_neg hfull]
      simp only [TagSet.lookup, hh, hf]

/-! ### The tag instructions -/

section
variable {l : Nat}

/-- A key that the set holds is found, and made the most recent; otherwise the miss names the first invalid way or the least
recent one. -/
theorem exec_tagLk (h : c.Runs) (hl : lanesOf (c.lanes i) = [l]) :
    let k := c.arg i 0 (tyBits (ty i)) l
    let x := c.t.tagSet (k % 256)
    exec (.tagLk i) c.s = .next (
      if x.hit k < x.ways.length then c.tagged 0x92 i l [tI32] [4 * (k % 256) + x.hit k]
        (c.t.setTagSet (k % 256) (if i.attr.low = 1 then x else x.touch (x.hit k))).tags
      else if x.free < x.ways.length then
        c.tagged 0x92 i l [tI32] [2 ^ 31 + 4 * (k % 256) + x.free] (c.t.setTagSet (k % 256) x).tags
      else
        c.tagged 0x92 i l [tI32] [2 ^ 31 + 4 * (k % 256) + (x.recency.getLast?).getD 0] (c.t.setTagSet (k % 256) x).tags) := by
  intro k x
  change execTagLk i c.s = _
  rw [execTagLk, h.withCx, Cx.tagwise_single hl]
  change Host.Outcome.next (c.tagged 0x92 i l [tI32] [(x.lookup (k % 256) k (i.attr.low == 1)).1]
    (c.t.setTagSet (k % 256) (x.lookup (k % 256) k (i.attr.low == 1)).2).tags) = _
  rw [TagSet.lookup_eq]
  by_cases hhit : x.hit k < x.ways.length
  · simp only [if_pos hhit, beq_iff_eq]
  · by_cases hfree : x.free < x.ways.length
    · simp only [if_neg hhit, if_pos hfree]
    · simp only [if_neg hhit, if_neg hfree]

theorem exec_tagSet (h : c.Runs) (hl : lanesOf (c.lanes i) = [l]) :
    let w := c.arg i 0 32 l % 4
    let k := c.arg i 1 (tyBits (ty i)) l
    let x := c.t.tagSet (k % 256)
    let old := (x.ways[w]?).getD {}
    exec (.tagSet i) c.s = .next (c.tagged 0x93 i l [tI64, tI1] [old.key.toNat, old.valid.toNat]
      (c.t.setTagSet (k % 256) ({ x with ways := setAt x.ways w ⟨BitVec.ofNat 64 k, true⟩ }.touch w)).tags) := by
  change execTagSet i c.s = _
  rw [execTagSet, h.withCx, Cx.tagwise_single hl]

theorem exec_tagClr (h : c.Runs) (hl : lanesOf (c.lanes i) = [l]) :
    let n := c.arg i 0 32 l % 1024
    let x := c.t.tagSet (n / 4)
    exec (.tagClr i) c.s = .next (c.tagged 0x94 i l [] []
      (c.t.setTagSet (n / 4) { x with ways := modAt x.ways (n % 4) fun w => { w with valid := false } }).tags) := by
  change execTagClr i c.s = _
  rw [execTagClr, h.withCx, Cx.tagwise_single hl]

theorem exec_tagClrAll (h : c.Runs) (hl : lanesOf (c.lanes i) = [l]) :
    exec (.tagClrAll i) c.s = .next (c.tagged 0x94 i l [] []
      (c.t.tags.map fun x => { x with ways := x.ways.map fun w => { w with valid := false } })) := by
  change execTagClrAll i c.s = _
  rw [execTagClrAll, h.withCx, Cx.tagwise_single hl]

end

/-- Settles O19: each tag instruction changes the table, and one lane's results are written. -/
theorem tagTable : Obligations.TagTable := by
  unfold Obligations.TagTable
  intro i s r t st l h hl c after put set
  have h : c.Runs := h
  refine ⟨exec_tagLk h hl, ?set, exec_tagClr h hl, exec_tagClrAll h hl⟩
  case set =>
    intro w k x old
    have hvalid : (if old.valid then 1 else 0) = old.valid.toNat := (Bool.cond_eq_ite ..).symm
    rw [hvalid]
    exact exec_tagSet h hl

end Sys2Proof.Machine
end

section
/-! The statements of spec/07_load_store_engine.md on accesses in flight (R211, R220, R226 to R230, R404, R408). -/
namespace Sys2Proof.Machine
open Sys2Proof.Claims

variable {s : State} {id : Nat} {a : Acc}

/-! ### Accesses by their number -/

/-- A change that keeps the numbers changes the access of a number. -/
theorem State.acc?_modAcc {f : Acc → Acc} (hf : ∀ x, (f x).id = x.id) (h : s.acc? id = some a) (ha : a.id = id) :
    (s.modAcc id f).acc? id = some (f a) := by
  have hkeeps : ((fun x : Acc => x.id == id) ∘ fun x => if x.id = id then f x else x) = fun x => x.id == id := by
    funext x
    by_cases hx : x.id = id <;> simp [hf, hx]
  rw [State.acc?] at h
  rw [State.acc?, State.modAcc, List.find?_map, hkeeps, h, Option.map_some, if_pos ha]

/-- An access all of whose lanes have been sent is not sent again. -/
theorem State.resendAll_of_sent (h : s.acc? id = some a) (hs : ∀ l ∈ a.lanes, l.stage = .sent) : s.resendAll id = s := by
  have hnone (g : LaneStage) (hg : g ≠ .sent) : (a.lanes.filter fun l => l.stage == g) = [] := by
    simp only [List.filter_eq_nil_iff, beq_iff_eq]
    intro l hl hl'
    exact hg (hl'.symm.trans (hs l hl))
  have hreplay : s.replay id = s := by
    simp only [State.replay, h]
    rw [hnone .denied (by decide), hnone .mapped (by decide)]
    exact ite_self _
  simp only [State.resendAll, hreplay, h]
  rw [hnone .refused (by decide)]

/-- Where no message is on its way, no acknowledgement has arrived. -/
theorem State.takeAcks_of_no_msgs (h : s.fabric.msgs = []) (id : Nat) : s.takeAcks id = s := by
  have hack (a : Acc) (src : Nat) : s.takeAck id a src = s := by
    simp only [State.takeAck, State.headMsg, h, List.filter_nil, List.find?_nil]
  have hfold (a : Acc) (srcs : List Nat) : srcs.foldl (fun s src => s.takeAck id a src) s = s := by
    induction srcs with
    | nil => rfl
    | cons src srcs ih => rw [List.foldl_cons, hack, ih]
  rw [State.takeAcks]
  split
  · rfl
  · exact hfold ..

theorem State.movingAt_local (h : a.isLocal = true) (l : AccLane) : s.movingAt a l = false := by
  rw [State.movingAt]
  split
  · simp [h]
  · rfl

/-! ### Loads of local memory -/

/-- A lane of a load takes the bytes that stand at its address. -/
def State.bound (s : State) (a : Acc) (l : AccLane) : AccLane :=
  { l with got := s.bytesAt l.pa a.size, stage := .done, poison := false }

/-- Without older stores of its core, a load takes the bytes below (R228). -/
theorem State.forward_of_no_store (h : ∀ o ∈ olderThan a.id s.flights, coreOf o.ref = coreOf a.ref → o.isStore = false)
    (l : AccLane) (bs : List Byte) : s.forward a l bs = bs := by
  rw [State.forward]
  generalize olderThan a.id s.flights = older at h
  induction older with
  | nil => rfl
  | cons o older ih =>
    obtain ⟨ho, hrest⟩ := List.forall_mem_cons.1 h
    have hskip : (o.isStore && coreOf o.ref == coreOf a.ref) = false := by
      by_cases hc : coreOf o.ref = coreOf a.ref <;> simp [hc, ho]
    rw [List.foldl_cons, hskip]
    exact ih hrest

theorem State.bindLanes_local (hl : a.isLocal = true) (hf : ∀ l bs, s.forward a l bs = bs) (ls : List AccLane)
    (hs : ∀ l ∈ ls, l.stage = .sent) (hp : ∀ l ∈ ls, s.anyPoison l.pa a.size = false) :
    s.bindLanes a ls = (s, ls.map (s.bound a)) := by
  induction ls with
  | nil => rfl
  | cons l ls ih =>
    obtain ⟨hsl, hsls⟩ := List.forall_mem_cons.1 hs
    obtain ⟨hpl, hpls⟩ := List.forall_mem_cons.1 hp
    simp [State.bindLanes, hsl, State.movingAt_local hl, State.bindLane, hl, hf, State.homeAhead, State.bindPoison, hpl,
      State.refFound, ih hsls hpls, State.bound]

theorem Acc.isPrefetch_of_isLoad (h : a.isLoad = true) : a.isPrefetch = false := by
  simp only [Acc.isLoad] at h
  split at h
  next hk => simp [Acc.isPrefetch, hk]
  next => exact absurd h (by decide)

/-- A load all of whose lanes bind now is delivered, unless its latency holds it back (R408). -/
theorem execLoadReturn_binds {ls : List AccLane} (hstill : (s.resendAll id).takeAcks id = s) (h : s.acc? id = some a)
    (hid : a.id = id) (hload : a.isLoad = true) (hclear : s.clear a = true) (hacq : a.acq = false)
    (hbind : s.bindLanes a a.lanes = (s, ls)) (hdone : ∀ l ∈ ls, l.stage = .done) :
    let b := { a with lanes := ls, due := s.loadDue a }
    let s' := s.modAcc id fun x => { x with lanes := ls, due := s.loadDue a }
    execLoadReturn id s = if (s.die a.ref.die).clock < b.due then .next s' else .next (s'.loadDeliver b) := by
  intro b s'
  have hacc : s'.acc? id = some b := State.acc?_modAcc (f := fun x => { x with lanes := ls, due := s.loadDue a })
    (fun _ => rfl) h hid
  have hall : b.allDone = true := by simpa [Acc.allDone, b] using hdone
  have hend (t : State) : t.acquireDone b = (t, true) := if_pos (by simp [b, hacq])
  simp only [execLoadReturn, hstill, h, hload, hclear, Acc.isPrefetch_of_isLoad hload, hbind, Bool.true_or, Bool.not_true,
    Bool.or_self, Bool.false_eq_true, if_false]
  rw [hacc]
  simp only [hall, hend, State.early, Bool.not_true, Bool.false_or, decide_eq_true_eq, if_true]
  rfl

theorem localLoadReturnsMemory : LocalLoadReturnsMemory := by
  unfold LocalLoadReturnsMemory
  intro s id a h hid hload hlocal hacq hsent hclear hmsgs hold hpoison b s'
  have hbind : s.bindLanes a a.lanes = (s, b.lanes) :=
    State.bindLanes_local hlocal (State.forward_of_no_store hold) a.lanes hsent hpoison
  have hstill : (s.resendAll id).takeAcks id = s := by
    rw [State.resendAll_of_sent h hsent, State.takeAcks_of_no_msgs hmsgs]
  have hreturn : exec (.loadReturn id) s = _ :=
    execLoadReturn_binds hstill h hid hload hclear hacq hbind (by simp [b])
  have hdeliver : s'.loadDeliver b = (s'.modStream a.ref (deliverLoad b)).finishAcc b := by
    have hclean : b.lanes.filter AccLane.poison = [] := by simp [b]
    simp only [State.loadDeliver, hclean]
    rw [if_neg (by simp [b, hacq])]
  exact ⟨fun hdue => hreturn.trans ((if_neg (Nat.not_lt.2 hdue)).trans (congrArg _ hdeliver)),
    fun hdue => hreturn.trans (if_pos hdue)⟩

/-! ### What a returned load leaves in its stream -/

/-- A mask has the lanes that pass its test. -/
theorem getLsbD_maskOf (p : Nat → Bool) {l : Nat} (hl : l < 32) : (maskOf p).getLsbD l = p l := by
  have bits : ∀ n, (List.range n).foldl (fun n l => if p l then n + 2 ^ l else n) 0 < 2 ^ n ∧
      ∀ l < n, ((List.range n).foldl (fun n l => if p l then n + 2 ^ l else n) 0).testBit l = p l := by
    intro n
    induction n with
    | zero => exact ⟨Nat.one_pos, fun l hl => absurd hl (Nat.not_lt_zero l)⟩
    | succ n ih =>
      obtain ⟨hlt, hbits⟩ := ih
      rw [List.range_succ, List.foldl_append, List.foldl_cons, List.foldl_nil]
      generalize (List.range n).foldl (fun n l => if p l then n + 2 ^ l else n) 0 = x at hlt hbits
      have htop := Nat.testBit_lt_two_pow hlt
      refine ⟨by rw [Nat.pow_succ]; split <;> omega, fun l hl => ?_⟩
      obtain hl | rfl := Nat.lt_succ_iff_lt_or_eq.1 hl
      · rw [← hbits l hl]
        split
        · rw [Nat.add_comm, Nat.testBit_two_pow_add_gt hl]
        · rfl
      · split
        next hp => rw [Nat.add_comm, Nat.testBit_two_pow_add_eq, htop, hp]; rfl
        next hp => rw [htop, Bool.eq_false_iff.2 hp]
  rw [maskOf, BitVec.getLsbD_ofNat, (bits 32).2 l hl]
  simp [hl]

theorem Acc.getLsbD_laneMask (a : Acc) {l : Nat} (hl : l < 32) : a.laneMask.getLsbD l = true ↔ ∃ x ∈ a.lanes, x.lane = l := by
  rw [Acc.laneMask, maskOfList, getLsbD_maskOf _ hl]
  simp

/-- The first `n` bytes that a lane of an access has received. -/
def Acc.word (a : Acc) (n l : Nat) : Word :=
  match a.lanes.find? fun x => x.lane == l with
  | some x => BitVec.ofNat 64 (ofBytes (x.got.take n))
  | none => 0

section
variable {st : Stream} {f n t : Nat}

/-- A load with one destination in the portable form writes it, and it is no longer pending. -/
theorem deliverLoad_val (hd : a.dsts = [(.val f n, t)]) : deliverLoad a st =
    ((st.put (.val f n) a.laneMask ⟨t, (List.range 32).map (a.word (tyBytes t))⟩).landed (.val f n)).overtake a.laneMask
      (.val f n) := by
  rw [deliverLoad, hd]
  rfl

theorem Acc.word_toNat {l : Nat} (hl : ∃ x ∈ a.lanes, x.lane = l) : (a.word n l).toNat =
    ofBytes ((((a.lanes.find? fun x => x.lane == l).map AccLane.got).getD []).take n) % 2 ^ 64 := by
  have hsome : (a.lanes.find? fun x => x.lane == l).isSome := by simpa using hl
  obtain ⟨x, hx⟩ := Option.isSome_iff_exists.1 hsome
  simp only [Acc.word, hx, Option.map_some, Option.getD_some, BitVec.toNat_ofNat]

end

theorem loadedValuesAreWritten : LoadedValuesAreWritten := by
  unfold LoadedValuesAreWritten
  intro a st f n t l hd hl _
  rw [deliverLoad_val hd]
  obtain ⟨-, hlanes⟩ := Stream.get_put_same st (.val f n) a.laneMask ⟨t, (List.range 32).map (a.word (tyBytes t))⟩
  refine ⟨fun hin => ?written, fun hout => ?kept, ?landed, fun k hk => Stream.get_put_other _ _ hk⟩
  case written =>
    refine (hlanes l hl).trans ?_
    rw [if_pos ((a.getLsbD_laneMask hl).2 hin), ← Acc.word_toNat hin]
    simp [TVal.lane, hl]
  case kept =>
    refine (hlanes l hl).trans (if_neg ?_)
    rw [a.getLsbD_laneMask hl]
    rintro ⟨x, hx, hxl⟩
    exact hout x hx hxl
  case landed => simp [Stream.overtake, Stream.landed]

/-- Settles O21: what a load of local memory reads, and where its results go. -/
theorem loadsReturnAndAreWritten : Obligations.LoadsReturnAndAreWritten := ⟨localLoadReturnsMemory, loadedValuesAreWritten⟩

/-! ### Stores to local memory -/

@[simp] theorem State.settle_flights (s : State) (x : Nat) : (s.settle x).flights = s.flights := by
  rw [State.settle]
  split <;> rfl

@[simp] theorem State.mark_flights (s : State) (x n : Nat) (bad : Bool) (g : Nat) : (s.mark x n bad g).flights = s.flights := by
  rw [State.mark]
  split
  · rfl
  · split
    · exact State.settle_flights s g
    · exact State.settle_flights s g

@[simp] theorem State.writeBytes_flights (s : State) (x : Nat) (bs : List Byte) (bad : Bool) :
    (s.writeBytes x bs bad).flights = s.flights :=
  foldl_keeps State.flights (fun s g => State.mark_flights s x bs.length bad g) ..

/-- The bytes of the lanes of a local store stand in memory. -/
def State.storeLanes (s : State) (ls : List AccLane) : State := ls.foldl (fun s l => s.writeBytes l.pa l.data l.poison) s

@[simp] theorem State.storeLanes_flights (s : State) (ls : List AccLane) : (s.storeLanes ls).flights = s.flights :=
  foldl_keeps State.flights (fun s (l : AccLane) => State.writeBytes_flights s l.pa l.data l.poison) ls s

/-- The lanes of a local store perform in their order, each at once. -/
theorem State.performLanes_local (hl : a.isLocal = true) (ls : List AccLane) (hs : ∀ l ∈ ls, l.stage = .sent) (s : State) :
    s.performLanes a ls = (s.storeLanes ls, ls.map fun (l : AccLane) => { l with stage := .done }) := by
  induction ls generalizing s with
  | nil => rfl
  | cons l ls ih =>
    obtain ⟨hsl, hsls⟩ := List.forall_mem_cons.1 hs
    have hhome (s : State) : s.goesHome a = false := by simp [State.goesHome, hl]
    simp [State.performLanes, State.leadUp, State.followsBytes, State.performLane, State.movingAt_local hl, hhome, hsl, hl,
      ih hsls, State.storeLanes]

/-- A store to local memory is not held back (R390). -/
theorem State.storeDue_local (hl : a.isLocal = true) (s : State) : s.storeDue a = 0 := by
  have hzero : ∀ ls : List AccLane, (ls.map fun _ => 0).foldl Nat.max 0 = 0 := by
    intro ls
    induction ls with
    | nil => rfl
    | cons l ls ih => exact ih
  simp only [State.storeDue, State.dueBy, hl, Bool.not_true, Bool.false_and, Bool.false_eq_true, if_false, if_true, hzero, ite_self]

theorem localStorePerforms : LocalStorePerforms := by
  unfold LocalStorePerforms
  intro s id a h hid hstore hlocal hrel hsent hclear hmsgs b
  have hstill : (s.resendAll id).takeAcks id = s := by
    rw [State.resendAll_of_sent h hsent, State.takeAcks_of_no_msgs hmsgs]
  have hready : s.releaseReady a = (s, true) := if_pos (by simp [hrel])
  have hperform : s.performLanes a a.lanes = (s.storeLanes a.lanes, b.lanes) := State.performLanes_local hlocal a.lanes hsent s
  have hstored : (s.storeLanes a.lanes).acc? id = some a := by rwa [State.acc?, State.storeLanes_flights]
  have hacc : ((s.storeLanes a.lanes).modAcc id fun x => { x with lanes := b.lanes }).acc? id = some b :=
    State.acc?_modAcc (f := fun x => { x with lanes := b.lanes }) (fun _ => rfl) hstored hid
  have hall : b.allDone = true := by simp [Acc.allDone, b]
  have hdue (t : State) : t.storeDue b = 0 := State.storeDue_local (a := b) hlocal t
  change execStoreAck id s = _
  simp only [execStoreAck, hstill, h, hstore, hclear, hready, hperform, Bool.not_true, Bool.or_self, Bool.false_eq_true, if_false]
  rw [hacc]
  simp only [hall, hdue, State.early, Nat.not_lt_zero, decide_false, Bool.not_false, Bool.and_self, if_true]
  rfl

/-! ### Coalesced lines -/

theorem throughLast_append {α : Type} {p : α → Bool} {old young : List α} (hy : ∀ x ∈ young, p x = false)
    (ho : old = [] ∨ ∃ x, old.getLast? = some x ∧ p x = true) : throughLast p (old ++ young) = (old, young) := by
  have hyoung : throughLast p young = ([], young) := by
    clear ho
    induction young with
    | nil => rfl
    | cons y young ih =>
      obtain ⟨hy, hys⟩ := List.forall_mem_cons.1 hy
      simp [throughLast, ih hys, hy]
  induction old with
  | nil => exact hyoung
  | cons x old ih =>
    obtain ho | ⟨z, hz, hp⟩ := ho
    · exact absurd ho (List.cons_ne_nil _ _)
    · cases old with
      | nil =>
        obtain rfl : x = z := by simpa using hz
        simp [throughLast, hyoung, hp]
      | cons y old =>
        have ih := ih (.inr ⟨z, by simpa using hz, hp⟩)
        rw [List.cons_append, throughLast, ih]
        rfl

theorem coalescedLineLeaves : CoalescedLineLeaves := by
  unfold CoalescedLineLeaves
  intro s core line mine old young hmine hyoung hold s'
  have hsplit : throughLast (fun o : Onward => o.lane.pa / 128 == line) mine = (old, young) := by
    rw [hmine]
    refine throughLast_append (fun o ho => beq_false_of_ne (hyoung o ho)) (hold.imp_right ?_)
    rintro ⟨o, ho, hline⟩
    exact ⟨o, ho, beq_iff_eq.2 hline⟩
  have hkept : mine.drop old.length = young := by rw [hmine, List.drop_left]
  change execCoalesceTimeout core line s = _
  rw [execCoalesceTimeout, hsplit, hkept]

/-- Settles O22: how a local store performs, and how a coalesced line leaves. -/
theorem storesPerformAndCoalesce : Obligations.StoresPerformAndCoalesce := ⟨localStorePerforms, coalescedLineLeaves⟩

end Sys2Proof.Machine
end

section
/-! The statement of spec/08_atomic_engine.md on the issue of atomics (R237 to R239, R243 to R246, R251). An atomic that is issued
names the cycle of its die, from which its latency counts (R408); the access that O23 states names cycle 0, as those of O15, O16
and O18 do. -/
namespace Sys2Proof.Machine
open Sys2Proof.Claims

variable {c : Cx} {i : Ins} {opc sel : Nat}

/-- The bytes that an atomic reads in one lane. -/
def atomicSize (opc : Nat) (i : Ins) : Nat := if opc = 0xA1 then 16 else tyBytes (ty i)

/-- The types of its results: a reduction has none, atom.cas.x2 two. -/
def atomicTys (opc : Nat) (i : Ins) : List Nat :=
  if 0xA4 ≤ opc then [] else if opc = 0xA1 then [ty i, ty i] else [ty i]

/-- The checks of its lanes, each of those that pass with its executing place. -/
def atomicChecks (c : Cx) (i : Ins) (opc : Nat) : Tried :=
  let glob := c.isGlobal i 0
  let q := c.tryLanes (lanesOf (c.lanes i)) (ptr c i glob) fun s a l =>
    if glob then s.checkAtomic c.core c.t.asid opc (memAcc i.attr).scope (atomicSize opc i) a l
    else (c.checkLocal (atomicSize opc i) (atomicSize opc i) a l, s)
  { q with lanes := q.lanes.map fun (l : AccLane) =>
      { l with place := c.s.placeCode c.core (!glob) (memAcc i.attr).scope l } }

/-- Its access, before it joins the flights: it carries the stream's tag and floor. -/
def atomicAcc (c : Cx) (i : Ins) (opc sel : Nat) : Acc :=
  { memAcc i.attr with
    kind := .atomic opc sel (ty i) i.attr.sxBit, isLocal := !c.isGlobal i 0, size := atomicSize opc i, tag := c.st.tag
    floor := (c.s.floorOf c.r).getD c.st.tag, link := if (memAcc i.attr).rel then some (c.s.streamRef c.r) else none }

/-- The operands of a lane after its pointer, each little-endian. -/
def atomicData (c : Cx) (i : Ins) (l : Nat) : List Byte :=
  ((List.range (i.src.length - 1)).map fun k => toBytes (tyBytes (ty i)) (c.arg i (k + 1) (tyBits (ty i)) l)).flatten

/-- The stream's next tag. -/
def Stream.nextTag (st : Stream) : Stream := { st with tag := st.tag + 1 }

/-- The access of an atomic as O23 states it. -/
abbrev atomicInFlight (c : Cx) (i : Ins) (opc sel : Nat) : Acc :=
  inFlight c i (atomicChecks c i opc) (atomicAcc c i opc sel) (atomicData c i) (atomicTys opc i)

theorem exec_of_mem_atomics {x : Instr} (h : (x, opc, sel) ∈ atomics i) (s : State) : exec x s = atomicOp opc sel i s := by
  have each : ∀ e ∈ atomics i, exec e.1 s = atomicOp e.2.1 e.2.2 i s := by
    simp only [atomics, List.forall_mem_cons]
    exact ⟨rfl, rfl, rfl, rfl, rfl, rfl, rfl, rfl, rfl, rfl, rfl, rfl, rfl, rfl, rfl, rfl, rfl, rfl, rfl, List.forall_mem_nil _⟩
  exact each _ h

/-- Without a fault, no place is named. -/
theorem Cx.launchAcc_place {q : Tried} (hb : q.bad = []) (m : BitVec 32) (a : Acc) (data : Nat → List Byte) (tys : List Nat)
    (kinds : Nat) (more : Stream → Stream) (place : Nat → Nat) :
    c.launchAcc i m q a data tys kinds more place = c.launchAcc i m q a data tys kinds more := by
  have hok : ¬ (q.bad != [] && !missFirst q.bad q.missed) = true := by simp [hb]
  rw [Cx.launchAcc, Cx.launchAcc, if_neg hok, if_neg hok]

theorem atomicOp_noLane (h : c.Runs) (hl : c.lanes i = 0) :
    atomicOp opc sel i c.s = .next (c.update fun st => (c.fallbacks i 0 (atomicTys opc i) st).retired) := by
  simp only [atomicOp, h.withCx, beq_iff_eq, hl]
  rfl

theorem atomicOp_full (h : c.Runs) (hl : c.lanes i ≠ 0) (hr : c.st.hasRoom 3 = false) :
    atomicOp opc sel i c.s = c.block (.room 3) := by
  rw [atomicOp, h.withCx, if_neg hl, hr]
  rfl

/-- The lanes of an atomic are checked, and it is issued or traps. -/
theorem atomicOp_checked (h : c.Runs) (hl : c.lanes i ≠ 0) (hr : c.st.hasRoom 3 = true) :
    atomicOp opc sel i c.s = c.launchAcc i (c.lanes i) (atomicChecks c i opc) (atomicAcc c i opc sel) (atomicData c i)
      (atomicTys opc i) kindAtomic Stream.nextTag
      fun va => c.s.placeAt c.core c.t.asid (!c.isGlobal i 0) (memAcc i.attr).scope va := by
  simp only [atomicOp, h.withCx, beq_iff_eq, if_neg hl, hr]
  rfl

theorem exec_atomic_issued {x : Instr} (hx : (x, opc, sel) ∈ atomics i) (h : c.Runs) (hl : c.lanes i ≠ 0)
    (hr : c.st.hasRoom 3 = true) (hb : (atomicChecks c i opc).bad = []) :
    exec x c.s = .next (issued c i (atomicChecks c i opc) (c.sent (atomicChecks c i opc) (atomicInFlight c i opc sel))
      (atomicTys opc i) kindAtomic Stream.nextTag) :=
  (exec_of_mem_atomics hx c.s).trans ((atomicOp_checked h hl hr).trans ((Cx.launchAcc_place hb ..).trans
    (Cx.launchAcc_passes hb)))

/-- What holds where O23 fails: its three cases, with the access as it is sent. -/
theorem exec_atomic {x : Instr} (hx : (x, opc, sel) ∈ atomics i) (h : c.Runs) :
    (c.lanes i ≠ 0 → c.st.hasRoom 3 = true → (atomicChecks c i opc).bad = [] →
      exec x c.s = .next (issued c i (atomicChecks c i opc) (c.sent (atomicChecks c i opc) (atomicInFlight c i opc sel))
        (atomicTys opc i) kindAtomic Stream.nextTag)) ∧
    (c.lanes i = 0 → exec x c.s = .next (c.update fun st => (c.fallbacks i 0 (atomicTys opc i) st).retired)) ∧
    (c.lanes i ≠ 0 → c.st.hasRoom 3 = false → exec x c.s = c.block (.room 3)) :=
  ⟨exec_atomic_issued hx h, fun hl => (exec_of_mem_atomics hx c.s).trans (atomicOp_noLane h hl),
    fun hl hr => (exec_of_mem_atomics hx c.s).trans (atomicOp_full h hl hr)⟩

/-- Refutes O23: as for O15, the access of an atomic that is issued names the cycle of its die. An atom.add of the word at 0 of
local memory on a die whose clock reads 1 tells the two states apart. -/
theorem not_atomicsAreIssued : ¬ Obligations.AtomicsAreIssued := by
  unfold Obligations.AtomicsAreIssued
  intro h
  have hx : (Instr.atomAdd wordAtZero, 0x98, 0) ∈ atomics wordAtZero := List.mem_cons_self
  have hl : tickedCx.lanes wordAtZero ≠ 0 := by decide
  have hb : (atomicChecks tickedCx wordAtZero 0x98).bad = [] := by decide +kernel
  obtain ⟨hissued, -, -⟩ := h wordAtZero _ _ _ hx ticked ⟨0, 0, 0⟩ soloTeam oneLane tickedCx_runs
  exact not_issued_without_cycle (exec_atomic_issued hx tickedCx_runs hl rfl hb) (by decide +kernel)
    (memAcc_cycle wordAtZero.attr) (by decide +kernel) (hissued hl rfl hb)

end Sys2Proof.Machine
end

section
/-! The statement of spec/08_atomic_engine.md on the new values of atomics (R240 to R242). -/
namespace Sys2Proof.Machine

variable {w t : Nat} {sx : Bool} {old v : Nat}

/-- The signed value of the low bits is that of the bit vector (R10). -/
theorem IntOps.sext_eq_toInt (w x : Nat) : IntOps.sext w x = (BitVec.ofNat w x).toInt := by
  rw [IntOps.sext, BitVec.toInt_eq_toNat_cond, BitVec.toNat_ofNat]
  cases w with
  | zero => simp [Nat.mod_one]
  | succ n =>
    have hhalf : x % 2 ^ (n + 1) < 2 ^ n ↔ 2 * (x % 2 ^ (n + 1)) < 2 ^ (n + 1) := by
      rw [Nat.pow_succ']
      omega
    simp only [Nat.succ_ne_zero, if_false, Nat.add_sub_cancel, hhalf]

/-- The first value is not above the second, under the signedness. -/
def notAbove (sx : Bool) (w a b : Nat) : Bool :=
  if sx then (BitVec.ofNat w a).sle (BitVec.ofNat w b) else decide (a ≤ b)

theorem IntOps.val_le_iff (ha : old < 2 ^ w) (hb : v < 2 ^ w) :
    IntOps.val sx w old ≤ IntOps.val sx w v ↔ notAbove sx w old v = true := by
  cases sx with
  | false => simp [IntOps.val, notAbove, Nat.mod_eq_of_lt ha, Nat.mod_eq_of_lt hb]
  | true => simp [IntOps.val, notAbove, IntOps.sext_eq_toInt, BitVec.sle_iff_toInt_le]

section
variable (hf : isFloatTy t = false) (ho : old < 2 ^ tyBits t) (hv : v < 2 ^ tyBits t)
include hf ho hv

theorem atomicMinmax_min : atomicMinmax false t sx old v = if notAbove sx (tyBits t) old v then old else v := by
  simp [atomicMinmax, hf, IntOps.min, IntOps.val_le_iff ho hv, Nat.mod_eq_of_lt ho, Nat.mod_eq_of_lt hv]

theorem atomicMinmax_max : atomicMinmax true t sx old v = if notAbove sx (tyBits t) v old then old else v := by
  simp [atomicMinmax, hf, IntOps.max, IntOps.val_le_iff hv ho, Nat.mod_eq_of_lt ho, Nat.mod_eq_of_lt hv]

end

/-- The operations on integers whose new value is always written, with their new values (R240, R241). -/
def integerAtomics (sx : Bool) (w old v : Nat) : List (Nat × Nat × Nat) :=
  let x := BitVec.ofNat w old
  let y := BitVec.ofNat w v
  let least := if notAbove sx w old v then old else v
  let greatest := if notAbove sx w v old then old else v
  [(0x98, 0, (x + y).toNat), (0xA4, 0, (x + y).toNat), (0x9A, 0, least), (0x9B, 0, greatest), (0xA7, 0, least),
   (0xA7, 1, greatest), (0x9C, 0, (x &&& y).toNat), (0xA6, 0, (x &&& y).toNat), (0x9D, 0, (x ||| y).toNat),
   (0xA6, 1, (x ||| y).toNat), (0x9E, 0, (x ^^^ y).toNat), (0xA6, 2, (x ^^^ y).toNat), (0x9F, 0, v),
   (0xA2, 0, if v ≤ old then 0 else old + 1), (0xA3, 0, if old = 0 ∨ v < old then v else old - 1)]

theorem atomicNew_of_mem_integerAtomics (hf : isFloatTy t = false) (ho : old < 2 ^ tyBits t) (hv : v < 2 ^ tyBits t) {opc sel n : Nat}
    (h : (opc, sel, n) ∈ integerAtomics sx (tyBits t) old v) : atomicNew opc sel t sx old [v] = some n := by
  have each : ∀ e ∈ integerAtomics sx (tyBits t) old v, atomicNew e.1 e.2.1 t sx old [v] = some e.2.2 := by
    have hx : (BitVec.ofNat (tyBits t) old).toNat = old := (BitVec.toNat_ofNat ..).trans (Nat.mod_eq_of_lt ho)
    have hy : (BitVec.ofNat (tyBits t) v).toNat = v := (BitVec.toNat_ofNat ..).trans (Nat.mod_eq_of_lt hv)
    have hsum : some ((old + v) % 2 ^ tyBits t) = some (BitVec.ofNat (tyBits t) old + BitVec.ofNat (tyBits t) v).toNat := by
      rw [← BitVec.ofNat_add, BitVec.toNat_ofNat]
    have hand : some (old &&& v) = some (BitVec.ofNat (tyBits t) old &&& BitVec.ofNat (tyBits t) v).toNat := by
      rw [BitVec.toNat_and, hx, hy]
    have hor : some (old ||| v) = some (BitVec.ofNat (tyBits t) old ||| BitVec.ofNat (tyBits t) v).toNat := by
      rw [BitVec.toNat_or, hx, hy]
    have hxor : some (old ^^^ v) = some (BitVec.ofNat (tyBits t) old ^^^ BitVec.ofNat (tyBits t) v).toNat := by
      rw [BitVec.toNat_xor, hx, hy]
    have hmin := congrArg some (atomicMinmax_min (sx := sx) hf ho hv)
    have hmax := congrArg some (atomicMinmax_max (sx := sx) hf ho hv)
    simp only [integerAtomics, List.forall_mem_cons]
    exact ⟨hsum, hsum, hmin, hmax, hmin, hmax, hand, hand, hor, hor, hxor, hxor, rfl, rfl, rfl, List.forall_mem_nil _⟩
  exact each _ h

/-- The float sum rounds to nearest even, in the format of its type. -/
theorem atomicNew_floatSum_f32 {opc : Nat} (h : opc = 0x99 ∨ opc = 0xA5) (a b : Nat) :
    atomicNew opc 0 tF32 sx a [b] = some (Fp.add Fp.f32 atomicEnv 0 a b).1 := by
  obtain rfl | rfl := h
  · rfl
  · rfl

/-- Settles O24: the operations that always write by their list; each of the others by its own equation. -/
theorem atomicNewValues : Obligations.AtomicNewValues := by
  unfold Obligations.AtomicNewValues
  intro t sx old v w2 hf _ ho hv w x y less more
  exact ⟨fun opc sel n h => atomicNew_of_mem_integerAtomics hf ho hv h, rfl, fun lo hi nlo nhi => if_pos rfl,
    fun a b opc h => atomicNew_floatSum_f32 h a b⟩

end Sys2Proof.Machine
end

section
/-! The statement of spec/08_atomic_engine.md on the requests of atomics (R240, R243, R247, R252, R253). -/
namespace Sys2Proof.Machine

variable {s : State} {id lane : Nat} {a : Acc} {l : AccLane}

/-- No lane of an access is to be sent again: none has been refused, and none waits for a fault's answer. -/
def Acc.Settled (a : Acc) : Prop := ∀ m ∈ a.lanes, m.stage ≠ .refused ∧ m.stage ≠ .mapped ∧ m.stage ≠ .denied

theorem State.resendAll_of_settled (h : s.acc? id = some a) (hs : a.Settled) : s.resendAll id = s := by
  have hnone (g : LaneStage) (hg : ∀ m ∈ a.lanes, m.stage ≠ g) : (a.lanes.filter fun m => m.stage == g) = [] := by
    simpa only [List.filter_eq_nil_iff, beq_iff_eq] using hg
  have hrefused := hnone .refused fun m hm => (hs m hm).1
  have hmapped := hnone .mapped fun m hm => (hs m hm).2.1
  have hdenied := hnone .denied fun m hm => (hs m hm).2.2
  have hreplay : s.replay id = s := by
    simp only [State.replay, h, hdenied, hmapped, ite_self]
  simp only [State.resendAll, hreplay, h, hrefused]

theorem State.releaseReady_of_not_rel (h : a.rel = false) (s : State) : s.releaseReady a = (s, true) := if_pos (by simp [h])

/-- The request of a lane has arrived at its place: nothing older keeps its access, no lower lane that names a common byte waits,
and it releases nothing. -/
structure State.Requests (s : State) (id lane : Nat) (a : Acc) (l : AccLane) : Prop where
  acc : s.acc? id = some a
  num : a.id = id
  atomic : a.isAtomic = true
  rel : a.rel = false
  settled : a.Settled
  sent : (a.lanes.find? fun m => m.lane == lane && m.stage == .sent) = some l
  clear : s.clear a = true
  first : a.lowerWaits l = false

/-- The state after the request's floor has freed what its requester has stored at the place. -/
def State.floored (s : State) (a : Acc) (l : AccLane) : State := s.freeBelow (s.placeUnit a l) (s.requester a l) a.floor

/-- The stage of a lane whose response goes out. -/
def Acc.ended (a : Acc) (l : AccLane) : LaneStage := if a.returns l then .applied else .done

section
variable (h : s.Requests id lane a l)
include h

theorem exec_atomicRequest_moving (hm : (s.floored a l).movingAt a l = true) :
    exec (.atomicRequest id lane) s = .next ((s.floored a l).setLane id { l with stage := .refused }) := by
  rw [State.floored] at hm
  change execAtomicRequest id lane s = _
  simp only [execAtomicRequest, State.resendAll_of_settled h.acc h.settled, h.acc, h.sent, h.atomic, h.clear, h.first,
    State.releaseReady_of_not_rel h.rel, hm, Bool.not_true, Bool.or_self, Bool.false_eq_true, if_false, if_true]
  rfl

theorem exec_atomicRequest_stored (hm : (s.floored a l).movingAt a l = false) {got : List Byte}
    (hg : (s.floored a l).storedResult a l = some got) :
    exec (.atomicRequest id lane) s = .next ((s.floored a l).setLane id { l with stage := a.ended l, got := got }) := by
  rw [State.floored] at hm hg
  change execAtomicRequest id lane s = _
  simp only [execAtomicRequest, State.resendAll_of_settled h.acc h.settled, h.acc, h.sent, h.atomic, h.clear, h.first,
    State.releaseReady_of_not_rel h.rel, hm, hg, Bool.not_true, Bool.or_self, Bool.false_eq_true, if_false]
  rfl

/-- The first request of a lane in local memory is applied there. -/
theorem exec_atomicRequest_first (hm : (s.floored a l).movingAt a l = false) (hg : (s.floored a l).storedResult a l = none)
    (hp : l.place ≤ 1) : exec (.atomicRequest id lane) s = .next ((s.floored a l).applyLane a l) := by
  rw [State.floored] at hm hg
  have hbank : ¬ (2 ≤ l.place ∧ l.place ≤ 3) := by omega
  have hhome : l.place ≠ 3 := by omega
  have hport : l.place ≠ 4 := by omega
  change execAtomicRequest id lane s = _
  simp only [execAtomicRequest, State.resendAll_of_settled h.acc h.settled, h.acc, h.sent, h.atomic, h.clear, h.first,
    State.releaseReady_of_not_rel h.rel, hm, hg, hbank, hhome, hport, Bool.not_true, Bool.or_self, Bool.false_eq_true, if_false,
    ← Bool.decide_and, decide_false, Bool.false_and]
  rfl

end

/-- The new value of a lane stands in memory, poisoned where a byte read is; a lane that writes nothing leaves memory alone. -/
def State.putNew (s : State) (a : Acc) (l : AccLane) (old : List Byte) (bad : Bool) : State :=
  match a.newValue l old with
  | some new => s.writeBytes l.pa new bad
  | none => s

/-- What a lane in local memory leaves: the new value, the stored result, and its own end (R240, R252). -/
theorem State.applyLane_local (hp : l.place ≤ 1) (hr : s.storeHasRoom (s.placeUnit a l) = true) :
    let old := s.bytesAt l.pa a.size
    let bad := s.anyPoison l.pa a.size
    s.applyLane a l = ((s.putNew a l old bad).storeResult a l (s.placeUnit a l) old).setLane a.id
      { l with stage := a.ended l, got := old, poison := bad, fate := if bad then 1 else 0, ref := s.refFound a l } := by
  intro old bad
  have hpeer : l.place ≠ 5 := by omega
  have hhome : l.place ≠ 3 := by omega
  have hread : s.placeRead a l = .bytes s old := if_pos hp
  have hwrite (new : List Byte) : s.placeWrite a l new bad = (s.writeBytes l.pa new bad, .done) := if_pos hp
  have hkeep : s.placeKeep a l = (s, .done) := if_neg fun h => hhome h.1
  simp only [State.applyLane, hpeer, hr, hp, decide_false, Bool.false_and, Bool.false_eq_true, Bool.not_true, if_false, if_true,
    hread]
  cases hn : a.newValue l old with
  | none => simp [hkeep, State.putNew, hn, Acc.ended, bad]
  | some new => simp [hwrite, State.putNew, hn, Acc.ended, bad]

/-- Settles O25: a request finds its page moving, its result stored, or neither, and is applied. -/
theorem atomicAppliesOnce : Obligations.AtomicAppliesOnce := by
  unfold Obligations.AtomicAppliesOnce
  intro s id lane a l hacc hid hatomic hrel hsettled hsent hclear hfirst f ended
  have h : s.Requests id lane a l := ⟨hacc, hid, hatomic, hrel, hsettled, hsent, hclear, hfirst⟩
  refine ⟨exec_atomicRequest_moving h, fun hm got => exec_atomicRequest_stored h hm, fun hm hg hp hr => ?_⟩
  have happly := (exec_atomicRequest_first h hm hg hp).trans (congrArg _ (State.applyLane_local hp hr))
  rw [hid] at happly
  exact happly

end Sys2Proof.Machine
end

section
/-! The statement of spec/08_atomic_engine.md on the ends of atomics (R245, R250, R252, R255, R390). -/
namespace Sys2Proof.Machine

variable {s : State} {id lane : Nat} {a : Acc} {l : AccLane}

/-! ### Results -/

/-- The access once the responses of its applied lanes have come back. -/
def State.repliedAcc (s : State) (id : Nat) (x : Acc) : Acc :=
  { x with lanes := x.lanes.map fun (l : AccLane) => l.replied (s.replyTo id l.lane) }

/-- The state once they have. -/
def State.replied (s : State) (id : Nat) (a : Acc) : State :=
  (s.modAcc id (s.repliedAcc id)).answered id ((a.lanes.filter fun l => l.stage == .applied).map AccLane.lane)

theorem State.acc?_replied (h : s.acc? id = some a) (hid : a.id = id) : (s.replied id a).acc? id = some (s.repliedAcc id a) :=
  State.acc?_modAcc (fun _ => rfl) h hid

/-- The results of a completed atomic and its poison marks reach the stream, and it leaves the flights. -/
def State.atomicDeliver (s : State) (a : Acc) : State :=
  (s.modStream a.ref fun st =>
    let st := deliverLoad a st
    { st with poisoned := st.poisoned ++ a.poisonMarks }).finishAcc a

section
variable (h : s.acc? id = some a) (hid : a.id = id) (hat : a.isAtomic = true) (hacq : a.acq = false)
  (hmsgs : s.fabric.msgs = [])
include h hid hat hacq hmsgs

/-- The responses come back; once all have, and the latency has passed, the atomic ends. -/
theorem exec_atomicResult :
    let b := s.repliedAcc id a
    let s' := s.replied id a
    exec (.atomicResult id) s = .next (if !b.completes || s'.early b (s'.atomicDue b) then s' else s'.atomicDeliver b) := by
  intro b s'
  have hreplies : ((s.acc? id).map s.repliesOf).getD s = s' := by
    rw [h, Option.map_some, Option.getD_some, State.repliesOf, hid]
    rfl
  have hacc : s'.acc? id = some b := State.acc?_replied h hid
  have hatomic : b.isAtomic = true := hat
  have hnone : b.acq = false := hacq
  have hdone : s'.acquireDone b = (s', true) := if_pos (by simp [hnone])
  change execAtomicResult id s = _
  simp only [execAtomicResult, State.takeAcks_of_no_msgs hmsgs, hreplies, hacc, hatomic, hdone, hnone, Bool.not_true, Bool.false_or,
    Bool.false_eq_true, if_false]
  split
  · rfl
  · rfl

theorem exec_atomicResult_waits (hw : (s.repliedAcc id a).completes = false ∨
    (s.replied id a).early (s.repliedAcc id a) ((s.replied id a).atomicDue (s.repliedAcc id a)) = true) :
    exec (.atomicResult id) s = .next (s.replied id a) :=
  (exec_atomicResult h hid hat hacq hmsgs).trans (congrArg _ (if_pos (by simpa using hw)))

theorem exec_atomicResult_ends (hc : (s.repliedAcc id a).completes = true)
    (he : (s.replied id a).early (s.repliedAcc id a) ((s.replied id a).atomicDue (s.repliedAcc id a)) = false) :
    exec (.atomicResult id) s = .next ((s.replied id a).atomicDeliver (s.repliedAcc id a)) :=
  (exec_atomicResult h hid hat hacq hmsgs).trans (congrArg _ (if_neg (by simp [hc, he])))

end

/-! ### The response of one lane -/

theorem AccLane.replied_good (h : l.stage = .applied) : l.replied .good = { l with stage := .done } :=
  if_neg (not_not_intro h)

theorem AccLane.replied_bad (h : l.stage = .applied) : l.replied .bad = { l with stage := .done, poison := true, fate := 1 } :=
  if_neg (not_not_intro h)

theorem AccLane.replied_of_not_applied (h : l.stage ≠ .applied) (rep : Reply) : l.replied rep = l := if_pos h

/-! ### The host's answers -/

section
variable (h : s.acc? id = some a)
  (hl : (a.lanes.find? fun l => l.lane == lane && l.stage == .round && l.place == 4) = some l)
include h hl

theorem exec_atomicopCompletion_refused : exec (.atomicopCompletion id lane .refused) s =
    .next (s.setLane id { l with stage := .done, poison := true, fate := 3 }) := by
  change execAtomicopCompletion id lane .refused s = _
  simp only [execAtomicopCompletion, h, hl]

/-- The host's old value comes back: the new value stands in host memory and in the core's L1, and the result is stored. -/
theorem exec_atomicopCompletion_done (words : List Nat) :
    let old := (words.map fun w => toBytes 8 w).flatten.take a.size
    let s' := (s.putNew a l old false).modCore (coreOf a.ref) fun k => k.l1Update l.pa ((a.newValue l old).getD old)
    exec (.atomicopCompletion id lane (.done words)) s =
      .next ((s'.storeResult a l (s'.placeUnit a l) old).setLane id { l with stage := .done, got := old }) := by
  change execAtomicopCompletion id lane (.done words) s = _
  simp only [execAtomicopCompletion, h, hl]
  rfl

end

/-! ### Timeouts of the host -/

theorem Acc.isAtomic_of_isLoad (ha : a.isLoad = true) : a.isAtomic = false := by
  simp only [Acc.isLoad] at ha
  split at ha
  next hk => simp [Acc.isAtomic, hk]
  next => exact absurd ha (by decide)

section
variable (h : s.acc? id = some a)
  (hl : (a.lanes.find? fun l => l.lane == lane && l.loc == 2 && l.placed && l.stage != .done) = some l)
include h hl

theorem exec_pcieCompletionTimeout_atomic (ha : a.isAtomic = true) (hr : l.stage = .round) :
    exec (.pcieCompletionTimeout id lane) s =
      .next (s.setLane id { l with stage := .done, poison := true, fate := 2 }) := by
  change execPcieCompletionTimeout id lane s = _
  simp only [execPcieCompletionTimeout, h, hl, ha, hr, if_true]

theorem exec_pcieCompletionTimeout_load (ha : a.isLoad = true) :
    exec (.pcieCompletionTimeout id lane) s = .next (s.takeTrap a.ref
      { stream := a.ref.idx, code := 0x29, pos := a.pos, value := l.va, lanes := maskOfList [lane] }) := by
  change execPcieCompletionTimeout id lane s = _
  simp only [execPcieCompletionTimeout, h, hl, ha, Acc.isAtomic_of_isLoad ha, Bool.false_eq_true, if_false, if_true]

end

/-! ### Free notices -/

/-- The stored results of a requester that lie before its floor are dropped (R252). -/
theorem exec_freeNotice {r : StreamRef} {f : BitVec 16} (h : s.floorOf r = some f) :
    exec (.freeNotice r) s = .next { s with results := s.results.filter fun (e : ResultEntry) =>
      !(e.dev == s.fabric.devid.toNat && e.ref == r && floorBeyond f e.tag) } := by
  change execFreeNotice r s = _
  simp only [execFreeNotice, h]

/-- Settles O26: each way in which an atomic ends has its own equation. -/
theorem atomicResultsAndCompletions : Obligations.AtomicResultsAndCompletions := by
  unfold Obligations.AtomicResultsAndCompletions
  refine ⟨fun s id a h hid hat hacq hmsgs => ?results, fun l => ?response, fun s id lane a l h hl => ?host,
    fun s id lane a l h hl => ?timeout, fun s r f => exec_freeNotice⟩
  case results => exact ⟨exec_atomicResult_waits h hid hat hacq hmsgs, exec_atomicResult_ends h hid hat hacq hmsgs⟩
  case response =>
    exact ⟨fun ha => ⟨AccLane.replied_good ha, AccLane.replied_bad ha⟩, AccLane.replied_of_not_applied⟩
  case host => exact ⟨exec_atomicopCompletion_refused h hl, exec_atomicopCompletion_done h hl⟩
  case timeout => exact ⟨exec_pcieCompletionTimeout_atomic h hl, exec_pcieCompletionTimeout_load h hl⟩

end Sys2Proof.Machine
end

section
/-! The statements of spec/09_exchange_engine.md on exchanges of one value (R259, R262 to R267, R273). -/
namespace Sys2Proof.Machine
open Sys2Proof.Claims

variable {x : Instr} {opc : Nat} {i : Ins} {tys : List Nat}

/-! ### The participating lanes -/

/-- An exchange is a lane-wise instruction whose lanes read the list of all that take part. -/
theorem exchangewise_eq_lanewise (opc : Nat) (i : Ins) (s : State) (tys : List Nat) (f : Cx → List Nat → Nat → LaneOut) :
    exchangewise opc i s tys f = lanewise opc i s tys fun c l => f c (parts c i) l := rfl

theorem lane_of_exchangewise {f : Cx → List Nat → Nat → LaneOut} {g : Cx → Nat → LaneOut}
    (hx : ∀ s, exec x s = exchangewise opc i s tys f) (hf : ∀ c l, f c (parts c i) l = g c l) : Lane x opc i tys g := by
  rintro s r t st ⟨hc, ht, hs⟩ hn
  have hf : (fun c l => f c (parts c i) l) = g := funext fun c => funext (hf c)
  rw [hx, exchangewise_eq_lanewise, hf, lanewise_runs opc i tys g hc ht hs hn]

/-- An exchange that raises no exception gives a next state always. -/
theorem plain_of_exchangewise {f : Cx → List Nat → Nat → LaneOut} {g : Cx → Nat → List Nat}
    (hx : ∀ s, exec x s = exchangewise opc i s tys f) (hf : ∀ c l, f c (parts c i) l = { vals := g c l }) :
    Plain x opc i tys g := by
  rintro s r t st ⟨hc, ht, hs⟩
  have hf : (fun c l => f c (parts c i) l) = fun c l => { vals := g c l } := funext fun c => funext (hf c)
  rw [hx, exchangewise_eq_lanewise, hf, lanewise_plain opc i tys g hc ht hs]

theorem gather_eq_bitsWhere (c : Cx) (i : Ins) (p : Nat → Bool) : gather (parts c i) p = bitsWhere c i p := by
  have adds : ∀ (ls : List Nat) (n : Nat), (ls.filter p).foldl (fun n l => n + 2 ^ l) n =
      n + (ls.map fun l => if p l then 2 ^ l else 0).sum := by
    intro ls
    induction ls with
    | nil => exact fun _ => rfl
    | cons l ls ih =>
      intro n
      cases hp : p l <;> simp [hp, ih, Nat.add_assoc]
  exact (adds _ 0).trans (Nat.zero_add _)

theorem gather_filter (ls : List Nat) (p : Nat → Bool) : gather (ls.filter p) (fun _ => true) = gather ls p := by
  rw [gather, List.filter_eq_self.2 fun _ _ => rfl, gather]

/-! ### Ballots, votes and election -/

/-- The modes of vote (Table 9.5). -/
theorem voteOf_eq_true_iff (mode t n : Nat) : voteOf mode t n = true ↔
    (mode = 0 ∧ 0 < t) ∨ (mode = 1 ∧ t = n) ∨ (mode = 2 ∧ (t = 0 ∨ t = n)) ∨ (mode = 3 ∧ t = 0) ∨
      (mode = 4 ∧ t % 2 = 1) ∨ (5 ≤ mode ∧ n < 2 * t) := by
  match mode with
  | 0 | 1 | 2 | 3 | 4 => simp [voteOf, Nat.succ_le_iff]
  | m + 5 => simp [voteOf]

theorem ballotsAndVotes : BallotsAndVotes := by
  unfold BallotsAndVotes
  intro i
  refine ⟨plain_of_exchangewise (fun s => show execBallot i s = _ from rfl) fun c l => ?ballot,
    plain_of_exchangewise (fun s => show execBallotAt i s = _ from rfl) fun c l => ?ballotAt,
    plain_of_exchangewise (fun s => show execBallotCol i s = _ from rfl) fun c l => ?ballotCol,
    plain_of_exchangewise (fun s => show execVote i s = _ from rfl) fun c l => ?vote,
    plain_of_exchangewise (fun s => show execElect i s = _ from rfl) fun c l => ?elect,
    plain_of_exchangewise (fun s => show execRsCnt i s = _ from rfl) fun c l => ?rsCnt⟩
  case ballot => rw [gather_eq_bitsWhere]
  case ballotAt => rw [gather_eq_bitsWhere]; rfl
  case ballotCol => simp only [gather_eq_bitsWhere, Nat.testBit_eq_decide_div_mod_eq]; rfl
  case vote => simp only [← voteOf_eq_true_iff, Bool.toNat, Bool.cond_eq_ite]
  case elect => simp only [Bool.toNat, Bool.cond_eq_ite, beq_iff_eq]; rfl
  case rsCnt => rfl

/-! ### Shuffles, butterflies and matches -/

theorem shflSource_eq (mode l n : Nat) : shflSource mode l n =
    if mode = 0 then (n : Int) else if mode = 1 then (l : Int) - n else if mode = 2 then (l : Int) + n else (l ^^^ n : Nat) := by
  match mode with
  | 0 | 1 | 2 => rfl
  | m + 3 => rfl

/-- shfl and shfl# differ in their opcode alone. -/
theorem exec_shuffle (h : (x, opc) = (Instr.shfl i, 0xAA) ∨ (x, opc) = (.shflImm i, 0xB4)) (s : State) :
    exec x s = shuffle opc i s := by
  obtain h | h := h
  · obtain ⟨rfl, rfl⟩ := Prod.mk.inj h
    rfl
  · obtain ⟨rfl, rfl⟩ := Prod.mk.inj h
    rfl

/-- bfly and bfly# differ in their opcode alone. -/
theorem exec_butterfly (h : (x, opc) = (Instr.bfly i, 0xAB) ∨ (x, opc) = (.bflyImm i, 0xB5)) (s : State) :
    exec x s = butterfly opc i s := by
  obtain h | h := h
  · obtain ⟨rfl, rfl⟩ := Prod.mk.inj h
    rfl
  · obtain ⟨rfl, rfl⟩ := Prod.mk.inj h
    rfl

theorem shufflesAndMatches : ShufflesAndMatches := by
  unfold ShufflesAndMatches
  intro i
  refine ⟨fun x opc h => plain_of_exchangewise (exec_shuffle h) fun c l => ?shuffle,
    fun x opc h => plain_of_exchangewise (exec_butterfly h) fun c l => ?butterfly,
    plain_of_exchangewise (fun s => show execMatchLanes i s = _ from rfl) fun c l => ?matched⟩
  case shuffle =>
    have h31 (z : Int) : z ≤ 31 ↔ z < 32 := Int.lt_add_one_iff.symm
    simp only [← shflSource_eq, h31, List.contains_iff_mem, apply_ite (c.arg i 0 (tyBits (ty i)))]
  case butterfly =>
    simp only [Nat.testBit_eq_decide_div_mod_eq, decide_eq_true_iff, List.contains_iff_mem,
      apply_ite (c.arg i 0 (tyBits (ty i)))]
    rfl
  case matched =>
    match i.attr.low with
    | 0 => simp only [gather_filter, gather_eq_bitsWhere, if_true]
    | 1 => simp [List.length_filter_eq_length_iff, gather_eq_bitsWhere]
    | n + 2 => simp [lowest]

/-- Settles O27: ballots, votes and election; shuffles, butterflies and matches. -/
theorem ballotsVotesShufflesAndMatches : Obligations.BallotsVotesShufflesAndMatches := ⟨ballotsAndVotes, shufflesAndMatches⟩

end Sys2Proof.Machine
end

section
/-! The statements of spec/09_exchange_engine.md on reductions and scans (R268, R269). -/
namespace Sys2Proof.Machine
open Sys2Proof.Claims

/-! ### The bits of an integer -/

theorem IntOps.natCast_two_pow (w : Nat) : ((2 ^ w : Nat) : Int) = 2 ^ w := Int.natCast_pow 2 w

theorem IntOps.wrap_eq (w : Nat) (v : Int) : wrap w v = (v % 2 ^ w).toNat := by rw [wrap, natCast_two_pow]

theorem IntOps.wrap_natCast (w x : Nat) : wrap w x = x % 2 ^ w := by rw [wrap, ← Int.natCast_emod, Int.toNat_natCast]

theorem IntOps.val_eq (sx : Bool) (w x : Nat) : val sx w x = if sx then sext w x else (x : Int) % 2 ^ w := by
  rw [val, Int.natCast_emod, natCast_two_pow]

/-- A value stands for the bits it was read from, whatever the signedness. -/
theorem IntOps.wrap_val (w : Nat) (sx : Bool) (x : Nat) : wrap w (val sx w x) = x % 2 ^ w := by
  have hbits : wrap w (x % 2 ^ w : Nat) = x % 2 ^ w := (wrap_natCast w _).trans (Nat.mod_mod ..)
  cases sx with
  | false => exact hbits
  | true =>
    change wrap w (sext w x) = _
    rw [sext]
    split
    next h => simp [wrap, h, Nat.mod_one]
    next =>
      split
      next => exact hbits
      next => rwa [wrap, Int.sub_emod_right]

/-! ### Reductions of integers -/

theorem combInt_min (w : Nat) : combInt 1 w = min := funext fun x => funext fun y => (Int.min_def x y).symm

theorem combInt_max (w : Nat) : combInt 2 w = max :=
  funext fun x => funext fun y => (Int.max_def y x).symm.trans (Int.max_comm y x)

theorem identInt_min (sx : Bool) (w : Nat) : identInt 1 sx w = if sx then 2 ^ (w - 1) - 1 else 2 ^ w - 1 := by
  simp only [identInt, IntOps.natCast_two_pow]

theorem identInt_max (sx : Bool) (w : Nat) : identInt 2 sx w = if sx then -2 ^ (w - 1) else 0 := by
  simp only [identInt, IntOps.natCast_two_pow]

/-- A sum is exact: nothing clamps on the way (R268). -/
theorem foldl_combInt_sum (w : Nat) (v : Nat → Int) (ls : List Nat) (x : Int) :
    ls.foldl (fun x k => combInt 0 w x (v k)) x = x + (ls.map v).sum := by
  induction ls generalizing x with
  | nil => exact (Int.add_zero x).symm
  | cons l ls ih => exact (ih _).trans (by simp [combInt, Int.add_assoc])

/-- The bitwise steps of a reduction act on the bits of the values. -/
theorem wrap_foldl_bitwise {w : Nat} {g : Nat → Nat → Nat} (hg : ∀ x y, g x y % 2 ^ w = g (x % 2 ^ w) (y % 2 ^ w))
    {v : Nat → Int} {a : Nat → Nat} (hv : ∀ k, IntOps.wrap w (v k) = a k % 2 ^ w) (ls : List Nat) {x : Int} {y : Nat}
    (hx : IntOps.wrap w x = y % 2 ^ w) :
    IntOps.wrap w (ls.foldl (fun x k => (g (IntOps.wrap w x) (IntOps.wrap w (v k)) : Nat)) x) =
      ls.foldl (fun y k => g y (a k)) y % 2 ^ w := by
  induction ls generalizing x y with
  | nil => exact hx
  | cons l ls ih =>
    refine ih ?_
    rw [IntOps.wrap_natCast, hx, hv, ← hg, Nat.mod_mod]

/-- The lanes that a scan combines: those up to lane `l`, or below it under .excl. -/
theorem scanTest_eq (k l e : Nat) : (decide (k < l) || k == l && e != 1) = if e = 1 then decide (k < l) else decide (k ≤ l) := by
  split
  next h => simp [h]
  next h =>
    rw [Bool.eq_iff_iff]
    simp only [Bool.or_eq_true, Bool.and_eq_true, decide_eq_true_iff, beq_iff_eq, bne_iff_ne]
    omega

/-- Settles O28: the values combine as each operation says, over all participating lanes or over those of the scan. -/
theorem integerReductionsAndScans : Obligations.IntegerReductionsAndScans := by
  unfold Obligations.IntegerReductionsAndScans
  intro i w v most least bits value
  have combined : ∀ c op ls, c.combine i op ls = value c op ls := by
    intro c op ls
    have hv : v c = fun l => IntOps.val i.attr.sxBit w (c.arg i 0 w l) := funext fun l => (IntOps.val_eq ..).symm
    have hw : ∀ l, IntOps.wrap w (IntOps.val i.attr.sxBit w (c.arg i 0 w l)) = c.arg i 0 w l % 2 ^ w :=
      fun _ => IntOps.wrap_val ..
    match op, ls with
    | 0, [] => rfl
    | 0, l :: ls => simp only [Cx.combine, foldl_combInt_sum, value, hv, List.map_cons, List.sum_cons]; rfl
    | 1, [] => simp only [Cx.combine, identInt_min]; exact IntOps.wrap_eq ..
    | 1, l :: ls => simp only [Cx.combine, combInt_min, value, hv]; exact IntOps.wrap_eq ..
    | 2, [] => simp only [Cx.combine, identInt_max]; exact IntOps.wrap_eq ..
    | 2, l :: ls => simp only [Cx.combine, combInt_max, value, hv]; exact IntOps.wrap_eq ..
    | 3, [] | 4, [] | n + 5, [] => exact IntOps.wrap_natCast _ 0
    | 3, l :: ls => exact wrap_foldl_bitwise (fun _ _ => Nat.and_mod_two_pow) hw ls (hw l)
    | 4, l :: ls => exact wrap_foldl_bitwise (fun _ _ => Nat.or_mod_two_pow) hw ls (hw l)
    | n + 5, l :: ls => exact wrap_foldl_bitwise (fun _ _ => Nat.xor_mod_two_pow) hw ls (hw l)
  refine ⟨plain_of_exchangewise (fun s => show execGred i s = _ from rfl) fun c l => ?gred,
    plain_of_exchangewise (fun s => show execGscan i s = _ from rfl) fun c l => ?gscan⟩
  case gred => rw [combined]
  case gscan => simp only [combined, scanTest_eq]

/-! ### Reductions of floats -/

/-- Settles O29: the tree begins with the values of the participating lanes and the invalid exceptions of their signalling NaNs. -/
theorem floatReductionsAndScans : Obligations.FloatReductionsAndScans := by
  unfold Obligations.FloatReductionsAndScans
  intro i
  refine ⟨lane_of_exchangewise (fun s => show execGredFloat i s = _ from rfl) fun c l => ?gred,
    lane_of_exchangewise (fun s => show execGscanFloat i s = _ from rfl) fun c l => ?gscan⟩
  case gred => simp only [Cx.snans, List.contains_iff_mem]
  case gscan => rfl

end Sys2Proof.Machine
end

section
/-! The statements of spec/09_exchange_engine.md on record streams and regroup (R270 to R272, R274). -/
namespace Sys2Proof.Machine
open Sys2Proof.Claims

variable {c : Cx} {i : Ins}

/-- An instruction whose lanes raise nothing writes what they give. -/
theorem Cx.finish_next {outs : List (Nat × LaneOut)} (h : ∀ o ∈ outs, o.2.flags = 0) (opc : Nat) (i : Ins) (tys : List Nat)
    (m : BitVec 32) : c.finish opc i tys m outs = .next (c.update (c.written opc i tys m outs)) := by
  rw [Cx.finish, c.trapping_nil outs h, if_pos rfl]

/-! ### Record streams -/

/-- The record stream that the instruction names. -/
def Cx.namedRecs (c : Cx) (i : Ins) : RecordStream := c.t.rs (i.attr.low % 4)

/-- The state with the named record stream replaced. -/
def Cx.setNamedRecs (c : Cx) (i : Ins) (x : RecordStream) : State := c.s.modTeam c.core fun t => t.setRs (i.attr.low % 4) x

/-! ### Pushes -/

/-- The participating lanes that push. -/
def Cx.pushingLanes (c : Cx) (i : Ins) : List Nat := (parts c i).filter fun l => c.arg i 0 1 l == 1

theorem exec_rsPush (h : c.Runs) (hr : (c.namedRecs i).recs.length + (c.pushingLanes i).length ≤ 1024) :
    exec (.rsPush i) c.s = .next ((c.setNamedRecs i { c.namedRecs i with
      recs := (c.namedRecs i).recs ++ (c.pushingLanes i).map fun l =>
        ⟨BitVec.ofNat 64 (c.arg i 1 (tyBits (ty i)) l), c.r.idx, some (c.s.streamRef c.r)⟩ }).modStream c.r Stream.retired) := by
  change execRsPush i c.s = _
  rw [execRsPush, h.withCx]
  exact if_pos hr

theorem exec_rsPush_waits (h : c.Runs) (hr : 1024 < (c.namedRecs i).recs.length + (c.pushingLanes i).length) :
    exec (.rsPush i) c.s = c.block (.rsPush (i.attr.low % 4) (c.pushingLanes i).length) := by
  change execRsPush i c.s = _
  rw [execRsPush, h.withCx]
  exact if_neg (Nat.not_le.2 hr)

/-! ### Pops -/

/-- What each participating lane receives when `m` records are taken. -/
def Cx.popOuts (c : Cx) (i : Ins) (m : Nat) : List (Nat × LaneOut) :=
  (parts c i).zipIdx.map fun p => (p.1, match (if p.2 < m then (c.namedRecs i).recs[p.2]? else none) with
    | some q => { vals := [q.bits.toNat % 2 ^ tyBits (ty i), 1] }
    | none => { vals := [0, 0] })

theorem Cx.popOuts_flags (c : Cx) (i : Ins) (m : Nat) : ∀ o ∈ c.popOuts i m, o.2.flags = 0 := by
  simp only [Cx.popOuts, List.forall_mem_map]
  intro p _
  split <;> rfl

/-- The state in which `m` records have been taken, and a link recorded where there are any. -/
def Cx.afterPop (c : Cx) (i : Ins) (m : Nat) : State :=
  let s := c.setNamedRecs i
    { recs := (c.namedRecs i).recs.drop m, waiting := (c.namedRecs i).waiting.filter fun j => j != c.r.idx }
  if m = 0 then s else s.streamLink c.r 0x08 (i.attr.low % 4) 0 (((c.namedRecs i).recs[m - 1]?).bind RsRecord.link) none

theorem Cx.popRecords_eq (c : Cx) (i : Ins) (m : Nat) :
    c.popRecords i (i.attr.low % 4) (c.lanes i) m (c.namedRecs i) = .next ((c.afterPop i m).modStream c.r
      ({ c with s := c.afterPop i m }.written 0xB0 i [ty i, tI1] (c.lanes i) (c.popOuts i m))) :=
  Cx.finish_next (c := { c with s := c.afterPop i m }) (c.popOuts_flags i m) ..

theorem exec_rsPop_partial (h : c.Runs) (hp : i.attr.low / 4 = 1) :
    exec (.rsPop i) c.s = c.popRecords i (i.attr.low % 4) (c.lanes i)
      (if (c.namedRecs i).waiting = [] then min (parts c i).length (c.namedRecs i).recs.length else 0) (c.namedRecs i) := by
  change execRsPop i c.s = _
  rw [execRsPop, h.withCx]
  exact if_pos hp

/-- The streams whose full pops wait, with this one. -/
def Cx.popQueue (c : Cx) (i : Ins) : List Nat :=
  if (c.namedRecs i).waiting.contains c.r.idx then (c.namedRecs i).waiting else (c.namedRecs i).waiting ++ [c.r.idx]

theorem Cx.head_popQueue (hw : (c.namedRecs i).waiting = [] ∨ (c.namedRecs i).waiting.head? = some c.r.idx) :
    (c.popQueue i).head? = some c.r.idx := by
  obtain hw | hw := hw
  · simp [Cx.popQueue, hw]
  · simpa [Cx.popQueue, List.mem_of_head? hw] using hw

theorem Cx.popQueue_of_not_mem (hw : c.r.idx ∉ (c.namedRecs i).waiting) :
    c.popQueue i = (c.namedRecs i).waiting ++ [c.r.idx] := by
  rw [Cx.popQueue, if_neg (by simpa using hw)]

/-- A full pop takes its records when it is the first that waits and enough stand there. -/
theorem exec_rsPop_full (h : c.Runs) (hp : i.attr.low / 4 ≠ 1) (h0 : 0 < (parts c i).length) :
    exec (.rsPop i) c.s =
      if (c.popQueue i).head? = some c.r.idx ∧ (parts c i).length ≤ (c.namedRecs i).recs.length then
        c.popRecords i (i.attr.low % 4) (c.lanes i) (parts c i).length (c.namedRecs i)
      else { c with s := c.setNamedRecs i { c.namedRecs i with waiting := c.popQueue i } }.block
        (.rsPop (i.attr.low % 4) (parts c i).length) := by
  change execRsPop i c.s = _
  rw [execRsPop, h.withCx]
  exact (if_neg hp).trans (if_neg (Nat.ne_of_gt h0))

/-- Settles O30: pushes, with room and without; partial pops; full pops that take records and those that wait. -/
theorem recordStreams : Obligations.RecordStreams := by
  unfold Obligations.RecordStreams
  intro i s r t st h c k x w set pushing n take
  have h : c.Runs := h
  have hpop (m : Nat) : c.popRecords i k (c.lanes i) m x = .next (take m) := c.popRecords_eq i m
  refine ⟨exec_rsPush h, exec_rsPush_waits h, fun hp => (exec_rsPop_partial h hp).trans (hpop _),
    fun hp h0 hn hw => ?full, fun hp h0 hn hw => ?waits⟩
  case full =>
    have hfirst : (c.popQueue i).head? = some c.r.idx ∧ n ≤ x.recs.length := ⟨Cx.head_popQueue hw, hn⟩
    exact ((exec_rsPop_full h hp h0).trans (if_pos hfirst)).trans (hpop n)
  case waits =>
    have hfew : ¬ ((c.popQueue i).head? = some c.r.idx ∧ n ≤ x.recs.length) := fun hd => Nat.not_le.2 hn hd.2
    refine ((exec_rsPop_full h hp h0).trans (if_neg hfew)).trans ?_
    rw [Cx.popQueue_of_not_mem hw, Cx.block, Cx.update, Cx.setNamedRecs, State.modTeam_now]
    rfl

/-! ### Regroup -/

/-- The arrival of the stream at regroup. -/
def Cx.regroupArrival (c : Cx) (i : Ins) : RegroupArrival :=
  { group := c.r.idx, lanes := c.lanes i, named := BitVec.ofNat 32 (c.arg i 1 32 c.lead), pos := ⟨c.st.func, c.st.off⟩
    keys := (List.range 32).map fun l => BitVec.ofNat 64 (c.arg i 0 32 l), compact := i.attr.low == 1 }

/-- A group that may arrive joins the generation and waits; the generation completes once every member is there. -/
theorem exec_regroup_arrives (h : c.Runs) (hm : c.st.mark = none) (hq : c.st.quiet = true)
    (hg : c.t.regroup.arrived = [] ∨ c.r.idx ∈ c.t.regroupMembers) :
    exec (.regroup i) c.s = .next (((c.update fun st =>
      { st.blocked c.s.now (.regroup c.t.regroup.gen) with mark := some (.regroup c.t.regroup.gen) }).modTeam c.core fun u =>
        { u with regroup := { u.regroup with
            arrived := u.regroup.arrived ++ [c.regroupArrival i]
            last := some (c.s.arrival c.r c.t.regroup.last) } }).regroupCheck c.core) := by
  have hgo : (!c.st.quiet || (c.t.regroup.arrived != [] && !c.t.regroupMembers.contains c.r.idx)) = false := by
    obtain hg | hg := hg <;> simp [hq, hg]
  change execRegroup i c.s = _
  simp only [execRegroup, h.withCx, hm, hgo, Bool.false_eq_true, if_false]
  rfl

/-- The positions that the lanes came from, as the generation noted them for the group. -/
def Cx.regroupOuts (c : Cx) (i : Ins) : List (Nat × LaneOut) :=
  (parts c i).map fun l => (l, { vals := [((((c.t.regroup.results.lookup c.r.idx).getD [])[l]?).getD 0).toNat] })

theorem Cx.regroupOuts_flags (c : Cx) (i : Ins) : ∀ o ∈ c.regroupOuts i, o.2.flags = 0 :=
  List.forall_mem_map.2 fun _ _ => rfl

/-- The state with the link of the generation's end. -/
def Cx.regroupLinked (c : Cx) : State := c.s.streamLink c.r 0x09 0 0 (c.st.prod.map Prod.fst) (c.st.prod.map Prod.snd)

theorem exec_regroup_over (h : c.Runs) {gen : BitVec 32} (hm : c.st.mark = some (.regroup gen)) (hg : gen ≠ c.t.regroup.gen) :
    exec (.regroup i) c.s =
      if c.st.active = 0 then .next (c.regroupLinked.modStream c.r fun st => st.resume.branched)
      else { c with s := c.regroupLinked }.finish 0xB1 i [tI32] (c.lanes i) (c.regroupOuts i) := by
  change execRegroup i c.s = _
  simp only [execRegroup, h.withCx, hm, if_neg hg.symm]
  rfl

/-- Settles O31: the arrival; the return of the positions, or the next path where no lane is left. -/
theorem regroupArrivesAndReturns : Obligations.RegroupArrivesAndReturns := by
  unfold Obligations.RegroupArrivesAndReturns
  intro i s r t st h c
  have h : c.Runs := h
  refine ⟨exec_regroup_arrives h, fun gen hm hg => ?_⟩
  have hover := exec_regroup_over (i := i) h hm hg
  refine ⟨fun ha => hover.trans (if_pos ha), fun ha => (hover.trans (if_neg ha)).trans ?_⟩
  exact Cx.finish_next (c := { c with s := c.regroupLinked }) (c.regroupOuts_flags i) ..

end Sys2Proof.Machine
end

section
/-! The statement of spec/11_matrix_engine.md on the matrix instructions (R302, R310, R315 to R325, R329). -/
namespace Sys2Proof.Machine
open Sys2Proof.Claims

variable {c : Cx} {i : Ins}

/-! ### Tiles and entries -/

theorem Cx.withTiles_exist {tiles : List Nat} (h : ∀ k ∈ tiles, k ≤ 11) (go : Out) : c.withTiles tiles go = go :=
  if_neg (by simpa using h)

theorem Cx.withTiles_traps {tiles : List Nat} (h : ∃ k ∈ tiles, 11 < k) (go : Out) : c.withTiles tiles go = c.trap 0x41 :=
  if_pos (by simpa using h)

/-- MXQ has an entry free, and MX can rise (R22, R27). -/
def Cx.EntryFree (c : Cx) : Prop := c.st.hasRoom 5 = true ∧ c.t.matrix.queue.length < 32

theorem Cx.withEntry_free (h : c.EntryFree) (go : Out) : c.withEntry go = go := by
  obtain ⟨hroom, hlen⟩ := h
  rw [Cx.withEntry, hroom]
  exact if_neg (Nat.not_le.2 hlen)

theorem Cx.withEntry_full (hr : c.st.hasRoom 5 = true) (hl : 32 ≤ c.t.matrix.queue.length) (go : Out) :
    c.withEntry go = c.block (.engineRoom 2) := by
  rw [Cx.withEntry, hr]
  exact if_pos hl

/-- The entry's release covers all 32 lanes (R325). -/
theorem Cx.queued_eq_enqueued (c : Cx) (op : MxOp) (push pop : Bool) : c.queued op push pop = enqueued c op push pop := by
  have hall : lanesOf (BitVec.allOnes 32) = List.range 32 := by decide
  simp only [Cx.queued, Cx.issueRelease, Cx.fenceOf, hall]
  rfl

/-! ### Commands without a result -/

/-- A command joins MXQ, and the stream moves on. -/
def Cx.joinsMxq (c : Cx) (op : MxOp) (push pop : Bool) : Out := .next (moveOn (enqueued c op push pop) c.r)

theorem mxCommand_performed (h : c.Runs) (hp : c.performs i = true) (opc : Nat) (tiles : Cx → List Nat) (push pop : Bool)
    (op : Cx → MxOp) :
    mxCommand opc i c.s tiles push pop op = c.withTiles (tiles c) (c.withEntry (c.joinsMxq (op c) push pop)) := by
  rw [mxCommand, h.withCx, hp, Cx.queued_eq_enqueued]
  rfl

/-- Each command of the list checks its tiles, finds an entry, and joins MXQ. -/
theorem exec_of_mem_matrixCommands {x : Instr} {tiles : List Nat} {push pop : Bool} {op : MxOp} (h : c.Runs)
    (hp : c.performs i = true) (hx : (x, tiles, push, pop, op) ∈ matrixCommands c i) :
    exec x c.s = c.withTiles tiles (c.withEntry (c.joinsMxq op push pop)) := by
  have hm := mxCommand_performed h hp
  have each : ∀ e ∈ matrixCommands c i,
      exec e.1 c.s = c.withTiles e.2.1 (c.withEntry (c.joinsMxq e.2.2.2.2 e.2.2.1 e.2.2.2.1)) := by
    simp only [matrixCommands, List.forall_mem_cons]
    exact ⟨(hm .. : execMxNest i c.s = _), (hm .. : execMxGo i c.s = _), (hm .. : execMxZero i c.s = _),
      (hm .. : execMxLoad i c.s = _), (hm .. : execMxStore i c.s = _), (hm .. : execMxMma i c.s = _),
      (hm .. : execMxConf i c.s = _), (hm .. : execMxSclay i c.s = _), (hm .. : execMxTcopy i c.s = _),
      (hm .. : execMxTadd i c.s = _), List.forall_mem_nil _⟩
  exact each _ hx

/-! ### Layouts -/

theorem exec_mxLay (h : c.Runs) (hp : c.performs i = true) (hf : c.EntryFree) {s' : State} {bytes : List Byte}
    (hrec : ∀ go, c.readRecord (c.isGlobal i 1) 32 32 (c.warg i 1 (if c.isGlobal i 1 then 64 else 32)) go = go s' bytes) :
    exec (.mxLay i) c.s = .next (wide c 0xDA i [tI32] [layoutReason (c.warg i 0 32) bytes]
      (enqueued { c with s := s' } (.lay (c.warg i 0 32)
        (if layoutReason (c.warg i 0 32) bytes = 0 then some (layoutOf bytes) else none)) false false)) := by
  change execMxLay i c.s = _
  simp only [execMxLay, h.withCx, hp, Cx.withEntry_free hf, hrec, Cx.queued_eq_enqueued]
  rfl

/-! ### Speculative regions -/

/-- The region that mx.spec opens: each tile of the first mask with its donor of the second (R321). -/
def Cx.newRegion (c : Cx) (i : Ins) : SpecRegion :=
  { num := c.t.matrix.nextRegion, tag := mxTag i, pairs := (tilesOf (c.warg i 0 32)).zip (tilesOf (c.warg i 1 32)) }

/-- The matrix engine with that region open. -/
def Cx.openedEngine (c : Cx) (i : Ins) : MatrixEngine :=
  { c.t.matrix with region := some (c.newRegion i), nextRegion := (c.newRegion i).num + 1 }

/-- The stream with that region open. -/
def Cx.opened (c : Cx) (i : Ins) : Cx :=
  { c with
    s := c.s.modTeam c.core fun t => { t with matrix := c.openedEngine i }
    t := { c.t with matrix := c.openedEngine i } }

/-- The masks give no region: one is open, their sizes differ, or they share a tile (R321). -/
abbrev Cx.RegionInvalid (c : Cx) (i : Ins) : Prop :=
  c.t.matrix.region.isSome = true ∨ (tilesOf (c.warg i 0 32)).length ≠ (tilesOf (c.warg i 1 32)).length ∨
    ∃ k ∈ tilesOf (c.warg i 0 32), k ∈ tilesOf (c.warg i 1 32)

theorem exec_mxSpec (h : c.Runs) (hp : c.performs i = true)
    (ht : ∀ k ∈ tilesOf (c.warg i 0 32) ++ tilesOf (c.warg i 1 32), k ≤ 11) :
    exec (.mxSpec i) c.s = if c.RegionInvalid i then c.trap 0x42
      else c.withEntry ((c.opened i).joinsMxq (.spec (mxTag i) (c.newRegion i).pairs) false false) := by
  change execMxSpec i c.s = _
  rw [execMxSpec, h.withCx, hp]
  refine (Cx.withTiles_exist ht _).trans ?_
  have hv : (c.t.matrix.region.isSome || (tilesOf (c.warg i 0 32)).length != (tilesOf (c.warg i 1 32)).length ||
      (tilesOf (c.warg i 0 32)).any fun t => (tilesOf (c.warg i 1 32)).contains t) = true ↔ c.RegionInvalid i := by
    simp [or_assoc]
  rw [Cx.joinsMxq, ← Cx.queued_eq_enqueued]
  exact ite_congr (propext hv) (fun _ => rfl) fun _ => rfl

theorem exec_mxSpec_opens (h : c.Runs) (hp : c.performs i = true)
    (ht : ∀ k ∈ tilesOf (c.warg i 0 32) ++ tilesOf (c.warg i 1 32), k ≤ 11) (hn : c.t.matrix.region = none)
    (hl : (tilesOf (c.warg i 0 32)).length = (tilesOf (c.warg i 1 32)).length)
    (hd : ∀ k ∈ tilesOf (c.warg i 0 32), k ∉ tilesOf (c.warg i 1 32)) (hf : c.EntryFree) :
    exec (.mxSpec i) c.s = (c.opened i).joinsMxq (.spec (mxTag i) (c.newRegion i).pairs) false false := by
  have hv : ¬ c.RegionInvalid i := by simpa [Cx.RegionInvalid, hn, hl] using hd
  rw [exec_mxSpec h hp ht, if_neg hv, Cx.withEntry_free hf]

theorem exec_mxSpec_traps (h : c.Runs) (hp : c.performs i = true)
    (ht : ∀ k ∈ tilesOf (c.warg i 0 32) ++ tilesOf (c.warg i 1 32), k ≤ 11) (hv : c.RegionInvalid i) :
    exec (.mxSpec i) c.s = c.trap 0x42 := by
  rw [exec_mxSpec h hp ht, if_pos hv]

/-- The open region, if its tag is the instruction's. -/
def Cx.namedRegion (c : Cx) (i : Ins) : Option SpecRegion := c.t.matrix.region.filter fun g => g.tag == mxTag i

theorem Cx.namedRegion_open {g : SpecRegion} (hg : c.t.matrix.region = some g) (ht : g.tag = mxTag i) :
    c.namedRegion i = some g := by
  simp [Cx.namedRegion, hg, ht]

theorem Cx.namedRegion_none (h : ∀ g, c.t.matrix.region = some g → g.tag ≠ mxTag i) : c.namedRegion i = none :=
  Option.filter_eq_none_iff.2 fun g hg => by simpa using h g hg

/-- The stream with the region `g` committed and closed. -/
def Cx.committed (c : Cx) (g : SpecRegion) : Cx :=
  { c with s := c.s.commitRegion c.core g.num, t := { c.t with matrix := { c.t.matrix with region := none } } }

theorem exec_mxCommit (h : c.Runs) (hp : c.performs i = true) {g : SpecRegion} (hg : c.namedRegion i = some g)
    (hf : c.EntryFree) : exec (.mxCommit i) c.s = (c.committed g).joinsMxq (.commit g.pairs) false false := by
  rw [Cx.namedRegion] at hg
  change execMxCommit i c.s = _
  simp only [execMxCommit, h.withCx, hp, hg, Cx.withEntry_free hf, Cx.queued_eq_enqueued]
  rfl

theorem exec_mxDrop (h : c.Runs) (hp : c.performs i = true) {g : SpecRegion} (hg : c.namedRegion i = some g) :
    exec (.mxDrop i) c.s = .next (moveOn (c.s.dropRegion c.core) c.r) := by
  rw [Cx.namedRegion] at hg
  change execMxDrop i c.s = _
  simp only [execMxDrop, h.withCx, hp, hg]
  rfl

/-- A commit or a drop of a region that is not open records ERRC 8 (R323, R324). -/
theorem exec_closing_unopened (h : c.Runs) (hp : c.performs i = true) (hg : c.namedRegion i = none) {x : Instr}
    (hx : x = .mxCommit i ∨ x = .mxDrop i) :
    exec x c.s = .next (moveOn (c.s.modTeam c.core fun t => { t with matrix := t.matrix.fail 8 }) c.r) := by
  rw [Cx.namedRegion] at hg
  obtain rfl | rfl := hx
  · change execMxCommit i c.s = _
    simp only [execMxCommit, h.withCx, hp, hg]
    rfl
  · change execMxDrop i c.s = _
    simp only [execMxDrop, h.withCx, hp, hg]
    rfl

/-! ### Format words and the status -/

theorem exec_mxFw_pushes (h : c.Runs) (hp : c.performs i = true) (hl : c.t.matrix.fwq.length < 16) :
    exec (.mxFw i) c.s = .next (moveOn (c.s.modTeam c.core fun t =>
      { t with matrix := { t.matrix with fwq := t.matrix.fwq ++ [BitVec.ofNat 32 (c.warg i 0 32)] } }) c.r) := by
  change execMxFw i c.s = _
  rw [execMxFw, h.withCx, hp]
  exact if_neg (Nat.not_le.2 hl)

theorem exec_mxFw_waits (h : c.Runs) (hp : c.performs i = true) (hl : 16 ≤ c.t.matrix.fwq.length) :
    exec (.mxFw i) c.s = c.block (.engineRoom 3) := by
  change execMxFw i c.s = _
  rw [execMxFw, h.withCx, hp]
  exact if_pos hl

theorem exec_mxStat_status (h : c.Runs) (hp : c.performs i = true) (hb : i.attr.ctlByte.getLsbD 0 = false) :
    exec (.mxStat i) c.s = .next (wide c 0xE7 i [tI32] [c.t.matrix.stat]
      (if i.attr.ctlByte.getLsbD 1 then c.s.modTeam c.core fun t =>
        { t with matrix := { t.matrix with stat := t.matrix.stat % 2 ^ 17 } } else c.s)) := by
  change execMxStat i c.s = _
  simp only [execMxStat, h.withCx, hp, hb]
  rfl

theorem exec_mxStat_conflicts (h : c.Runs) (hp : c.performs i = true) (hb : i.attr.ctlByte.getLsbD 0 = true) :
    exec (.mxStat i) c.s = .next (wide c 0xE7 i [tI32] [c.t.matrix.cflStat]
      (if i.attr.ctlByte.getLsbD 1 then c.s.modTeam c.core fun t =>
        { t with matrix := { t.matrix with conflicts := 0, cflStat := 0 } } else c.s)) := by
  change execMxStat i c.s = _
  simp only [execMxStat, h.withCx, hp, hb]
  rfl

/-- Settles O40: the commands by their checks, and each of the other matrix instructions by its own equation. -/
theorem matrixInstructions : Obligations.MatrixInstructions := by
  unfold Obligations.MatrixInstructions
  intro i s r t st h hp c room tag fail
  have h : c.Runs := h
  have hp : c.performs i = true := hp
  refine ⟨fun x tiles push pop op hx => ?commands, fun hf s' bytes hrec => exec_mxLay h hp hf hrec,
    fun ht => ⟨exec_mxSpec_opens h hp ht, exec_mxSpec_traps h hp ht⟩, fun g hg htag => ?closing,
    fun hg x hx => exec_closing_unopened h hp (Cx.namedRegion_none hg) hx, exec_mxFw_pushes h hp, exec_mxFw_waits h hp,
    exec_mxStat_status h hp, exec_mxStat_conflicts h hp⟩
  case commands =>
    have hexec := exec_of_mem_matrixCommands h hp hx
    exact ⟨fun ht hf => hexec.trans ((Cx.withTiles_exist ht _).trans (Cx.withEntry_free (c := c) hf _)),
      fun ht => hexec.trans (Cx.withTiles_traps ht _),
      fun ht hr hl => hexec.trans ((Cx.withTiles_exist ht _).trans (Cx.withEntry_full hr hl _))⟩
  case closing =>
    have hnamed : c.namedRegion i = some g := Cx.namedRegion_open hg htag
    exact ⟨exec_mxCommit h hp hnamed, exec_mxDrop h hp hnamed⟩

end Sys2Proof.Machine
end

section
/-! The statement of spec/12_page_engine.md on fault batches (R340, R342, R343). -/
namespace Sys2Proof.Machine
open Sys2Proof.Claims

variable {s : State} {d : Nat} {b : Batch}

/-! ### Closing and writing -/

/-- A batch after BATCH_CLOSE of a die. -/
def State.closeDue (s : State) (d : Nat) (b : Batch) : Batch :=
  if b.die = d ∧ b.closed = false ∧ b.written = false ∧ (64 ≤ b.faults.length ∨ 4000 ≤ s.since b.start) then
    { b with closed := true } else b

theorem exec_batchClose (s : State) (d : Nat) : exec (.batchClose d) s =
    .next { s with pages := { s.pages with batches := s.pages.batches.map (s.closeDue d) } } := by
  change execBatchClose d s = _
  simp only [execBatchClose, Batch.isOpen, Bool.and_eq_true, Bool.or_eq_true, Bool.not_eq_true', beq_iff_eq,
    decide_eq_true_eq, and_assoc]
  rfl

/-- The state with the records of a batch's ranges in the fault ring, from its tail on. -/
def State.recorded (s : State) (b : Batch) : State :=
  b.fused.zipIdx.foldl (fun w r => w.writeBytes (s.pages.ringAt (s.pages.tail.toNat + r.2)) (rangeBytes b r.1)) s

/-- A batch that is outstanding since a state, with its records at the tail of the fault ring. -/
def Batch.outstanding (b : Batch) (s : State) (tail : Nat) : Batch :=
  { b with written := true, start := s.now, ring := tail, ranges := b.fused.map fun r => (r.first, r.blocks, r.asid) }

theorem exec_batchWrite (hb : (s.pages.batches.find? fun b => b.die == d && b.closed && !b.written) = some b)
    (hv : entryV s.pages.fqBase.toNat = true)
    (hr : (s.pages.tail - s.pages.head).toNat + b.fused.length ≤ s.pages.ringSize) :
    exec (.batchWrite d) s = .next { s.recorded b with pages := { (s.recorded b).pages with
      tail := s.pages.tail + BitVec.ofNat 32 b.fused.length
      batches := (s.recorded b).pages.batches.map fun c =>
        if c.die = b.die ∧ c.number = b.number then b.outstanding (s.recorded b) s.pages.tail.toNat else c } } := by
  change execBatchWrite d s = _
  simp only [execBatchWrite, hb, hv, decide_eq_false (Nat.not_lt.2 hr), Bool.not_true, Bool.or_self, Bool.false_eq_true, if_false]
  rfl

/-! ### Resolution -/

/-- The outstanding batch that a write of PG_RESOLVE names. -/
def State.namedBatch (s : State) (w : BitVec 32) : Option Batch :=
  s.pages.batches.find? fun b => b.die == (w.extractLsb' 16 3).toNat && b.number == w.extractLsb' 0 16 && b.written

theorem exec_pgResolve {w : BitVec 32} (hr : s.board.ready = true) (hb : s.namedBatch w = some b) : exec (.pgResolve w) s =
    .next (s.resolve b fun i => (s.byteAt (s.pages.ringAt (b.ring + i) + 28)).toNat) := by
  rw [State.namedBatch] at hb
  change execPgResolve w s = _
  simp only [execPgResolve, hr, hb, Bool.not_true, Bool.false_eq_true, if_false]

theorem exec_pgResolve_unnamed {w : BitVec 32} (hr : s.board.ready = true) (hb : s.namedBatch w = none) :
    exec (.pgResolve w) s = .next s := by
  rw [State.namedBatch] at hb
  change execPgResolve w s = _
  simp only [execPgResolve, hr, hb, Bool.not_true, Bool.false_eq_true, if_false]

theorem exec_batchTimeout {n : Nat}
    (hb : (s.pages.batches.find? fun b => b.die == d && b.number.toNat == n && b.written) = some b)
    (ht : 500000000 ≤ s.since b.start) : exec (.batchTimeout d n) s = .next (s.resolve b fun _ => 2) := by
  change execBatchTimeout d n s = _
  simp only [execBatchTimeout, hb, ht, if_true]

/-! ### Answers -/

/-- An access is told, and replays; with status 3 its job ends first. -/
theorem State.answer_stream {f : PageFault} {id : Nat} (h : f.who = .stream id) (n : Nat) (s : State) : s.answer n f =
    (toldAccess (if n = 3 then s.jobFault f.asid 0x26 else s) id f.block (n == 2)).replay id := by
  simp only [State.answer, h]
  rfl

/-- The knitter goes on, and remembers a page that was left unmapped. -/
theorem State.answer_knit {f : PageFault} {die row n : Nat} (hn : n ≤ 2) (h : f.who = .knit die row) (s : State) :
    s.answer n f = s.modDie die fun d => { d with
      jobs := d.jobs.map fun j => if j.1 = row && j.2.waiting then
        (row, { j.2 with waiting := false, denied := if n = 2 then some (f.block * 65536) else j.2.denied }) else j } := by
  have h3 : n ≠ 3 := by omega
  have h2 : 2 ≤ n ↔ n = 2 := by omega
  simp only [State.answer, h, h3, h2, if_false]

/-! ### Replay -/

/-- No lane of an access waits for a page any more, and no trap of its team came first (R343, R348). -/
structure State.ReplayDue (s : State) (a : Acc) : Prop where
  answered : ∀ l ∈ a.lanes, l.stage ≠ .parked
  untrapped : ∀ t, s.team? (coreOf a.ref) = some t → t.trapped = none

variable {id : Nat} {a : Acc} {l : AccLane} {ls : List AccLane}

/-- The condition under which a replay does nothing. -/
theorem State.ReplayDue.guard (h : s.ReplayDue a) :
    ((a.lanes.any fun l => l.stage == .parked) || ((s.team? (coreOf a.ref)).bind Team.trapped).isSome) = false := by
  have hp : (a.lanes.any fun l => l.stage == .parked) = false := by simpa using h.answered
  have ht : ((s.team? (coreOf a.ref)).bind Team.trapped) = none := Option.bind_eq_none_iff.2 h.untrapped
  rw [hp, ht]
  rfl

theorem State.replay_denied (ha : s.acc? id = some a) (h : s.ReplayDue a)
    (hd : (a.lanes.filter fun l => l.stage == .denied) = l :: ls) : s.replay id = s.takeTrap a.ref
      { stream := a.ref.idx, code := 0x21, pos := a.pos, arg := 1, value := l.va
        lanes := maskOfList ((l :: ls).map AccLane.lane) } := by
  simp only [State.replay, ha, h.guard, hd, Bool.false_eq_true, if_false]

theorem State.replay_mapped (ha : s.acc? id = some a) (h : s.ReplayDue a) (hd : ∀ l ∈ a.lanes, l.stage ≠ .denied)
    (hm : (a.lanes.filter fun l => l.stage == .mapped) = l :: ls) : s.replay id = (s.sendLanes a (l :: ls)).unpark id := by
  have hnil : (a.lanes.filter fun l => l.stage == .denied) = [] := List.filter_eq_nil_iff.2 (by simpa using hd)
  simp only [State.replay, ha, h.guard, hnil, hm, Bool.false_eq_true, if_false]

/-- Settles O48: each step of a batch, what an answer tells its requester, and the replay of an access. -/
theorem pageBatches : Obligations.PageBatches := by
  unfold Obligations.PageBatches
  intro s d
  refine ⟨exec_batchClose s d, fun b hb hv hr => exec_batchWrite hb hv hr,
    fun w hr => ⟨fun b hb => exec_pgResolve hr hb, fun hb => exec_pgResolve_unnamed hr hb⟩,
    fun n b hb ht => exec_batchTimeout hb ht, fun f id hf => ?told, fun id a ha hl ht => ?replay,
    fun f die row n hn hf => State.answer_knit hn hf s⟩
  case told =>
    have hanswer := State.answer_stream (s := s) hf
    refine ⟨fun n hn => ?_, hanswer 2, hanswer 3⟩
    obtain rfl | rfl : n = 0 ∨ n = 1 := by omega
    · exact hanswer 0
    · exact hanswer 1
  case replay =>
    have hdue : s.ReplayDue a := ⟨hl, ht⟩
    exact ⟨fun l ls hd => State.replay_denied ha hdue hd, fun l ls hd hm => State.replay_mapped ha hdue hd hm⟩

end Sys2Proof.Machine
end

section
/-! The statement of spec/12_page_engine.md on the commands of PG_CMD (R344 to R346). -/
namespace Sys2Proof.Machine
open Sys2Proof.Claims

variable {s : State} {rec : BitVec 64} {want : Nat} {k : PageCmd}

/-! ### A command's range -/

/-- The leaves of a record's range, and none where a page is not mapped. -/
abbrev State.rangeOf (s : State) (r : PageRecord) : List (Option (Leaf × Nat)) :=
  s.leavesIn r.asid (r.va + 65536 * r.pages) r.pages r.va

/-- The leaves that are there. -/
abbrev State.mappedIn (s : State) (r : PageRecord) : List (Leaf × Nat) := (s.rangeOf r).filterMap id

/-- A page of the range is pinned. -/
abbrev State.PinnedIn (s : State) (r : PageRecord) : Prop := ∃ f ∈ s.mappedIn r, leafPin f.1.entry = true

/-- The level of the tables whose leaves map so many bytes. -/
abbrev leafLevel (bytes : Nat) : Nat :=
  if bytes = 65536 then 3 else if bytes = 2 ^ 21 then 2 else if bytes = 2 ^ 30 then 1 else 0

/-- Every leaf that a migration would write is well formed. -/
abbrev State.Movable (s : State) (r : PageRecord) : Prop :=
  ∀ f ∈ s.mappedIn r, s.badLeaf (leafLevel f.1.bytes) (movedLeaf f.1.entry r.target f.1.bytes (f.1.base - r.va)) = false

/-- The command that a record asks for. -/
abbrev State.commandOf (s : State) (rec : BitVec 64) (want : Nat) : PageCmd :=
  let r := s.pageRecord rec
  { op := want, asid := r.asid, va := r.va, pages := r.pages, target := r.target, recAddr := rec.toNat
    todo := (s.mappedIn r).map fun f => (f.1.base, f.2) }

/-- The state with the leaves of the range changed, and the range shot down (R345). -/
abbrev State.leavesChanged (s : State) (r : PageRecord) (want : Nat) : State :=
  (if want = 0 then s else (s.mappedIn r).foldl (fun s f => s.writeEntry f.2 (changed want f.1.entry)) s).shoot
    r.asid r.va (r.va + 65536 * r.pages)

/-- A command runs, and waits for the accesses and chunks that are in flight under the old entries. -/
abbrev State.awaiting (s : State) (k : PageCmd) (r : PageRecord) : State :=
  { s with pages := { s.pages with
    cmd := some { k with waitFor := s.accepted r.asid r.va (r.va + 65536 * r.pages), chunks := s.chunksOf r.asid } } }

/-! ### Starting a command -/

/-- The write of PG_CMD starts the command of the row that stands for `want` (R344). -/
structure State.Starts (s : State) (rec : BitVec 64) (want : Nat) : Prop where
  ready : s.board.ready = true
  idle : s.pages.cmd = none
  row : 4 < (s.pageRecord rec).op ∨ (s.pageRecord rec).op = want

/-- The condition under which a write of PG_CMD is ignored. -/
theorem State.Starts.guard (h : s.Starts rec want) :
    (!s.board.ready || s.pages.cmd.isSome || (decide ((s.pageRecord rec).op ≤ 4) && (s.pageRecord rec).op != want)) = false := by
  obtain ⟨hr, hc, hop⟩ := h
  have hrow : (decide ((s.pageRecord rec).op ≤ 4) && (s.pageRecord rec).op != want) = false := by
    obtain hop | hop := hop
    · rw [decide_eq_false (Nat.not_le.2 hop), Bool.false_and]
    · rw [hop, bne_self_eq_false, Bool.and_false]
  rw [hr, hc, hrow]
  rfl

theorem State.not_movable_iff (s : State) (r : PageRecord) (want : Nat) :
    (!(want != 1 || (s.mappedIn r).all fun f => !s.badLeaf (leafLevel f.1.bytes)
      (movedLeaf f.1.entry r.target f.1.bytes (f.1.base - r.va)))) = true ↔ want = 1 ∧ ¬ s.Movable r := by
  rw [Bool.not_eq_true', Bool.or_eq_false_iff, bne_eq_false_iff_eq, ← Bool.not_eq_true, List.all_eq_true]
  simp only [State.Movable, Bool.not_eq_true']

/-- A command that starts ends with the status of the first check that fails, or changes its leaves. -/
theorem State.Starts.pageCommand_eq (h : s.Starts rec want) : pageCommand want rec s =
    let r := s.pageRecord rec
    if r.ok = false then .next (s.pageDone rec 3)
    else if (want = 1 ∨ want = 2) ∧ s.PinnedIn r then .next (s.pageDone rec 1)
    else if want ≠ 0 ∧ none ∈ s.rangeOf r then .next (s.pageDone rec 2)
    else if want = 1 ∧ ¬ s.Movable r then .next (s.pageDone rec 3)
    else if want = 1 then
      if s.mappedIn r = [] then .next (s.pageDone rec 0) else .next (s.beginMove (s.commandOf rec 1))
    else .next ((s.leavesChanged r want).awaiting (s.commandOf rec want) r) := by
  have hpinned : (s.mappedIn (s.pageRecord rec)).any (fun f => leafPin f.1.entry) = true ↔ s.PinnedIn (s.pageRecord rec) :=
    List.any_eq_true
  have hhole : (s.rangeOf (s.pageRecord rec)).any Option.isNone = true ↔ none ∈ s.rangeOf (s.pageRecord rec) := by simp
  refine (if_neg (Bool.eq_false_iff.1 h.guard)).trans ?_
  refine ite_congr (Bool.not_eq_true' _) (fun _ => rfl) fun _ => ?_
  refine ite_congr (propext (and_congr_right' hpinned)) (fun _ => rfl) fun _ => ?_
  refine ite_congr (propext (and_congr_right' hhole)) (fun _ => rfl) fun _ => ?_
  refine ite_congr (propext (s.not_movable_iff _ want)) (fun _ => rfl) fun _ => ?_
  refine ite_congr rfl (fun hw => ?_) fun _ => rfl
  subst hw
  rfl

/-! ### How a command that starts ends, or goes on -/

section
variable (h : s.Starts rec want)
include h

theorem pageCommand_malformed (hok : (s.pageRecord rec).ok = false) : pageCommand want rec s = .next (s.pageDone rec 3) :=
  h.pageCommand_eq.trans (if_pos hok)

theorem pageCommand_pinned (hok : (s.pageRecord rec).ok = true) (hw : want = 1 ∨ want = 2) (hp : s.PinnedIn (s.pageRecord rec)) :
    pageCommand want rec s = .next (s.pageDone rec 1) := by
  rw [h.pageCommand_eq]
  simp only [hok, hw, hp, Bool.true_eq_false, and_self, if_true, if_false]

theorem pageCommand_hole (hok : (s.pageRecord rec).ok = true) (hp : want = 1 ∨ want = 2 → ¬ s.PinnedIn (s.pageRecord rec))
    (hw : want ≠ 0) (hh : none ∈ s.rangeOf (s.pageRecord rec)) : pageCommand want rec s = .next (s.pageDone rec 2) := by
  rw [h.pageCommand_eq]
  simp only [hok, not_and.2 hp, hw, hh, Bool.true_eq_false, ne_eq, not_false_eq_true, and_self, if_true, if_false]

/-- A shootdown, unmap, pin or unpin whose record is in order goes on. -/
theorem pageCommand_goesOn (hok : (s.pageRecord rec).ok = true) (hm : want ≠ 1)
    (hp : want = 2 → ¬ s.PinnedIn (s.pageRecord rec)) (hh : want ≠ 0 → none ∉ s.rangeOf (s.pageRecord rec)) : pageCommand want rec s =
      .next ((s.leavesChanged (s.pageRecord rec) want).awaiting (s.commandOf rec want) (s.pageRecord rec)) := by
  rw [h.pageCommand_eq]
  simp only [hok, hm, not_and.2 hp, not_and.2 hh, Bool.true_eq_false, false_or, false_and, if_false]

end

section
variable (h : s.Starts rec 1) (hok : (s.pageRecord rec).ok = true) (hp : ¬ s.PinnedIn (s.pageRecord rec))
  (hh : none ∉ s.rangeOf (s.pageRecord rec))
include h hok hp hh

/-- A new leaf of a migration would be malformed. -/
theorem pageCommand_unmovable (hm : ¬ s.Movable (s.pageRecord rec)) : pageCommand 1 rec s = .next (s.pageDone rec 3) := by
  rw [h.pageCommand_eq]
  simp only [hok, hp, hh, hm, Bool.true_eq_false, and_false, and_self, not_false_eq_true, if_true, if_false]

theorem pageCommand_moves (hm : s.Movable (s.pageRecord rec)) : pageCommand 1 rec s =
    if s.mappedIn (s.pageRecord rec) = [] then .next (s.pageDone rec 0) else .next (s.beginMove (s.commandOf rec 1)) := by
  rw [h.pageCommand_eq]
  simp only [hok, hp, hh, eq_true hm, Bool.true_eq_false, and_false, not_true_eq_false, if_true, if_false]

end

/-! ### The rows of PG_CMD -/

theorem exec_of_mem_pageRows {x : Instr} (hx : (x, want) ∈ pageRows rec) (s : State) :
    exec x s = pageCommand want rec s ∧ want ≠ 1 := by
  have each : ∀ e ∈ pageRows rec, exec e.1 s = pageCommand e.2 rec s ∧ e.2 ≠ 1 := by
    simp only [pageRows, List.forall_mem_cons]
    exact ⟨⟨rfl, by decide⟩, ⟨rfl, by decide⟩, ⟨rfl, by decide⟩, ⟨rfl, by decide⟩, List.forall_mem_nil _⟩
  exact each _ hx

theorem exec_pgCmdMigrate (rec : BitVec 64) (s : State) : exec (.pgCmdMigrate rec) s = pageCommand 1 rec s := rfl

/-- Every row of PG_CMD is a command of some operation. -/
theorem exec_pgCmd {x : Instr} (hx : (∃ want, (x, want) ∈ pageRows rec) ∨ x = .pgCmdMigrate rec) (s : State) :
    ∃ want, exec x s = pageCommand want rec s := by
  obtain ⟨want, hx⟩ | rfl := hx
  · exact ⟨want, (exec_of_mem_pageRows hx s).1⟩
  · exact ⟨1, exec_pgCmdMigrate rec s⟩

/-- A record with no operation is malformed. -/
theorem State.pageRecord_unknown (h : 4 < (s.pageRecord rec).op) : (s.pageRecord rec).ok = false := by
  simp only [State.pageRecord] at h ⊢
  rw [decide_eq_false (Nat.not_le.2 h), Bool.and_false]

theorem pageCommand_running (h : s.pages.cmd.isSome = true) (want : Nat) (rec : BitVec 64) :
    pageCommand want rec s = .next s := by
  simp only [pageCommand, h, Bool.or_true, Bool.true_or, if_true]

/-! ### Completion -/

theorem exec_shootdownComplete (hc : s.pages.cmd = some k) (hm : k.op ≠ 1)
    (hd : s.drained k k.va (k.va + 65536 * k.pages) = true) :
    exec .shootdownComplete s = .next (s.pageDone (BitVec.ofNat 64 k.recAddr) 0) := by
  change execShootdownComplete s = _
  simp only [execShootdownComplete, hc, hm, hd, decide_false, Bool.not_true, Bool.or_self, Bool.false_eq_true, if_false]

/-- The page that moves has been copied, and the leaf of its new place written and shot down (R346 steps 2 to 5). -/
def State.pageMoved (s : State) (k : PageCmd) (va entry : Nat) (f : Leaf) : State :=
  let e := s.natAt entry 8
  let new := movedLeaf e k.target f.bytes (va - k.va)
  let d := (s.drainPage (leafFlat e) f.bytes).evictPage (leafSail e) (leafFlat e) f.bytes
  (((d.copyRange (leafFlat e) (leafFlat new) f.bytes).moveResults { f with entry := e } { f with entry := new }).writeEntry
    entry new).shoot k.asid va (va + f.bytes)

theorem exec_migrationCopy {va a : Nat} {rest : List (Nat × Nat)} {f : Leaf} {w : List WalkEntry}
    (hc : s.pages.cmd = some k) (hm : k.op = 1) (ht : k.todo = (va, a) :: rest) (hw : s.walk 7 k.asid va = (Walked.leaf f a, w)) (hd : s.drained k va (va + f.bytes) = true)
    (hb : (s.drainPage (leafFlat (s.natAt a 8)) f.bytes).pageBusy (leafFlat (s.natAt a 8)) f.bytes = false) :
    exec .migrationCopy s = .next (if rest = [] then (s.pageMoved k va a f).pageDone (BitVec.ofNat 64 k.recAddr) 0
      else { s.pageMoved k va a f with pages := { (s.pageMoved k va a f).pages with
        cmd := some { k with todo := rest } } }.beginMove { k with todo := rest }) := by
  change execMigrationCopy s = _
  simp only [execMigrationCopy, hc, hm, ht, hw, hd, hb, Bool.not_true, Bool.false_eq_true, if_false]
  rw [← apply_ite Host.Outcome.next]
  rfl

/-- Settles O49: the checks of a record in their order, and the ends of the commands that go on. -/
theorem pageCommands : Obligations.PageCommands := by
  unfold Obligations.PageCommands
  intro s rec r stop ls leaves pinned k levelOf movable
  refine ⟨fun hready hidle => ⟨fun x want hx hop => ?rows, fun hop => ?migration, fun x hx hop => ?unknown⟩,
    fun x hc hx => ?running, fun k hc hm hd => exec_shootdownComplete hc hm hd,
    fun k va a rest f w hc hm ht hw hd => exec_migrationCopy hc hm ht hw hd⟩
  case rows =>
    obtain ⟨hexec, hw⟩ := exec_of_mem_pageRows hx s
    have h : s.Starts rec want := ⟨hready, hidle, .inr hop⟩
    rw [hexec]
    exact ⟨pageCommand_malformed h, fun hok h2 hp => pageCommand_pinned h hok (.inr h2) hp,
      fun hok h0 hp hh => pageCommand_hole h hok (fun h12 => hp (h12.resolve_left hw)) h0 hh,
      fun hok hh hp => pageCommand_goesOn h hok hw hp hh⟩
  case migration =>
    have h : s.Starts rec 1 := ⟨hready, hidle, .inr hop⟩
    rw [exec_pgCmdMigrate]
    exact ⟨pageCommand_malformed h, fun hok hp => pageCommand_pinned h hok (.inl rfl) hp,
      fun hok hp hh => pageCommand_hole h hok (fun _ => hp) Nat.one_ne_zero hh,
      fun hok hp hh hm => pageCommand_unmovable h hok hp hh hm,
      fun hok hp hh hm hl => (pageCommand_moves h hok hp hh hm).trans (if_neg hl),
      fun hok hp hh hm hl => (pageCommand_moves h hok hp hh hm).trans (if_pos hl)⟩
  case unknown =>
    obtain ⟨want, hexec⟩ := exec_pgCmd hx s
    rw [hexec]
    exact pageCommand_malformed ⟨hready, hidle, .inl hop⟩ (State.pageRecord_unknown hop)
  case running =>
    obtain ⟨want, hexec⟩ := exec_pgCmd hx s
    rw [hexec, pageCommand_running hc]

end Sys2Proof.Machine
end

section
/-! The statement of spec/13_sail_engine.md, spec/17_chain_recorder.md and spec/18_trace_sampling_debug.md on the sail, chain, trace
and counter instructions (R357 to R359, R452, R453, R465, R469). -/
namespace Sys2Proof.Machine
open Sys2Proof.Claims

variable {c : Cx} {i : Ins}

/-! ### The privilege -/

/-- The launch's address space holds the sail privilege (R358). -/
def Cx.MaySail (c : Cx) : Prop := ∃ p ∈ c.s.sailRegs.pasid, p.2 = true ∧ p.1.toNat = c.t.asid

theorem Cx.sailPrivileged_iff : c.sailPrivileged = true ↔ c.MaySail := by simp [Cx.sailPrivileged, Cx.MaySail]

theorem Cx.sailPrivileged_eq_false (h : ¬ c.MaySail) : c.sailPrivileged = false :=
  Bool.eq_false_iff.2 fun hp => h (Cx.sailPrivileged_iff.1 hp)

/-! ### sail.def -/

theorem exec_sailDef (h : c.Runs) (hp : c.performs i = true) (hm : c.MaySail) {s' : State} {bytes : List Byte}
    (hrec : ∀ go, c.readRecord (c.isGlobal i 0) 64 64 (c.warg i 0 (if c.isGlobal i 0 then 64 else 32)) go = go s' bytes) :
    exec (.sailDef i) c.s = .next (wide c 0xFA i [tI32] [(s'.sailDefine bytes).1] (s'.sailDefine bytes).2) := by
  change execSailDef i c.s = _
  simp only [execSailDef, h.withCx, hp, Cx.sailPrivileged_iff.2 hm, hrec]
  rfl

theorem exec_sailDef_unprivileged (h : c.Runs) (hp : c.performs i = true) (hm : ¬ c.MaySail) :
    exec (.sailDef i) c.s = c.trap 0x32 := by
  change execSailDef i c.s = _
  simp only [execSailDef, h.withCx, hp, Cx.sailPrivileged_eq_false hm]
  rfl

/-! ### Changes that may be waited for -/

/-- A change that ends at once records its SAIL link in a state: the producer is the stream's, else the controller of `die`. -/
def Cx.sailLink (c : Cx) (s : State) (opc die : Nat) : State :=
  s.streamLink c.r 0x0B (opc % 16) 0 (some ((c.st.prod.map Prod.fst).getD (s.terminalRef die 255 6))) none

theorem Cx.sailLinked_eq (c : Cx) (s : State) (opc die : Nat) (i : Ins) (tys vals : List Nat) :
    c.sailLinked s opc die i tys vals = .next (wide c opc i tys vals (c.sailLink s opc die)) := by
  have hprod (q : Option (Nat × Nat)) (x : Nat) : (match q with | some p => p.1 | none => x) = (q.map Prod.fst).getD x := by
    cases q with
    | none => rfl
    | some p => rfl
  exact congrArg (fun p => Host.Outcome.next (wide c opc i tys vals (s.streamLink c.r 0x0B (opc % 16) 0 (some p) none)))
    (hprod c.st.prod (s.terminalRef die 255 6))

/-- The stream waits until the change of a sail that it began has ended. -/
def Cx.sailWait (c : Cx) (s : State) (k : SailKey) : State :=
  s.modStream c.r fun st => { st.blocked c.s.now (.sail k.num) with stage := [s.sailRegs.changes] }

/-- What a change, of which the controller says `r`, does to its stream: a refused .wait form records its link too (log entry
100). -/
def Cx.changed (c : Cx) (i : Ins) (opc die : Nat) (k : SailKey) (r : Nat × State) : State :=
  if i.attr.ctlByte.getLsbD 0 then
    if r.1 = 0 then c.sailWait r.2 k else wide c opc i [tI32] [r.1] (c.sailLink r.2 opc die)
  else wide c opc i [tI32] [r.1] r.2

section
variable (h : c.Runs) (hp : c.performs i = true) (hs : c.st.stage = []) {priv : Cx → SailKey → Bool}
include h hp hs

theorem sailChange_begins {arg : Nat} (hm : priv c (c.sailKey (c.warg i arg 32)) = true → c.MaySail) (opc : Nat)
    (act : Cx → SailKey → Nat × State) (die : Cx → Nat) : sailChange opc i c.s arg priv act die =
      .next (c.changed i opc (die c) (c.sailKey (c.warg i arg 32)) (act c (c.sailKey (c.warg i arg 32)))) := by
  have hpriv : (priv c (c.sailKey (c.warg i arg 32)) && !c.sailPrivileged) = false := by
    simpa [Cx.sailPrivileged_iff] using hm
  simp only [sailChange, h.withCx, hp, hs, hpriv, Cx.sailLinked_eq, Cx.changed]
  cases i.attr.ctlByte.getLsbD 0
  · rfl
  · by_cases hr : (act c (c.sailKey (c.warg i arg 32))).1 = 0
    · simp [hr]
      rfl
    · simp [hr]

theorem sailChange_unprivileged {arg : Nat} (hq : priv c (c.sailKey (c.warg i arg 32)) = true) (hm : ¬ c.MaySail) (opc : Nat)
    (act : Cx → SailKey → Nat × State) (die : Cx → Nat) : sailChange opc i c.s arg priv act die = c.trap 0x32 := by
  simp only [sailChange, h.withCx, hp, hs, hq, Cx.sailPrivileged_eq_false hm]
  rfl

end

theorem Cx.changed_atOnce (c : Cx) {opc die : Nat} {k : SailKey} {r : Nat × State} (hw : i.attr.ctlByte.getLsbD 0 = false) :
    c.changed i opc die k r = wide c opc i [tI32] [r.1] r.2 := by
  rw [Cx.changed, hw]
  rfl

theorem Cx.changed_refused (c : Cx) {opc die : Nat} {k : SailKey} {r : Nat × State} (hw : i.attr.ctlByte.getLsbD 0 = true)
    (hr : r.1 ≠ 0) : c.changed i opc die k r = wide c opc i [tI32] [r.1] (c.sailLink r.2 opc die) := by
  rw [Cx.changed, if_pos hw, if_neg hr]

theorem Cx.changed_waits (c : Cx) {opc die : Nat} {k : SailKey} {r : Nat × State} (hw : i.attr.ctlByte.getLsbD 0 = true)
    (hr : r.1 = 0) : c.changed i opc die k r = c.sailWait r.2 k := by
  rw [Cx.changed, if_pos hw, if_pos hr]

/-- The changes that a stream may wait for, with their opcodes, the die of the controller and what it says. -/
def Cx.IsChange (c : Cx) (i : Ins) (x : Instr) (opc die : Nat) (r : Nat × State) : Prop :=
  let w (k : Nat) : Nat := c.warg i k 32
  (x, opc, die, r) = (.sailReef i, 0xFB, w 1, c.s.sailReef (c.sailKey (w 0)) (w 0) (w 1) (w 2) c.core) ∨
  (x, opc, die, r) = (.sailShake i, 0xFC, w 1, c.s.sailShake (c.sailKey (w 0)) (w 0) (w 1) (w 2) (w 3) c.core) ∨
  (x, opc, die, r) = (.sailDrop i, 0xFD, c.r.die, c.s.sailDrop (c.sailKey (w 0)) (w 0))

theorem exec_change (h : c.Runs) (hp : c.performs i = true) (hs : c.st.stage = []) (hm : c.MaySail) {x : Instr} {opc die : Nat}
    {r : Nat × State} (hx : c.IsChange i x opc die r) :
    exec x c.s = .next (c.changed i opc die (c.sailKey (c.warg i 0 32)) r) := by
  obtain e | e | e := hx <;> cases e
  · exact (sailChange_begins h hp hs (fun _ => hm) .. : execSailReef i c.s = _)
  · exact (sailChange_begins h hp hs (fun _ => hm) .. : execSailShake i c.s = _)
  · exact (sailChange_begins h hp hs (fun _ => hm) .. : execSailDrop i c.s = _)

theorem exec_sailDrop_unprivileged (h : c.Runs) (hp : c.performs i = true) (hs : c.st.stage = []) (hm : ¬ c.MaySail) :
    exec (.sailDrop i) c.s = c.trap 0x32 :=
  (sailChange_unprivileged h hp hs rfl hm .. : execSailDrop i c.s = _)

/-- A sail other than the cluster's own is not reefed or shaken out without the privilege (R358). -/
theorem exec_resize_unprivileged (h : c.Runs) (hp : c.performs i = true) (hs : c.st.stage = []) {id : Nat}
    (hk : c.sailKey (c.warg i 0 32) = .sys id) (hm : ¬ c.MaySail) :
    exec (.sailReef i) c.s = c.trap 0x32 ∧ exec (.sailShake i) c.s = c.trap 0x32 := by
  have hsys : unlessOwn c (c.sailKey (c.warg i 0 32)) = true := by rw [hk]; rfl
  exact ⟨(sailChange_unprivileged h hp hs hsys hm .. : execSailReef i c.s = _),
    (sailChange_unprivileged h hp hs hsys hm .. : execSailShake i c.s = _)⟩

/-! ### sail.query and sail.wb -/

theorem exec_sailQuery (h : c.Runs) (hp : c.performs i = true) : exec (.sailQuery i) c.s =
    .next (wide c 0xFE i [tI32] [c.s.sailShown (c.sailKey (c.warg i 0 32)) (c.warg i 1 32)] c.s) := by
  change execSailQuery i c.s = _
  simp only [execSailQuery, h.withCx, hp]
  rfl

/-- The write-back of the sail that a sail.wb names, and the accesses it waits for. -/
def Cx.wroteBack (c : Cx) (i : Ins) : State × List Nat :=
  c.s.sailWriteBack (c.sailKey (c.warg i 0 32)) c.core (i.attr.ctlByte.getLsbD 0)

theorem exec_sailWb (h : c.Runs) (hp : c.performs i = true) (hs : c.st.stage = []) (hst : c.st.st = []) : exec (.sailWb i) c.s =
    .next (if (c.wroteBack i).2 = [] then wide c 0xFF i [] [] (c.sailLink (c.wroteBack i).1 0xFF c.r.die)
      else (c.wroteBack i).1.modStream c.r fun st =>
        { st.blocked c.s.now (.sail (c.sailKey (c.warg i 0 32)).num) with stage := (c.wroteBack i).2 }) := by
  have hcount : c.st.count 2 = 0 := congrArg List.length hst
  change execSailWb i c.s = _
  simp only [execSailWb, h.withCx, hp, hs, hcount, Cx.sailLinked_eq, apply_ite Host.Outcome.next]
  rfl

/-! ### Chains -/

theorem exec_chMark (h : c.Runs) (hp : c.performs i = true) :
    exec (.chMark i) c.s = .next (moveOn (c.s.streamLink c.r 0x0E 0 (c.warg i 0 32) none none) c.r) := by
  change execChMark i c.s = _
  simp only [execChMark, h.withCx, hp]
  rfl

/-- The state with the STEP link of a ch.step recorded. -/
def Cx.stepped (c : Cx) (i : Ins) : State := c.s.streamLink c.r 0x0F 0 (c.warg i 0 32) none none

/-- The walk of a ch.step (R453). -/
def Cx.stepWalk (c : Cx) (i : Ins) : Walk :=
  { stream := c.r.idx, pos := ⟨c.st.func, c.st.off⟩, id := BitVec.ofNat 32 (c.warg i 0 32), seq := (c.s.core c.core).nextLink
    start := c.st.stepStart.getD 0, stop := (c.stepped i).now, dsts := c.st.destinations i [tI32], lanes := c.st.active }

theorem exec_chStep (h : c.Runs) (hp : c.performs i = true) : exec (.chStep i) c.s =
    .next (((c.stepped i).modCore c.core fun x => { x with walks := x.walks ++ [c.stepWalk i] }).modStream c.r fun st =>
      { st with stepStart := some (c.stepped i).now, pending := st.pending ++ pendingOf (c.stepWalk i).dsts }.retired) := by
  change execChStep i c.s = _
  simp only [execChStep, h.withCx, hp]
  rfl

/-! ### Traces -/

theorem exec_trStart (h : c.Runs) (hp : c.performs i = true) {va size : Nat} {b : Bool}
    (hb : c.s.traceBuf c.t.asid = some (va, size, b)) (hpin : c.s.bufferPinned c.core c.t.asid va size = true)
    (hc : c.t.capture = none) : exec (.trStart i) c.s =
      .next (moveOn ((c.s.modTeam c.core fun t => { t with capture := some {} }).traceWrite
        (c.record_ 2 (toBytes 4 (c.warg i 0 32)))) c.r) := by
  change execTrStart i c.s = _
  simp only [execTrStart, h.withCx, hp, hb, hpin, hc]
  rfl

theorem exec_trStop (h : c.Runs) (hp : c.performs i = true) {k : Capture} (hc : c.t.capture = some k) : exec (.trStop i) c.s =
    .next (moveOn ((c.s.traceWrite (c.record_ 3 (toBytes 8 k.cycles ++ toBytes 8 k.bundles ++ toBytes 8 k.stalls
      ++ toBytes 4 k.preempts ++ toBytes 4 (c.warg i 0 32)))).modTeam c.core fun t => { t with capture := none }) c.r) := by
  change execTrStop i c.s = _
  simp only [execTrStop, h.withCx, hp, hc]
  rfl

theorem exec_trEmit (h : c.Runs) (hp : c.performs i = true) (hc : c.t.capture.isSome = true) : exec (.trEmit i) c.s =
    .next (moveOn (c.s.traceWrite (c.record_ 4 (toBytes 4 (c.warg i 0 32) ++ [0, 0, 0, 0] ++ toBytes 8 (c.warg i 1 64)))) c.r) := by
  change execTrEmit i c.s = _
  simp only [execTrEmit, h.withCx, hp, hc]
  rfl

/-- Without a window neither tr.stop nor tr.emit records anything. -/
theorem exec_trace_unopened (h : c.Runs) (hp : c.performs i = true) (hc : c.t.capture = none) {x : Instr}
    (hx : x = .trStop i ∨ x = .trEmit i) : exec x c.s = .next (moveOn c.s c.r) := by
  obtain rfl | rfl := hx
  · change execTrStop i c.s = _
    simp only [execTrStop, h.withCx, hp, hc]
    rfl
  · change execTrEmit i c.s = _
    simp only [execTrEmit, h.withCx, hp, hc]
    rfl

/-! ### Counters -/

theorem exec_ctrRd (h : c.Runs) (hp : c.performs i = true) : exec (.ctrRd i) c.s = .next (wide c 0xF9 i [tI64] [
    if c.warg i 0 32 < 512 then
      ((((c.s.trace.seen[c.r.die]?).getD [])[c.s.partOf c.t.launch]?).getD {}).word (c.warg i 0 32)
    else if c.warg i 0 32 < 768 then ((c.s.core c.core).seenMatrix[c.warg i 0 32 - 512]?).getD 0 else 0] c.s) := by
  change execCtrRd i c.s = _
  simp only [execCtrRd, h.withCx, hp]
  rfl

/-- Settles O42: the changes of a sail by their privilege, their bit for .wait and their status; each of the others by its own
equation. -/
theorem observationAndSailInstructions : Obligations.ObservationAndSailInstructions := by
  unfold Obligations.ObservationAndSailInstructions
  intro i s r t st h hp c w key waitBit rec_ privileged
  have h : c.Runs := h
  have hp : c.performs i = true := hp
  refine ⟨fun hm s' bytes hrec => exec_sailDef h hp hm hrec, fun x opc die change hx hs hm => ?changes, fun hm hs => ?traps,
    exec_sailQuery h hp, fun hs hst => ?writeBack, exec_chMark h hp, exec_chStep h hp,
    fun va size b hb hpin hc => exec_trStart h hp hb hpin hc, fun k hc => exec_trStop h hp hc,
    fun hc x hx => exec_trace_unopened h hp hc hx, exec_trEmit h hp, exec_ctrRd h hp⟩
  case changes =>
    have hexec := exec_change h hp hs hm hx
    exact ⟨fun hw => hexec.trans (congrArg _ (c.changed_atOnce hw)),
      fun hw hr => hexec.trans (congrArg _ (c.changed_refused hw hr)),
      fun hw hr => hexec.trans (congrArg _ (c.changed_waits hw hr))⟩
  case traps =>
    exact ⟨exec_sailDef_unprivileged h hp hm, exec_sailDrop_unprivileged h hp hs hm,
      fun id hk => exec_resize_unprivileged h hp hs hk hm⟩
  case writeBack =>
    have hexec := exec_sailWb h hp hs hst
    refine ⟨fun hw => hexec.trans (congrArg _ (if_neg hw)), fun hw p hprod => ?_⟩
    have hlink : c.sailLink (c.wroteBack i).1 0xFF c.r.die = (c.wroteBack i).1.streamLink c.r 0x0B 15 0 (some p.1) none := by
      rw [Cx.sailLink, show c.st.prod = some p from hprod]
      rfl
    exact hexec.trans (congrArg _ ((if_pos hw).trans (congrArg _ hlink)))

end Sys2Proof.Machine
end

section
/-! The statement of spec/13_sail_engine.md on sweeps, drains and the commands of SL_CMD (R360 to R363, R368). -/
namespace Sys2Proof.Machine
open Sys2Proof.Claims

variable {s : State} {n d : Nat} {x : Sail} {p : SailPart}

/-! ### Sweeps -/

/-- Part `d` of the sail that the number `n` names. -/
structure State.HasPart (s : State) (n d : Nat) (x : Sail) (p : SailPart) : Prop where
  sail : s.sail? (sailKeyOf n) = some x
  part : x.part? d = some p

/-- That part is being swept: a change adds panels to it or takes them away (R361). -/
structure State.Sweeps (s : State) (n d : Nat) (x : Sail) (p : SailPart) : Prop extends s.HasPart n d x p where
  changing : p.phase = .shaking ∨ p.phase = .reefing

/-- The lines of a part that a test selects, written onward. -/
def State.cleaned (s : State) (n d : Nat) (test : SailPart → SailLine → Bool) : State :=
  s.cleanLines (sailKeyOf n) d (s.sailCore (sailKeyOf n)) test

/-- The lines that the swept panel's change displaces, written onward and dropped. -/
def State.swept (s : State) (n d : Nat) (x : Sail) : State :=
  (s.cleaned n d (displacedIn x)).dropLines (sailKeyOf n) d (displacedIn x)

/-- The sweep goes on with the part's next panel. -/
def State.nextPanel (s : State) (n d : Nat) : State :=
  let t := s.modSail (sailKeyOf n) fun x => x.modPart d fun p => { p with swept := p.swept + 1, sweeping := false }
  t.beginSweep (sailKeyOf n) d (t.sailCore (sailKeyOf n))

/-- The part's new list is in force. -/
def State.steady (s : State) (n d : Nat) : State :=
  (((s.noteSail (sailKeyOf n)).modSail (sailKeyOf n) fun x => x.modPart d fun p =>
    { p with phase := .steady, panels := p.next, next := [], swept := 0, sweeping := false }).sailEnded (sailKeyOf n) d)

theorem State.Sweeps.guard (h : s.Sweeps n d x p) : (p.phase != .shaking && p.phase != .reefing) = false := by
  obtain hp | hp := h.changing <;> rw [hp] <;> rfl

theorem exec_sweepPanel (h : s.Sweeps n d x p) : exec (.sweepPanel n d) s =
    .next (if p.sweepLeft ≠ 0 then s
      else if (s.cleaned n d (displacedIn x)).linesLeaving (sailKeyOf n) d (displacedIn x) then s.cleaned n d (displacedIn x)
      else if p.swept + 1 < p.panels.length then (s.swept n d x).nextPanel n d else (s.swept n d x).steady n d) := by
  change execSweepPanel n d s = _
  simp only [execSweepPanel, h.sail, h.part, h.guard, Bool.false_or, bne_iff_ne, apply_ite Host.Outcome.next]
  rfl

theorem exec_sweepPanel_busy (h : s.Sweeps n d x p) (hl : p.sweepLeft ≠ 0) : exec (.sweepPanel n d) s = .next s :=
  (exec_sweepPanel h).trans (congrArg _ (if_pos hl))

section
variable (h : s.Sweeps n d x p) (hl : p.sweepLeft = 0)
include h hl

theorem exec_sweepPanel_leaving
    (hw : (s.cleaned n d (displacedIn x)).linesLeaving (sailKeyOf n) d (displacedIn x) = true) :
    exec (.sweepPanel n d) s = .next (s.cleaned n d (displacedIn x)) := by
  rw [exec_sweepPanel h, if_neg (Decidable.not_not.2 hl), if_pos hw]

theorem exec_sweepPanel_ends
    (hw : (s.cleaned n d (displacedIn x)).linesLeaving (sailKeyOf n) d (displacedIn x) = false) :
    exec (.sweepPanel n d) s =
      .next (if p.swept + 1 < p.panels.length then (s.swept n d x).nextPanel n d else (s.swept n d x).steady n d) := by
  rw [exec_sweepPanel h, if_neg (Decidable.not_not.2 hl), if_neg (Bool.eq_false_iff.1 hw)]

end

/-- The sweep of a panel takes 512 cycles, and 4 for each of its displaced lines that is dirty. -/
theorem State.HasPart.beginSweep (h : s.HasPart n d x p) : s.beginSweep (sailKeyOf n) d (s.sailCore (sailKeyOf n)) =
    ((s.cleaned n d (displacedIn x)).sailTally (sailKeyOf n) 37 (p.lines.filter (displacedIn x p)).length).modSail (sailKeyOf n)
      fun y => y.modPart d fun q => { q with
        sweeping := true, sweepLeft := 512 + 4 * ((p.lines.filter (displacedIn x p)).filter fun l => l.dirty != 0).length } := by
  simp only [State.beginSweep, h.sail, h.part, Option.bind_some, Option.map_some]
  rfl

/-! ### Drains -/

/-- The part drains, and no access that was accepted for it is left (R362). -/
structure State.Drains (s : State) (n d : Nat) (x : Sail) (p : SailPart) : Prop extends s.HasPart n d x p where
  draining : p.phase = .draining
  quiet : ∀ a ∈ s.flights, ∀ l ∈ a.lanes, s.acceptedAt (sailKeyOf n) d a l = false

/-- The part is gone, and the sail with its last part. -/
def State.undefined (s : State) (n d : Nat) : State :=
  let t := ((s.noteSail (sailKeyOf n)).dropLines (sailKeyOf n) d fun _ _ => true).modSail (sailKeyOf n) fun x =>
    { x with parts := x.parts.filter fun q => q.die != x.partDie d }
  { t with sails := t.sails.filter fun x => x.parts != [] }.sailEnded (sailKeyOf n) d

theorem exec_drainComplete (h : s.Drains n d x p) : exec (.drainComplete n d) s =
    .next (if (s.cleaned n d fun _ _ => true).linesLeaving (sailKeyOf n) d (fun _ _ => true) then s.cleaned n d fun _ _ => true
      else (s.cleaned n d fun _ _ => true).undefined n d) := by
  have hphase : (p.phase != .draining) = false := by rw [h.draining]; rfl
  have hquiet : s.flights.any (fun a => a.lanes.any (s.acceptedAt (sailKeyOf n) d a)) = false := by simpa using h.quiet
  change execDrainComplete n d s = _
  simp only [execDrainComplete, h.sail, h.part, hphase, hquiet, Bool.or_self, Bool.false_eq_true, if_false,
    apply_ite Host.Outcome.next]
  rfl

/-! ### Commands -/

/-- `k` bytes of the record of a command, from byte `o` on. -/
abbrev State.cmdField (s : State) (rec : BitVec 64) (o k : Nat) : Nat := s.natAt (flatHost (rec.toNat + o)) k

/-- SL_CMD takes a command: the module is ready and none is running. -/
structure State.TakesSailCmd (s : State) : Prop where
  ready : s.board.ready = true
  idle : s.sailRegs.busy = false

section
variable (h : s.TakesSailCmd) {rec : BitVec 64}
include h

/-- A command does what its row stands for, and leaves the status. -/
theorem sailCommand_named {want : Nat} (hw : want ≤ 4) (hop : s.cmdField rec 0 2 = want)
    (act : (Nat → Nat → Nat) → Nat × State) :
    sailCommand want rec s act = .next ((act (s.cmdField rec)).2.sailCmdDone rec (act (s.cmdField rec)).1) := by
  simp only [sailCommand, h.ready, h.idle, hop, Nat.not_lt.2 hw, bne_self_eq_false, Bool.and_false, Bool.not_true, Bool.or_self,
    Bool.false_eq_true, if_false]

/-- No row stands for an operation above 4 (log entry 80). -/
theorem sailCommand_unknown (hop : 4 < s.cmdField rec 0 2) (want : Nat) (act : (Nat → Nat → Nat) → Nat × State) :
    sailCommand want rec s act = .next (s.sailCmdDone rec 5) := by
  simp only [sailCommand, h.ready, h.idle, hop, decide_eq_false (Nat.not_le.2 hop), Bool.false_and, Bool.not_true, Bool.or_self,
    Bool.false_eq_true, if_false, if_true]

theorem exec_slCmdResail_unknown (hop : 4 < s.cmdField rec 0 2) : exec (.slCmdResail rec) s = .next (s.sailCmdDone rec 5) := by
  change execSlCmdResail rec s = _
  simp only [execSlCmdResail, h.ready, h.idle, hop, decide_eq_false (Nat.not_le.2 hop), Bool.false_and, Bool.not_true, Bool.or_self,
    Bool.false_eq_true, if_false, if_true]

theorem exec_slCmd_unknown (hop : 4 < s.cmdField rec 0 2) {x : Instr}
    (hx : x ∈ [Instr.slCmdResail rec, .slCmdDefine rec, .slCmdDrop rec, .slCmdReef rec, .slCmdShake rec]) :
    exec x s = .next (s.sailCmdDone rec 5) := by
  have each : ∀ x ∈ [Instr.slCmdResail rec, .slCmdDefine rec, .slCmdDrop rec, .slCmdReef rec, .slCmdShake rec],
      exec x s = .next (s.sailCmdDone rec 5) := by
    have hrow := sailCommand_unknown h hop
    simp only [List.forall_mem_cons]
    exact ⟨exec_slCmdResail_unknown h hop, (hrow .. : execSlCmdDefine rec s = _), (hrow .. : execSlCmdDrop rec s = _),
      (hrow .. : execSlCmdReef rec s = _), (hrow .. : execSlCmdShake rec s = _), List.forall_mem_nil _⟩
  exact each _ hx

end

/-- The leaves of a resail's range. -/
abbrev State.resailLeaves (s : State) (rec : BitVec 64) : List (Leaf × Nat) :=
  let b := s.cmdField rec
  (s.leavesIn (b 2 2) (b 8 8 + 65536 * b 4 4) (b 4 4) (b 8 8)).filterMap fun x => x

/-- The new sail holds panels at the home of a leaf's page. -/
abbrev State.servesLeaf (s : State) (rec : BitVec 64) (x : Sail) (f : Leaf × Nat) : Bool :=
  s.sailServes (s.cmdField rec 16 1) (x.homeOf (entryLoc f.1.entry) (entryDie f.1.entry))

/-- The state with a resail in progress. -/
def State.resailing (s : State) (rec : BitVec 64) : State :=
  let b := s.cmdField rec
  { s with sailRegs := { s.sailRegs with
    resail := some { asid := b 2 2, sail := b 16 1, recAddr := rec.toNat
                     todo := (s.resailLeaves rec).map fun f => (f.1.base, f.2) }
    busy := true } }

theorem exec_slCmdResail (h : s.TakesSailCmd) {rec : BitVec 64} (hop : s.cmdField rec 0 2 = 0)
    (hx : s.sail? (.sys (s.cmdField rec 16 1)) = some x) : exec (.slCmdResail rec) s =
      .next (if (s.resailLeaves rec).all (s.servesLeaf rec x) then (s.resailing rec).resailGo else s.sailCmdDone rec 3) := by
  change execSlCmdResail rec s = _
  simp only [execSlCmdResail, h.ready, h.idle, hop, hx]
  cases (s.resailLeaves rec).all (s.servesLeaf rec x)
  · rfl
  · rfl

/-- Settles O50: the ends of a sweep and of a drain, and the commands, each by its own equation. -/
theorem sailCommandsAndSweeps : Obligations.SailCommandsAndSweeps := by
  unfold Obligations.SailCommandsAndSweeps
  intro s
  refine ⟨fun n d x p hx hp hphase => ?sweep, fun n d x p hx hp hphase => ?drain, fun rec hready hidle => ?commands⟩
  case sweep =>
    have h : s.Sweeps n d x p := ⟨⟨hx, hp⟩, hphase⟩
    exact ⟨exec_sweepPanel_busy h, fun hl hw => exec_sweepPanel_leaving h hl hw,
      fun hl hw hn => (exec_sweepPanel_ends h hl hw).trans (congrArg _ (if_pos hn)),
      fun hl hw hn => (exec_sweepPanel_ends h hl hw).trans (congrArg _ (if_neg (Nat.not_lt.2 hn))),
      fun out hout => hout ▸ h.beginSweep, fun l => rfl⟩
  case drain =>
    intro k hquiet e
    have hexec := exec_drainComplete (s := s) ⟨⟨hx, hp⟩, hphase, hquiet⟩
    exact ⟨fun hw => hexec.trans (congrArg _ (if_pos hw)), fun hw => hexec.trans (congrArg _ (if_neg (Bool.eq_false_iff.1 hw)))⟩
  case commands =>
    have h : s.TakesSailCmd := ⟨hready, hidle⟩
    intro b ends
    refine ⟨fun hop => (sailCommand_named h (by decide) hop _ : execSlCmdDefine rec s = _),
      fun hop => (sailCommand_named h (by decide) hop _ : execSlCmdDrop rec s = _),
      fun hop => (sailCommand_named h (by decide) hop _ : execSlCmdReef rec s = _),
      fun hop => (sailCommand_named h (by decide) hop _ : execSlCmdShake rec s = _),
      fun x hop hx => ?resail, fun hop x hx => exec_slCmd_unknown h hop hx⟩
    have hexec := exec_slCmdResail h hop hx
    refine ⟨fun hall => hexec.trans (congrArg _ (if_pos (List.all_eq_true.2 hall))), fun ⟨f, hf, hserves⟩ => ?_⟩
    have hall : ¬ (s.resailLeaves rec).all (s.servesLeaf rec x) = true := fun hall =>
      Bool.false_ne_true (hserves.symm.trans (List.all_eq_true.1 hall f hf))
    exact hexec.trans (congrArg _ (if_neg hall))

end Sys2Proof.Machine
end

section
/-! The statement of spec/14_fabric_engine.md on device links, peers and die resets (R373, R383 to R390): its clause on the timeout
of a link leaves out the count of link replays (Table 18.6). -/
namespace Sys2Proof.Machine
open Sys2Proof.Claims

/-! ### Replay -/

/-- The state with every flit of a port sent again, and the replay counted as an event (R385). -/
def State.replayed (s : State) (n : Nat) : State :=
  (s.modPort n fun p =>
    { p with replays := satAdd32 p.replays p.replayBuf.length, since := s.now, stuck := p.stuck + 1
             retraining := p.retraining || decide (8 ≤ p.stuck + 1) }).partEvent 0 0x51

/-- A timeout sends the flits again, and adds a link replay to the multiplexed quantity 58. -/
theorem exec_replayTimeout {s : State} {n : Nat} (hup : (s.port n).up = true) (hb : (s.port n).replayBuf ≠ [])
    (ht : 2000 ≤ s.since (s.port n).since) : exec (.replayTimeout n) s = .next ((s.replayed n).tally 0 58 1) := by
  change execReplayTimeout n s = _
  simp only [execReplayTimeout, hup, beq_eq_false_iff_ne.2 hb, decide_eq_false (Nat.not_lt.2 ht), Bool.not_true, Bool.or_self,
    Bool.false_eq_true, if_false]
  rfl

/-! ### A link that waits for an acknowledgement -/

/-- A flit without payload. -/
def idleFlit : Flit :=
  { seq := 0, vc := 0, cls := false, ackSeq := 0, nak := false, dst := 0, srcDev := 0, inc := 0, payload := [], link := [] }

/-- A module 2 µs after its reset: one flit waits at port 0, and the first selector of partition 0 counts link replays. -/
def awaitingAck : State :=
  { State.reset with
    ticks := 950400
    fabric := { State.reset.fabric with ports := [{ up := true, replayBuf := [idleFlit] }] }
    trace := { State.reset.trace with pages := [{ sel := [186] }] } }

/-- The words of partition 0's multiplexed counters. -/
def State.muxedWords (s : State) : List (Nat × Nat) := ((s.trace.pages[0]?).map CounterPage.muxed).getD []

/-- Refutes O47, in its clause on the timeout of a link: the replay is counted not only as an event but also as the multiplexed
quantity 58, which the statement leaves out. -/
theorem not_linksPeersAndDieResets : ¬ Obligations.LinksPeersAndDieResets := by
  unfold Obligations.LinksPeersAndDieResets
  intro hall
  have hup : (awaitingAck.port 0).up = true := by decide
  have hb : (awaitingAck.port 0).replayBuf ≠ [] := by decide
  have ht : 2000 ≤ awaitingAck.since (awaitingAck.port 0).since := by decide
  obtain ⟨-, -, hreplay, -⟩ := hall awaitingAck 0
  have hsame : (awaitingAck.replayed 0).tally 0 58 1 = awaitingAck.replayed 0 :=
    Host.Outcome.next.inj ((exec_replayTimeout hup hb ht).symm.trans (hreplay hup hb ht))
  have hdiffer : ((awaitingAck.replayed 0).tally 0 58 1).muxedWords ≠ (awaitingAck.replayed 0).muxedWords := by decide
  exact hdiffer (congrArg State.muxedWords hsame)

end Sys2Proof.Machine
end

section
/-! The statement of spec/19_bringup_power_security.md (R475 to R481, R484, R485). -/
namespace Sys2Proof.Machine
open Sys2Proof.Claims

variable {s : State}

/-! ### Power-on -/

theorem exec_powerGood (h : s.board.step = 0) : exec .powerGood s = .next (s.atStep 1) :=
  (if_pos h : execPowerGood s = _)

theorem exec_moduleReset (s : State) : exec .moduleReset s = .next (s.restarted.atStep 1) := rfl

/-- The step after `n`: step 5 only when the boot configuration asks for it. -/
def State.nextStep (s : State) (n : Nat) : Nat := if n = 4 ∧ s.board.bootZero = false then 6 else n + 1

theorem State.stepAfter_eq (s : State) (n : Nat) : s.stepAfter n = s.nextStep n := by
  simp only [State.stepAfter, State.nextStep, Bool.not_eq_true']

/-- The board once the dies' results of step `n` are in; DIEOK shows them after the last of steps 2 to 5 (log entry 32). -/
def State.boardAfter (s : State) (n : Nat) (ok : BitVec 6) : Board :=
  if n < 2 ∨ 5 < n then s.board
  else { s.board with
    passing := s.board.passing &&& ok, dieOk := if s.nextStep n = 6 then s.board.passing &&& ok else s.board.dieOk }

theorem State.passed_eq (s : State) (n : Nat) (ok : BitVec 6) : s.passed n ok = { s with board := s.boardAfter n ok } := by
  rw [State.passed, State.boardAfter, State.stepAfter_eq]
  split <;> rfl

/-- The state after what step `n` does. -/
def State.afterStep (s : State) (n : Nat) (ok : BitVec 6) : State :=
  ({ s with board := s.boardAfter n ok } : State).stepDone n

theorem State.boardAfter_bootZero (s : State) (n : Nat) (ok : BitVec 6) : (s.boardAfter n ok).bootZero = s.board.bootZero := by
  rw [State.boardAfter]
  split <;> rfl

theorem State.stepDone_bootZero (s : State) (n : Nat) : (s.stepDone n).board.bootZero = s.board.bootZero := by
  unfold State.stepDone
  split <;> rfl

theorem State.afterStep_nextStep (s : State) (n : Nat) (ok : BitVec 6) (m : Nat) :
    (s.afterStep n ok).nextStep m = s.nextStep m := by
  have hzero : (s.afterStep n ok).board.bootZero = s.board.bootZero :=
    (State.stepDone_bootZero _ n).trans (s.boardAfter_bootZero n ok)
  rw [State.nextStep, hzero, State.nextStep]

/-- A step of the power-on sequence is in progress, and none has failed. -/
structure State.Booting (s : State) : Prop where
  begun : 1 ≤ s.board.step
  notOver : s.board.step ≤ 7
  sound : s.board.err = 0

section
variable (h : s.Booting)
include h

theorem State.Booting.guard : ¬ (s.board.step = 0 ∨ 7 < s.board.step ∨ s.board.err ≠ 0) := by
  obtain ⟨h1, h7, he⟩ := h
  rintro (h | h | h)
  · omega
  · omega
  · exact h he

theorem exec_bringUpStepEnd (ok : BitVec 6) (hn : s.board.step < 7) : exec (.bringUpStepEnd 0 ok) s =
    .next ((s.afterStep s.board.step ok).atStep (s.nextStep s.board.step)) := by
  rw [← s.afterStep_nextStep s.board.step ok]
  change execBringUpStepEnd 0 ok s = _
  simp only [execBringUpStepEnd, h.guard, Nat.ne_of_lt hn, State.passed_eq, State.stepAfter_eq, if_false, if_true]
  rfl

/-- The module is ready after step 7 (R475). -/
theorem exec_bringUpStepEnd_last (ok : BitVec 6) (hn : s.board.step = 7) : exec (.bringUpStepEnd 0 ok) s =
    .next { s.afterStep s.board.step ok with
      board := { (s.afterStep s.board.step ok).board with ready := true, step := 8 } } := by
  have hg := h.guard
  change execBringUpStepEnd 0 ok s = _
  rw [hn] at hg ⊢
  simp only [execBringUpStepEnd, hn, hg, State.passed_eq, if_false, if_true]
  rfl

theorem exec_bringUpStepEnd_fails (ok : BitVec 6) {e : Nat} (he : e ∈ failuresOf s.board.step) (h0 : e ≠ 0) :
    exec (.bringUpStepEnd e ok) s =
      .next { s with board := { s.boardAfter s.board.step ok with err := BitVec.ofNat 8 e } } := by
  have hc : (failuresOf s.board.step).contains e = true := List.contains_iff_mem.2 he
  change execBringUpStepEnd e ok s = _
  simp only [execBringUpStepEnd, h.guard, h0, hc, State.passed_eq, if_false, if_true]

end

/-! ### Clocks, power and temperature -/

/-- A die changed, which begins to relock when its point is to change (R479). -/
def State.redirect (s : State) (d : Nat) (f : Die → Die) : State :=
  s.modDie d fun x => { f x with relock := (f x).relock || decide ((f x).goal ≠ (f x).cur) }

theorem State.modDie_retarget (s : State) (d : Nat) (f : Die → Die) : (s.modDie d fun x => (f x).retarget) = s.redirect d f := by
  have hne (a b : Nat) : (a != b) = decide (a ≠ b) := decide_not.symm
  simp only [State.redirect, Die.retarget, hne]

section
variable (hr : s.board.ready = true)
include hr

theorem exec_hbDvfs (d : Nat) (w : BitVec 32) :
    exec (.hbDvfs d w) s = .next (s.redirect d fun d => { d with req := (w.extractLsb' 0 2).toNat }) := by
  rw [← State.modDie_retarget]
  change execHbDvfs d w s = _
  rw [execHbDvfs, hr]
  rfl

/-- Too few measurements have been taken for a mean. -/
theorem exec_powerMeasurement_early {watts : Nat} (hl : (watts :: s.board.samples).length < 10) :
    exec (.powerMeasurement watts) s = .next { s with board := { s.board with samples := watts :: s.board.samples } } := by
  have htake : (watts :: s.board.samples).take 10 = watts :: s.board.samples := List.take_of_length_le (Nat.le_of_lt hl)
  change execPowerMeasurement watts s = _
  simp only [execPowerMeasurement, hr, htake, hl, if_true, Bool.not_true, Bool.false_eq_true, if_false]

end

/-- The last ten measurements with a new one. -/
def State.lastTen (s : State) (watts : Nat) : List Nat := (watts :: s.board.samples).take 10

/-- Their mean. -/
def State.meanPower (s : State) (watts : Nat) : Nat := (s.lastTen watts).sum / 10

/-- The cap of the module's power (R480). -/
def State.powerCap (s : State) : Nat := Nat.min s.board.pcap.toNat 6000

/-- The means in a row that were below 95 percent of the cap. -/
def State.underCap (s : State) (watts : Nat) : Nat :=
  if s.meanPower watts * 100 < s.powerCap * 95 then s.board.under + 1 else 0

/-- A die is to run one point slower: the mean is above the cap, and ten means have passed since the last such change. -/
abbrev State.Lowers (s : State) (watts : Nat) : Prop := s.powerCap < s.meanPower watts ∧ s.board.cool ≤ 1

/-- The state with a measurement counted. -/
def State.measured (s : State) (watts : Nat) : State :=
  { s with board := { s.board with
    samples := s.lastTen watts, power := BitVec.ofNat 13 (Nat.min (s.meanPower watts) 8191)
    cool := if s.Lowers watts then 10 else s.board.cool - 1
    under := if 100 ≤ s.underCap watts then 0 else s.underCap watts } }

theorem exec_powerMeasurement (hr : s.board.ready = true) {watts : Nat} (hl : (s.lastTen watts).length = 10) :
    exec (.powerMeasurement watts) s = .next (if s.Lowers watts then (s.measured watts).lowerOne
      else if 100 ≤ s.underCap watts then (s.measured watts).raiseOne else s.measured watts) := by
  have hlow (cap mean : Nat) : (decide (cap < mean) && s.board.cool - 1 == 0) = true ↔ cap < mean ∧ s.board.cool ≤ 1 := by
    simp only [Bool.and_eq_true, decide_eq_true_eq, beq_iff_eq, Nat.sub_eq_zero_iff_le]
  have hready : ¬ (!s.board.ready) = true := by simp [hr]
  rw [State.lastTen] at hl
  change execPowerMeasurement watts s = _
  rw [execPowerMeasurement, if_neg hready]
  simp only [hl, ← List.sum_eq_foldl, hlow, decide_eq_true_eq, Nat.lt_irrefl, if_false]
  rfl

section
variable (hr : s.board.ready = true) (ht : s.board.thermOff = false) {d : Nat} (hd : d ≤ 5)
include hr ht hd

theorem exec_junctionTemperature (t : Int) : exec (.junctionTemperature d t) s =
    if 115 < t then .next s.thermalTrip
    else if 105 < t then .next (s.redirect d fun d => { d with therm := true })
    else if t < 95 then .next (s.redirect d fun d => { d with therm := false })
    else .next s := by
  simp only [← State.modDie_retarget]
  change execJunctionTemperature d t s = _
  simp only [execJunctionTemperature, hr, ht, decide_eq_false (Nat.not_lt.2 hd), Bool.not_true, Bool.or_self, Bool.false_eq_true,
    if_false]

end

theorem exec_pllRelock {d : Nat} (hk : s.relocking d = true) (hl : s.landedOn d = true) :
    exec (.pllRelock d) s = .next (s.modDie d fun d => { d with cur := d.goal, relock := false }) := by
  change execPllRelock d s = _
  rw [execPllRelock, hk, hl]
  rfl

/-! ### Soft errors -/

theorem exec_scrub (g : Nat) (f : ScrubFind) (s : State) : exec (.scrub g f) s = execScrub g f s := rfl

theorem exec_scrub_panelState {d p : Nat} (hd : d ≤ 5) (hp : p < 6144) (g : Nat) :
    exec (.scrub g (.panelState d p)) s = .next (s.failPanel (d, p)) := by
  have hin : ¬ (5 < d ∨ 6144 ≤ p) := by omega
  exact (exec_scrub g (.panelState d p) s).trans (if_neg hin)

/-! ### The security processor -/

section
variable (hr : s.board.ready = true) {w : BitVec 32}
include hr

theorem exec_secCmd (hgo : w.getLsbD 0 = true) (hj : s.security.job = none) : exec (.secCmd w) s =
    .next { s with security := if s.security.repAddr.toNat % 4096 = 0 then
        { s.security with job := some (s.security.repAddr.toNat, s.security.nonce), err := 0 }
      else { s.security with err := 1 } } := by
  change execSecCmd w s = _
  simp only [execSecCmd, hr, hgo, hj]
  by_cases ha : s.security.repAddr.toNat % 4096 = 0
  · simp [ha]
  · simp [ha]

/-- The challenge is of 32 bytes drawn one after another (log entry 96). -/
theorem exec_secChal : exec .secChal s = .next { s with fresh := s.fresh + 32, security := { s.security with
    chal := (List.range 32).map fun i => BitVec.ofNat 8 (Config.freeValue (s.fresh + i)) } } := by
  change execSecChal s = _
  rw [execSecChal, hr]
  rfl

/-- The signature as SEC_UNLOCK has it after a write of its last word. -/
def State.unlockWith (s : State) (w : BitVec 32) : List Byte := Machine.overlay 92 (toBytes 4 w.toNat) s.security.unlock

theorem exec_secUnlock_valid (hl : s.security.lockout = false)
    (hv : Config.debugSignature (s.unlockWith w) (s.security.chal ++ toBytes 8 s.security.serial.toNat) = true) :
    exec (.secUnlock w) s =
      .next { s with security := { s.security with unlock := s.unlockWith w, unlocked := true } } := by
  rw [State.unlockWith] at hv
  change execSecUnlock w s = _
  simp only [execSecUnlock, hr, hl, hv, if_true]
  rfl

theorem exec_secUnlock_invalid (hl : s.security.lockout = false)
    (hv : Config.debugSignature (s.unlockWith w) (s.security.chal ++ toBytes 8 s.security.serial.toNat) = false) :
    exec (.secUnlock w) s = .next { s with security := { s.security with
      unlock := s.unlockWith w, fails := s.security.fails + 1, lockout := s.security.fails == 2 } } := by
  rw [State.unlockWith] at hv
  change execSecUnlock w s = _
  simp only [execSecUnlock, hr, hl, hv]
  rfl

end

/-! ### The attestation report -/

/-- The state with other registers of the security processor, and another count of the values drawn. -/
def State.withSecurity (s : State) (x : Security) (n : Nat) : State := { s with security := x, fresh := n }

theorem State.settle_withSecurity (s : State) (x : Security) (n g : Nat) :
    (s.withSecurity x n).settle g = (s.settle g).withSecurity x n := by
  have hfresh : (s.withSecurity x n).isFresh g = s.isFresh g := rfl
  rw [State.settle, State.settle, hfresh]
  split <;> rfl

theorem State.mark_withSecurity (s : State) (x : Security) (n a k : Nat) (bad : Bool) (g : Nat) :
    (s.withSecurity x n).mark a k bad g = (s.mark a k bad g).withSecurity x n := by
  rw [State.mark, State.mark, State.settle_withSecurity]
  split
  · rfl
  · split <;> rfl

/-- Memory does not depend on the security processor. -/
theorem State.writeBytes_withSecurity (s : State) (x : Security) (n a : Nat) (bs : List Byte) :
    (s.withSecurity x n).writeBytes a bs = (s.writeBytes a bs).withSecurity x n := by
  rw [State.writeBytes, List.foldl_hom (State.withSecurity · x n) fun s g => State.mark_withSecurity s x n a bs.length false g]
  rfl

@[simp] theorem State.writeBytes_security (s : State) (a : Nat) (bs : List Byte) : (s.writeBytes a bs).security = s.security := by
  have h := congrArg State.security (s.writeBytes_withSecurity s.security s.fresh a bs)
  exact h

theorem exec_attestationReportDone_failed {addr : Nat} {nonce : List Byte} (hj : s.security.job = some (addr, nonce)) :
    exec (.attestationReportDone false) s = .next { s with security := { s.security with job := none, err := 2 } } := by
  change execAttestationReportDone false s = _
  simp only [execAttestationReportDone, hj]
  rfl

/-- The signature of a report. -/
def State.signature (s : State) (nonce : List Byte) : List Byte :=
  (List.range 96).map fun i => Config.identitySignature s.fresh (s.attestation nonce) i

/-- The state once a report has been written: its signature's number is used up. -/
def State.reported (s : State) : State := { s with fresh := s.fresh + 1, security := { s.security with done := true } }

theorem State.reported_withSecurity (s : State) (x : Security) (n : Nat) :
    (s.withSecurity x n).reported = s.withSecurity { x with done := true } (n + 1) := rfl

theorem exec_attestationReportDone {addr : Nat} {nonce : List Byte} (hj : s.security.job = some (addr, nonce)) :
    exec (.attestationReportDone true) s = .next
      ((s.writeBytes (flatHost addr) (s.attestation nonce ++ s.signature nonce)).withSecurity
        { s.security with job := none, done := true } (s.fresh + 1)) := by
  have hw := s.writeBytes_withSecurity { s.security with job := none } s.fresh (flatHost addr)
    (s.attestation nonce ++ s.signature nonce)
  change execAttestationReportDone true s = _
  simp only [execAttestationReportDone, hj]
  exact (congrArg (fun u : State => Host.Outcome.next u.reported) hw).trans (congrArg _ (State.reported_withSecurity ..))

/-- Settles O52: each step of bring-up, each measurement, finding and command by its own equation. -/
theorem bringUpPowerAndSecurity : Obligations.BringUpPowerAndSecurity := by
  unfold Obligations.BringUpPowerAndSecurity
  intro s
  refine ⟨exec_powerGood, exec_moduleReset s, fun ok h1 h7 he => ?bringUp, fun hr => ?ready, fun addr nonce hj => ?report,
    fun d hk hl => exec_pllRelock hk hl, fun g => ?scrub⟩
  case bringUp =>
    have h : s.Booting := ⟨h1, h7, he⟩
    exact ⟨exec_bringUpStepEnd h ok, exec_bringUpStepEnd_last h ok, fun e he h0 => exec_bringUpStepEnd_fails h ok he h0⟩
  case ready =>
    refine ⟨exec_hbDvfs hr, fun watts hl => exec_powerMeasurement_early hr hl, fun watts => exec_powerMeasurement hr,
      fun d t ht hd => ?temperature, fun w hgo hj => ?secCmd, fun t ht => ?challenge, ⟨_, exec_secChal hr⟩,
      fun w hl => ?unlock⟩
    case temperature =>
      have hexec := exec_junctionTemperature hr ht hd t
      refine ⟨fun h => hexec.trans (if_pos h), fun h105 h115 => ?_, fun h95 => ?_, fun h95 h105 => ?_⟩
      · exact hexec.trans ((if_neg (by omega)).trans (if_pos h105))
      · exact hexec.trans ((if_neg (by omega)).trans ((if_neg (by omega)).trans (if_pos h95)))
      · exact hexec.trans ((if_neg (by omega)).trans ((if_neg (by omega)).trans (if_neg (by omega))))
    case secCmd =>
      have hexec := exec_secCmd hr hgo hj
      exact ⟨fun ha => by rw [hexec, if_pos ha], fun ha => by rw [hexec, if_neg ha]⟩
    case challenge =>
      cases (exec_secChal hr).symm.trans ht
      exact ⟨_, rfl⟩
    case unlock => exact ⟨exec_secUnlock_valid hr hl, exec_secUnlock_invalid hr hl⟩
  case report =>
    refine ⟨exec_attestationReportDone_failed hj, s.signature nonce, by simp [State.signature], ?_⟩
    intro s'
    have hs : s'.security = s.security := s.writeBytes_security _ _
    rw [exec_attestationReportDone hj, hs]
    rfl

  case scrub =>
    exact ⟨exec_scrub g .clean s, exec_scrub g .singleBit s, exec_scrub g .uncorrectable s,
      fun d p hd hp => exec_scrub_panelState hd hp g,
      fun d hash entry ident budget => exec_scrub g (.translation d hash entry ident budget) s,
      fun c seq => exec_scrub g (.link c seq) s⟩

end Sys2Proof.Machine
end
